-- ==== Sys2Proof/Word.lean ====
section
/-! DEFINITION. Words, bytes and the sparse table type. Field layouts are R9 to R11: bit 0 is the least
significant bit, multi-byte fields are little-endian. The operations on tables are in Machine/Table.lean. -/

namespace Sys2Proof

abbrev Byte := BitVec 8
abbrev W16 := BitVec 16
abbrev W32 := BitVec 32
abbrev W64 := BitVec 64

/-- A sparse table: entries sorted by strictly rising key, none of them equal to what an unlisted key reads as.
The value of an unlisted key is named at each use (the reset value of the thing held). -/
abbrev Tbl (α : Type) := List (Nat × α)

/-- What the code of a stored word finds when the word is read (R236, R319). -/
inductive Ecc where
  /-- no error found by this read -/
  | clean
  /-- a single-bit or one-symbol error: corrected and counted -/
  | single
  /-- a double-bit or two-symbol error: no data is delivered -/
  | double
deriving DecidableEq, Repr

end Sys2Proof
end

