-- ==== Sys2Proof/Syntax.lean ====
section
/-! DEFINITION. The commands of the block, one constructor of `Instr` for each row of the opcode table, with the
operands the manual gives the row. A Tiller command names the issuing berth and carries the decoded fields of the
instruction word (R186); an event names the unit it happens at and carries what reaches the module with it. -/

namespace Sys2Proof

/-- The berth that issues an instruction (R155). -/
structure Thr where
  core : Nat
  berth : Nat
deriving DecidableEq, Repr

/-- Fields RD, RA, RB of the instruction word (R186). -/
abbrev Reg := BitVec 6
/-- A predicate number p0 to p3 (R191). -/
abbrev Prd := BitVec 2
/-- The IMM field (R188). -/
abbrev Imm := BitVec 38

/-- The second operand of an integer instruction: class 0x0 names RB, class 0x1 holds imm (R192). -/
inductive Src2 where
  | reg (rb : Reg)
  | imm (v : Imm)
deriving DecidableEq, Repr

/-- The IMM field of an atomic (R208). -/
structure AtomF where
  wide : Bool
  acq : Bool
  rel : Bool
  off : W32
deriving DecidableEq, Repr

/-- A towline beat as it arrives (R118, R119): its numbers, how many of its records were corrected, and whether one of them is
uncorrectable. -/
structure Beat where
  serial : Nat
  item : Nat
  pass : Nat
  row : Nat
  corrected : Nat
  bad : Bool
deriving DecidableEq, Repr

/-- Errors that the reads of a command find (R236, R319): the physical address of a word, granule or unit, and what its code shows
(log 124, DESIGN CHOICE, safe). -/
abbrev Finds := List (Nat × Ecc)

/-- What the reads of a streamed row show (R95, R115): how many pair records of accumulator buffers were corrected, whether one is
uncorrectable, and the errors in operands. -/
structure RowReads where
  corrected : Nat
  bad : Bool
  finds : Finds
deriving DecidableEq, Repr

/-- What reaches an engine port with a descriptor: the other requesters that present one in the same fabric cycle, 0 to 3 for a
pipeline and 4 for the lane (R158; log 124, DESIGN CHOICE, safe), and the errors in what the port reads (R236). -/
structure PortIn where
  rivals : List Nat
  finds : Finds
deriving DecidableEq, Repr

/-- Field RA of an ISSUE, and what meets its descriptor at the port. -/
structure IssueRa where
  ra : Reg
  port : PortIn
deriving DecidableEq, Repr

/-- The lane of a core, and what meets its descriptor at the port. -/
structure LaneAt where
  core : Nat
  port : PortIn
deriving DecidableEq, Repr

/-- Where a crossing meets an uncorrectable error (R301). -/
inductive XErr where
  | none
  | validation
  | commit
deriving DecidableEq, Repr

/-- An engine instance (for a per-core engine its core), the non-preemptible units it runs (R254), the errors in what its operation reads
(R236, R319), and what its crossing finds (R301). -/
structure EngRun where
  num : Nat
  units : Nat
  finds : Finds
  xing : XErr
deriving DecidableEq, Repr

/-- An Azlink packet: the header fields of R415 in wire order, and the payload. -/
structure Pkt where
  type : Byte
  flags : Byte
  vcLen : W16
  src : W16
  dst : W16
  psn : W32
  ackPsn : W32
  mepoch : W32
  spec : List Byte
  payload : List Byte
deriving DecidableEq, Repr

/-- An arriving Azlink frame (R414): source MAC address, the packet, its CHECK, and whether the FCS was right. -/
structure Frame where
  sa : BitVec 48
  pkt : Pkt
  check : W32
  fcsOk : Bool
deriving DecidableEq, Repr

/-- What an engine unit's account structures show when they are read (R407, R408). -/
inductive AcctErr where
  | none
  | vt (account : Nat)
  | debt (account : Nat)
  | total (account : Nat)
  | count
deriving DecidableEq, Repr

/-- The cargo of a capsule as it arrives (R507), and how many programs fail when it goes to the tier (R329). -/
structure CargoIn where
  bytes : List Byte
  fails : Nat
deriving DecidableEq, Repr

/-- What a command programs into the tier, and how many programs fail on the way (R329). -/
structure FlashPut where
  num : Nat
  fails : Nat
deriving DecidableEq, Repr

/-- The writing of a mooring to the tier: whether every staged page can be read, and how many programs fail on the way (R329, R363). -/
structure MoorPut where
  ok : Bool
  fails : Nat
deriving DecidableEq, Repr

/-- What the erase of a block meets: its block-table entry can be read nowhere (R585), or the erase fails (R329). -/
inductive EraseErr where
  | none
  | table
  | failed
deriving DecidableEq, Repr

/-- The outcome of one flash read: read-retries made and whether the last one decoded (R329, R330). -/
structure FlashRead where
  retries : Nat
  ok : Bool
deriving DecidableEq, Repr

/-- The reads that fetch a 64 KiB page, in order: one for each of its units, or for each NAND page of its compressed frame; a read that is
not listed is clean (R330, R341). -/
structure PageRead where
  reads : List FlashRead
deriving DecidableEq, Repr

/-- What the receiver of a WIN_WRITE finds uncorrectable (R585, law 10). -/
inductive WinErr where
  | clean | window | outcome
deriving DecidableEq, Repr

/-- What the receiver of a CREDIT_REQ finds uncorrectable: a count of the peer's entry or the reserve (R585, law 1), or another field of
the entry (R429). -/
inductive PeerErr where
  | clean | entry | reserve | other
deriving DecidableEq, Repr

/-- The replica's answer in the compare phase of a restore (R374). -/
inductive DigestReply where
  | digest (d : List Byte)
  | noMooring
  | unreachable
deriving DecidableEq, Repr

/-- A register of the interrupt unit that firmware writes (R551, R552). -/
inductive IuReg where
  | src (n : Nat)
  | threshold (core : Nat)
deriving DecidableEq, Repr

/-- Why a link goes down (R421). -/
inductive DownCause where
  | lock
  | fec
  | silent
deriving DecidableEq, Repr

/-- What fails at steps 5 to 7 of a boot (R38, R521). -/
inductive BootFail where
  | none
  | pll (core : Nat)
  | bridge
  | dram (stack : Nat)
  | map
deriving DecidableEq, Repr

/-- What steps 5 to 7 of a boot meet: the unit that fails, and the words that fail the zeroing pass, each as the number of its bank
(core * 64 + bank) and its place in the bank (R245). -/
structure BootRun where
  fail : BootFail
  zeroing : List (Nat × Nat)
deriving DecidableEq, Repr

/-- The commands. -/
inductive Instr where
  -- Integer, classes 0x0 and 0x1 (R192)
  | add (t : Thr) (rd ra : Reg) (b : Src2)
  | sub (t : Thr) (rd ra : Reg) (b : Src2)
  | mul (t : Thr) (rd ra : Reg) (b : Src2)
  | mulhu (t : Thr) (rd ra : Reg) (b : Src2)
  | and (t : Thr) (rd ra : Reg) (b : Src2)
  | or (t : Thr) (rd ra : Reg) (b : Src2)
  | xor (t : Thr) (rd ra : Reg) (b : Src2)
  | shl (t : Thr) (rd ra : Reg) (b : Src2)
  | shr (t : Thr) (rd ra : Reg) (b : Src2)
  | sar (t : Thr) (rd ra : Reg) (b : Src2)
  | min (t : Thr) (rd ra : Reg) (b : Src2)
  | max (t : Thr) (rd ra : Reg) (b : Src2)
  | minu (t : Thr) (rd ra : Reg) (b : Src2)
  | maxu (t : Thr) (rd ra : Reg) (b : Src2)
  | divu (t : Thr) (rd ra : Reg) (b : Src2)
  | remu (t : Thr) (rd ra : Reg) (b : Src2)
  -- Compare, select and predicate, class 0x2 (R193)
  | cmpEq (t : Thr) (pd : Prd) (ra rb : Reg)
  | cmpNe (t : Thr) (pd : Prd) (ra rb : Reg)
  | cmpLt (t : Thr) (pd : Prd) (ra rb : Reg)
  | cmpLtu (t : Thr) (pd : Prd) (ra rb : Reg)
  | cmpGe (t : Thr) (pd : Prd) (ra rb : Reg)
  | cmpGeu (t : Thr) (pd : Prd) (ra rb : Reg)
  | sel (t : Thr) (rd ra rb : Reg) (p : Prd)
  | lih (t : Thr) (rd ra : Reg) (imm : W32)
  | pand (t : Thr) (pd pa pb : Prd)
  | por (t : Thr) (pd pa pb : Prd)
  | pnot (t : Thr) (pd pa : Prd)
  -- Scalar FP32, class 0x3 (R194)
  | fadd (t : Thr) (rd ra rb : Reg) (rnd : BitVec 2)
  | fsub (t : Thr) (rd ra rb : Reg) (rnd : BitVec 2)
  | fmul (t : Thr) (rd ra rb : Reg) (rnd : BitVec 2)
  | ffma (t : Thr) (rd ra rb : Reg) (rnd : BitVec 2)
  | fdiv (t : Thr) (rd ra rb : Reg) (rnd : BitVec 2)
  | fsqrt (t : Thr) (rd ra : Reg) (rnd : BitVec 2)
  | fmin (t : Thr) (rd ra rb : Reg) (rnd : BitVec 2)
  | fmax (t : Thr) (rd ra rb : Reg) (rnd : BitVec 2)
  | fcvtFi (t : Thr) (rd ra : Reg) (rnd : BitVec 2)
  | fcvtIf (t : Thr) (rd ra : Reg) (rnd : BitVec 2)
  | feq (t : Thr) (pd : Prd) (ra rb : Reg)
  | flt (t : Thr) (pd : Prd) (ra rb : Reg)
  | fle (t : Thr) (pd : Prd) (ra rb : Reg)
  -- Scratchpad, class 0x4 (R195)
  | ldw (t : Thr) (rd ra : Reg) (imm : Imm)
  | ldws (t : Thr) (rd ra : Reg) (imm : Imm)
  | ldd (t : Thr) (rd ra : Reg) (imm : Imm)
  | stw (t : Thr) (ra rb : Reg) (imm : Imm)
  | std (t : Thr) (ra rb : Reg) (imm : Imm)
  | ldwTk (t : Thr) (rd ra : Reg) (imm : Imm) (tk : Ecc)
  | stwTk (t : Thr) (ra rb : Reg) (imm : Imm) (tk : Ecc)
  -- Global, class 0x5 (R196)
  | ld8u (t : Thr) (rd ra : Reg) (imm : Imm)
  | ld16u (t : Thr) (rd ra : Reg) (imm : Imm)
  | ld32u (t : Thr) (rd ra : Reg) (imm : Imm)
  | ld64 (t : Thr) (rd ra : Reg) (imm : Imm)
  | ld8s (t : Thr) (rd ra : Reg) (imm : Imm)
  | ld16s (t : Thr) (rd ra : Reg) (imm : Imm)
  | ld32s (t : Thr) (rd ra : Reg) (imm : Imm)
  | st8 (t : Thr) (ra rb : Reg) (imm : Imm)
  | st16 (t : Thr) (ra rb : Reg) (imm : Imm)
  | st32 (t : Thr) (ra rb : Reg) (imm : Imm)
  | st64 (t : Thr) (ra rb : Reg) (imm : Imm)
  -- Branches, class 0x6 (R202)
  | br (t : Thr) (imm : Imm)
  | brp (t : Thr) (p : Prd) (sense : Bool) (imm : Imm)
  | brr (t : Thr) (ra : Reg)
  | call (t : Thr) (rd : Reg) (imm : Imm)
  -- ISSUE, class 0x7 (R203)
  | issueR (t : Thr) (ra : IssueRa)
  | issueM (t : Thr) (ra : IssueRa) (imm : Imm)
  -- Counters and tokens, class 0x8 (R206)
  | wait (t : Thr) (ra rb : Reg) (imm : W16)
  | waitTest (t : Thr) (pd : Prd) (ra rb : Reg) (imm : W16)
  | giveC (t : Thr) (ra rb : Reg) (imm : W16)
  | readc (t : Thr) (rd ra : Reg) (imm : W16)
  | takeF (t : Thr) (ra : Reg) (imm : Imm) (tk : Ecc)
  | takeE (t : Thr) (ra : Reg) (imm : Imm) (tk : Ecc)
  | giveF (t : Thr) (ra : Reg) (imm : Imm) (tk : Ecc)
  | giveE (t : Thr) (ra : Reg) (imm : Imm) (tk : Ecc)
  -- Atomics, class 0x9 (R208)
  | aadd (t : Thr) (rd ra rb : Reg) (f : AtomF)
  | aand (t : Thr) (rd ra rb : Reg) (f : AtomF)
  | aor (t : Thr) (rd ra rb : Reg) (f : AtomF)
  | axor (t : Thr) (rd ra rb : Reg) (f : AtomF)
  | amin (t : Thr) (rd ra rb : Reg) (f : AtomF)
  | amax (t : Thr) (rd ra rb : Reg) (f : AtomF)
  | aminu (t : Thr) (rd ra rb : Reg) (f : AtomF)
  | amaxu (t : Thr) (rd ra rb : Reg) (f : AtomF)
  | aswap (t : Thr) (rd ra rb : Reg) (f : AtomF)
  | acas (t : Thr) (rd ra rb : Reg) (f : AtomF)
  | afadd (t : Thr) (rd ra rb : Reg) (f : AtomF)
  -- Ordering, crossings, YIELD and system (R212 to R217)
  | fence (t : Thr)
  | xbegin (t : Thr) (rd : Reg) (imm : Imm)
  | xcommit (t : Thr) (rd : Reg)
  | yield (t : Thr)
  | yieldEnd (t : Thr)
  | nop (t : Thr)
  | rdsys (t : Thr) (rd : Reg) (sel : BitVec 4)
  | pmov (t : Thr) (ra : Reg)
  | prd (t : Thr) (rd : Reg)
  | illegalInstruction (t : Thr) (w : W64)
  -- Load return path, stores, lanes and engine choice
  | loadReturn (t : Thr) (n : Nat) (ecc : Ecc)
  | storePerform (n : Nat) (ecc : Ecc)
  | prefetchLaneIssue (lane : LaneAt)
  | engineChoose (cls eng : Nat) (err : AcctErr)
  | sliceEnd (cls eng : Nat) (overrun : Nat)
  | engineClockGate (cls eng : Nat)
  | spanChoose (pos : Nat)
  | spanMm (pos core : Nat) (r : RowReads)
  | towlineBeat (pos core : Nat) (beat : Beat)
  -- Per-core engines (chapter 9)
  | vecMap (core : EngRun)
  | vecReduce (core : EngRun)
  | vecNormFwd (core : EngRun)
  | vecNormBwd (core : EngRun)
  | vecSoftmaxFwd (core : EngRun)
  | vecSoftmaxBwd (core : EngRun)
  | vecOpt (core : EngRun)
  | keelExp (core : EngRun)
  | keelExpmax (core : EngRun)
  | keelEncode (core : EngRun)
  | keelAdd (core : EngRun)
  | keelDecode (core : EngRun)
  | layCopy (core : EngRun)
  | layFill (core : EngRun)
  | gatherBag (core : EngRun)
  | gatherRows (core : EngRun)
  | scatterRows (core : EngRun)
  | combineDup (core : EngRun)
  | rndFill (core : EngRun)
  | rndMask (core : EngRun)
  | rndCtrSet (core : EngRun)
  | rndCtrRead (core : EngRun)
  -- Shared engines: firmware-issued descriptors with their auxiliary record (R248, R281, R283)
  | compPage (eng : EngRun) (desc aux : List Byte)
  | decompPage (eng : EngRun) (desc aux : List Byte)
  | moorCopy (eng : EngRun) (desc aux : List Byte)
  | moorVersion (eng : EngRun) (desc aux : List Byte)
  | moorDigest (eng : EngRun) (desc aux : List Byte)
  | moorSha512 (eng : EngRun) (desc aux : List Byte)
  -- Azlink port engines (R438, R447)
  | azWinOpen (eng : EngRun)
  | azWinClose (eng : EngRun)
  | azPut (eng : EngRun)
  | azGet (eng : EngRun)
  | azRingOpen (eng : EngRun)
  | azRingClose (eng : EngRun)
  | azReduce (eng : EngRun)
  -- Swap, cores and PLLs
  | swapIn (core : Nat)
  | swapInComplete (core berth : Nat) (ecc : Ecc)
  | eviction (core : Nat)
  | evictionComplete (core berth : Nat)
  | rotation (core : Nat)
  | stallLimit (pos : Nat)
  | coreSleep (core : Nat)
  | coreDeep (core : Nat)
  | coreWake (core : Nat)
  | pllLockTimeout (core : Nat)
  -- Flash tier, residency, scrubbing, bridge
  | faultInComplete (pos page : Nat) (r : PageRead)
  | gatherFlashReadComplete (core unit : Nat) (r : FlashRead)
  | evictSweep (pos stack : Nat)
  | writeBack (pos page unit : Nat)
  | writeBackAck (pos page unit : Nat) (programOk : Bool)
  | pageAgeTick
  | compressionFallback (page : FlashPut)
  | blockRelocation (block : FlashPut)
  | wearLevelMove (src : FlashPut) (dst : Nat)
  | mapCheckpoint
  | scrubWord (core bank idx : Nat) (ecc : Ecc)
  | dramPatrolScrub (granule : Nat) (ecc : Ecc)
  | rowMapOut (pos : Nat) (failing : List Nat)
  | bridgeUnitReceive (toShore : Nat) (crcOk : Bool)
  -- Crossings, epochs, moorings, restore, job end
  | crossingCommit (entry : Nat) (err : XErr)
  | crossingTimeout (entry : Nat)
  | stepCommit
  | stepCommitLand (err : XErr)
  | tideEvaluate
  | moorStaging (ecc : Ecc)
  | moorWriting (ok : MoorPut)
  | moored (ok : Bool)
  | restoreLoadVerify (reads : List (Nat × PageRead))
  | restoreCompare (reply : DigestReply) (ecc : Ecc)
  | jobEnding (pos : Nat)
  | jobEndDone (pos : Nat)
  -- Azlink packets (chapters 14, 15)
  | winWrite (link : Nat) (f : Frame) (err : WinErr)
  | winRead (link : Nat) (f : Frame)
  | winReadResp (link : Nat) (f : Frame)
  | keelExpData (link : Nat) (f : Frame)
  | keelLanes (link : Nat) (f : Frame) (ecc : Ecc) (bad : Bool)
  | fpRing (link : Nat) (f : Frame)
  | noticeForm (link : Nat) (f : Frame)
  | noticeReady (link : Nat) (f : Frame)
  | noticeAccept (link : Nat) (f : Frame)
  | noticeRetry (link : Nat) (f : Frame)
  | noticeResend (link : Nat) (f : Frame)
  | noticeVerified (link : Nat) (f : Frame)
  | noticeFail (link : Nat) (f : Frame)
  | noticeSettle (link : Nat) (f : Frame)
  | noticeSettled (link : Nat) (f : Frame)
  | noticeLeave (link : Nat) (f : Frame)
  | join (link : Nat) (f : Frame)
  | view (link : Nat) (f : Frame)
  | heartbeat (link : Nat) (f : Frame)
  | loss (link : Nat) (f : Frame)
  | refuse (link : Nat) (f : Frame)
  | ack (link : Nat) (f : Frame)
  | linkCredit (link : Nat) (f : Frame) (bad : Bool)
  | hello (link : Nat) (f : Frame)
  | creditReq (link : Nat) (f : Frame) (err : PeerErr)
  | nack (link : Nat) (f : Frame)
  | pfcFrame (link : Nat) (enable : BitVec 8) (times : List W16)
  -- Azlink timers and links
  | resendTimeout (peer vc : Nat)
  | peerTimeout (peer : Nat)
  | ackTimer (peer vc : Nat)
  | creditWait (peer vc : Nat)
  | helloSend (link : Nat)
  | joinSend
  | heartbeatSend
  | hbTimeout (peer : Nat)
  | viewPublish
  | fleetOfOne
  | linkDown (link : Nat) (cause : DownCause)
  | linkUp (link : Nat)
  | ringFormTimeout (ctx : Nat)
  | ringReformTimeout (ctx : Nat)
  | bucketBrokenTimeout (ctx bucket : Nat)
  -- Landing and capsules (chapter 16): a capsule command runs the taken capsule of its port
  | landingSealWrite (port off : Nat) (data : List Byte) (bad : Bool)
  | query (port : Nat)
  | evqSetup (port : Nat)
  | credit (port : Nat)
  | jobLoad (port : Nat)
  | jobStart (port : Nat)
  | jobStartPinsDone (pos : Nat) (reads : List (Nat × PageRead))
  | jobStop (port : Nat)
  | feedOpen (port : Nat)
  | feedClose (port : Nat)
  | resultRead (port : Nat)
  | resultRelease (port : Nat)
  | xingBegin (port : Nat)
  | xingCommit (port : Nat)
  | xingAbort (port : Nat)
  | settingsSet (port : Nat)
  | settingsStore (port : Nat)
  | moorNow (port : Nat)
  | restore (port : Nat)
  | imageStage (port : Nat)
  | imageStageProgramDone (port : Nat) (readBackOk : Bool)
  | attest (port : Nat)
  | cargoReadDone (port : Nat) (prod : W64) (data : CargoIn)
  | cargoTimeout (port : Nat)
  -- Feeds, publication, events
  | feedPull (pos feed : Nat)
  | feedBlockDelivered (pos feed : Nat) (data : List Byte) (ok : Bool)
  | feedProdPoll (pos feed : Nat) (prod : W64) (ok : Bool)
  | publish (pos ch : Nat)
  | publishCopyDone (pos ch : Nat)
  | eventWrite (port : Nat) (bad : Bool)
  | evCredit (port : Nat)
  | msixSend (port : Nat)
  | bootstrapEventWrite (port : Nat)
  | portReset (port : Nat)
  | perstRelease (port : Nat)
  | bootRespValidClear (port : Nat) (value : W64)
  | snapValidClear (port : Nat) (value : W64)
  | cargoOpen (port : Nat)
  | cargoClose (port : Nat)
  | registerWrite (port off size : Nat) (value : W64)
  -- Boot and power (chapters 17, 18, 21)
  | boot (readA readB : Bool) (fail : BootRun)
  | lifetimeStore
  | standbyEnter
  | standbyExit
  | alwaysOnResetRelease
  | pwrEnRise
  | railsInRegulation
  | pwrEnFall
  | powerDownWritebackLimit
  | powerEmergency (overVoltage : Bool)
  | railFault
  | thermalTrip (dram : Bool)
  | thermtripNExternal
  | vinLossOff
  | powerDutyEvaluate (watts : W16) (duty : Nat)
  | thermalDutyStep (tLogic tDram0 tDram1 : W16)
  -- SMBus (R614 to R616)
  | status
  | vin (mv : W16)
  | iin (value : W16)
  | pin
  | tLogic
  | tDram0
  | tDram1
  | pcap (write : Option (W16 × Bool))
  | duty
  | energy
  | tide
  | prsnt
  | alertResponse
  -- Debug port (chapter 19)
  | getChallenge
  | orderUnlock (order : List Byte)
  | orderEnrol (order : List Byte)
  | orderErase (order : List Byte)
  | challengeExpiry
  -- Interrupt unit and always-on timers (chapter 18)
  | iuSrcWrite (reg : IuReg) (value : W64)
  | iuPendingClear (n : Nat) (value : W64)
  | iuCoreClaim (core : Nat)
  | iuCoreComplete (core : Nat) (source : W32)
  | iuDoorbell (core : Nat) (ring : W32)
  | iuDelivery
  | iuDeliveryLand (core : Nat)
  | aotCompareWrite (k : Nat) (value : W64)
  | aotTimerFire (k : Nat)
  | controlDomainSleep
  | controlDomainWake (parityOk : Bool)
  -- Fatal causes, sensors, membership and background work
  | bridgeLaneLost
  | referenceClockLost
  | regulatorFault
  | fatalMemoryError (shore : Nat)
  | controlCoreWatchdog (core : Nat)
  | voltageDroopEvent
  | stackRefreshDoubled (stack : Nat) (hot marginStep : Bool)
  | tripCooldown
  | lossReachTimeout (peer : Nat)
  | blockErase (block : Nat) (bad : EraseErr)
deriving DecidableEq, Repr

end Sys2Proof
end

