-- ==== Sys2Proof/Machine/Table.lean ====
section
/-! DEFINITION. Operations on sparse tables, on byte cells and on little-endian numbers (R9 to R11). A table is
canonical when its keys rise strictly and no entry holds the value of an unlisted key. -/

namespace Sys2Proof.Machine

/-- The value at a key; `d` is what an unlisted key reads as. -/
def tget {α : Type} (d : α) (k : Nat) : Tbl α → α
  | [] => d
  | (k', v) :: r => if k' = k then v else tget d k r

/-- Puts an entry at its place in a rising list. -/
def tput {α : Type} (k : Nat) (v : α) : Tbl α → Tbl α
  | [] => [(k, v)]
  | (k', v') :: r =>
    if k < k' then (k, v) :: (k', v') :: r
    else if k = k' then (k, v) :: r
    else (k', v') :: tput k v r

/-- Puts a value at a key and keeps the table canonical: the value of an unlisted key takes the entry away. -/
def tset {α : Type} [DecidableEq α] (d : α) (k : Nat) (v : α) (t : Tbl α) : Tbl α :=
  if v = d then t.filter (fun e => e.1 != k) else tput k v t

/-- Replaces the value at a key by a function of it. -/
def tupd {α : Type} [DecidableEq α] (d : α) (k : Nat) (f : α → α) (t : Tbl α) : Tbl α :=
  tset d k (f (tget d k t)) t

/-- Every key is at least `lo`, keys rise strictly, and no entry is the value `d`. -/
def twfFrom {α : Type} [DecidableEq α] (d : α) : Nat → Tbl α → Bool
  | _, [] => true
  | lo, (k, v) :: r => decide (lo ≤ k) && !decide (v = d) && twfFrom d (k + 1) r

/-- The canonical form of a table. -/
def twf {α : Type} [DecidableEq α] (d : α) (t : Tbl α) : Bool := twfFrom d 0 t

/-- A memory is a list of byte cells in canonical form; an unlisted byte reads 0 (R245, R344, log 6, DESIGN CHOICE, unsafe). -/
abbrev Memory := List Host.Cell

/-- The canonical form of a memory. -/
def Memory.wf (m : Memory) : Bool := twf (0 : Byte) m

/-- Reads one byte. -/
def rd8 (m : Memory) (a : Nat) : Byte := tget 0 a m

/-- Writes one byte. -/
def wr8 (m : Memory) (a : Nat) (b : Byte) : Memory := tset 0 a b m

/-- Reads `n` bytes from address `a` upward. -/
def rdBytes (m : Memory) (a : Nat) : Nat → List Byte
  | 0 => []
  | n + 1 => rd8 m a :: rdBytes m (a + 1) n

/-- Writes bytes from address `a` upward. -/
def wrBytes (m : Memory) (a : Nat) : List Byte → Memory
  | [] => m
  | b :: bs => wrBytes (wr8 m a b) (a + 1) bs

/-- The number that bytes spell, least significant byte first (R11). -/
def leNat : List Byte → Nat
  | [] => 0
  | b :: bs => b.toNat + 256 * leNat bs

/-- The `n` bytes of a number, least significant byte first (R11). -/
def leBytes : Nat → Nat → List Byte
  | 0, _ => []
  | n + 1, v => BitVec.ofNat 8 v :: leBytes n (v / 256)

/-- The `n` bytes of a number, most significant first. -/
def beBytes (n v : Nat) : List Byte := (leBytes n v).reverse

/-- Reads an `n`-byte little-endian number. -/
def rdNat (m : Memory) (a n : Nat) : Nat := leNat (rdBytes m a n)

/-- Writes an `n`-byte little-endian number. -/
def wrNat (m : Memory) (a n v : Nat) : Memory := wrBytes m a (leBytes n v)

/-- Makes every byte of a range zero. -/
def zeroRange (m : Memory) (a n : Nat) : Memory :=
  m.filter fun c => decide (c.1 < a) || decide (a + n ≤ c.1)

/-- The listed cells of a range, at a new base. -/
def copyCells (m : Memory) (src dst n : Nat) : Memory :=
  (m.filter fun c => decide (src ≤ c.1) && decide (c.1 < src + n)).foldl
    (fun acc c => wr8 acc (c.1 - src + dst) c.2) (zeroRange m dst n)

/-- Bytes `i` to `i + n - 1` of a byte string; a byte past its end reads zero. -/
def slice (bs : List Byte) (i n : Nat) : List Byte :=
  let t := (bs.drop i).take n
  t ++ List.replicate (n - t.length) 0

/-- The little-endian number in bytes `i` to `i + n - 1` of a byte string. -/
def fld (bs : List Byte) (i n : Nat) : Nat := leNat (slice bs i n)

/-- Puts bytes at offset `i` of a byte string. -/
def patch (bs : List Byte) (i : Nat) (v : List Byte) : List Byte :=
  bs.take i ++ v ++ bs.drop (i + v.length)

/-- Bits `lo` to `lo + n - 1` of a number. -/
def bits (v lo n : Nat) : Nat := (v / 2 ^ lo) % 2 ^ n

/-- Rounds up to a multiple. -/
def roundUp (n m : Nat) : Nat := (n + m - 1) / m * m

/-- Quotient rounded up. -/
def ceilDiv (n m : Nat) : Nat := (n + m - 1) / m

/-- ceil(log2 n) for n at least 1. -/
def clog2 (n : Nat) : Nat := if n ≤ 1 then 0 else Nat.log2 (n - 1) + 1

/-- Replaces the element at an index; an index past the end changes nothing. -/
def lset {α : Type} : List α → Nat → α → List α
  | [], _, _ => []
  | _ :: r, 0, v => v :: r
  | x :: r, n + 1, v => x :: lset r n v

/-- Replaces the elements that satisfy a test. -/
def updWhere {α : Type} (p : α → Bool) (f : α → α) (l : List α) : List α :=
  l.map fun x => if p x then f x else x

/-- The element of least key, the first of equals. -/
def minBy {α : Type} (f : α → Nat) : List α → Option α
  | [] => none
  | x :: r =>
    match minBy f r with
    | none => some x
    | some y => if f y < f x then some y else some x

/-- Two half-open ranges meet. -/
def meet (a n b m : Nat) : Bool := decide (a < b + m) && decide (b < a + n) && decide (0 < n) && decide (0 < m)

/-- The first range lies within the second. -/
def within (a n b m : Nat) : Bool := decide (b ≤ a) && decide (a + n ≤ b + m)

end Sys2Proof.Machine
end

