-- ==== Sys2Proof/Machine/Sha512.lean ====
section
/-! DEFINITION. SHA-512 (FIPS 180-4), as the manual's digests use it. The constants are the leading bits of the fractional
parts of square and cube roots of primes, as the standard derives them. -/

namespace Sys2Proof.Machine

/-- Whether `n` has a divisor among `k` numbers from `d` upward. -/
def hasDivisor (n : Nat) : Nat → Nat → Bool
  | _, 0 => false
  | d, k + 1 => n % d == 0 || hasDivisor n (d + 1) k

/-- The primes below 410: eighty of them. -/
def shaPrimes : List Nat := (List.range 410).filter fun n => decide (2 ≤ n) && !hasDivisor n 2 (n - 2)

/-- The largest r with r ^ e at most n, one bit at a time. -/
def rootFrom (e n : Nat) : Nat → Nat → Nat
  | 0, acc => acc
  | k + 1, acc => let t := acc + 2 ^ k; rootFrom e n k (if t ^ e ≤ n then t else acc)

/-- The first 64 bits of the fractional part of the e-th root of p. -/
def rootFraction (e p : Nat) : W64 := BitVec.ofNat 64 (rootFrom e (p * 2 ^ (64 * e)) 70 0)

def shaK : List W64 := shaPrimes.map (rootFraction 3)
def shaInit : List W64 := (shaPrimes.take 8).map (rootFraction 2)

/-- The padded message as 64-bit words, big-endian. -/
def beNat : List Byte → Nat
  | bs => bs.foldl (fun n b => n * 256 + b.toNat) 0


/-- Padding: 0x80, zeros, the length in bits as 16 big-endian bytes. -/
def shaPad (m : List Byte) : List Byte :=
  let z := (239 - m.length % 128) % 128
  m ++ [0x80#8] ++ List.replicate z 0 ++ beBytes 16 (8 * m.length)

/-- The message schedule, extended word by word; the list is held newest first. -/
def shaSchedule : Nat → List W64 → List W64
  | 0, w => w
  | k + 1, w =>
    let a := w.getD 14 0
    let b := w.getD 1 0
    let s0 := a.rotateRight 1 ^^^ a.rotateRight 8 ^^^ (a >>> 7)
    let s1 := b.rotateRight 19 ^^^ b.rotateRight 61 ^^^ (b >>> 6)
    shaSchedule k ((s1 + w.getD 6 0 + s0 + w.getD 15 0) :: w)

/-- One round on the eight working variables. -/
def shaRound (v : List W64) (kw : W64 × W64) : List W64 :=
  match v with
  | [a, b, c, d, e, f, g, h] =>
    let t1 := h + (e.rotateRight 14 ^^^ e.rotateRight 18 ^^^ e.rotateRight 41) + ((e &&& f) ^^^ (~~~e &&& g)) + kw.1 + kw.2
    let t2 := (a.rotateRight 28 ^^^ a.rotateRight 34 ^^^ a.rotateRight 39) + ((a &&& b) ^^^ (a &&& c) ^^^ (b &&& c))
    [t1 + t2, a, b, c, d + t1, e, f, g]
  | v => v

/-- One 128-byte block. -/
def shaBlock (k h : List W64) (blk : List Byte) : List W64 :=
  let w0 := (List.range 16).map fun i => BitVec.ofNat 64 (beNat (slice blk (8 * i) 8))
  let w := (shaSchedule 64 w0.reverse).reverse
  List.zipWith (· + ·) h ((List.zip k w).foldl shaRound h)

def shaBlocks (k : List W64) : Nat → List W64 → List Byte → List W64
  | 0, h, _ => h
  | n + 1, h, m => shaBlocks k n (shaBlock k h (m.take 128)) (m.drop 128)

/-- The 64-byte digest. -/
def sha512 (m : List Byte) : List Byte :=
  let p := shaPad m
  (shaBlocks shaK (p.length / 128) shaInit p).flatMap fun w => beBytes 8 w.toNat

end Sys2Proof.Machine
end

