-- ==== Sys2Proof/Machine/Aes.lean ====
section
/-! DEFINITION. AES-256 (FIPS 197), its key wrap (RFC 3394) and AES-256-XTS (IEEE 1619), which R331 names. -/

namespace Sys2Proof.Machine.Aes

/-- Multiplication by x in the field of AES. -/
def xtime (a : Byte) : Byte := if a.msb then (a <<< 1) ^^^ 0x1B else a <<< 1

/-- Product in the field of AES. -/
def gmul (a b : Byte) : Byte :=
  ((List.range 8).foldl (fun (x : Byte × Byte) i => (if b.getLsbD i then x.1 ^^^ x.2 else x.1, xtime x.2)) (0, a)).1

/-- The inverse, a to the 254th; 0 for 0. -/
def inverse (a : Byte) : Byte :=
  ((List.range 7).foldl (fun (x : Byte × Byte) _ => let q := gmul x.2 x.2; (gmul x.1 q, q)) (1, a)).1

def sbox (a : Byte) : Byte :=
  let b := inverse a
  b ^^^ b.rotateLeft 1 ^^^ b.rotateLeft 2 ^^^ b.rotateLeft 3 ^^^ b.rotateLeft 4 ^^^ 0x63

def sboxInv (a : Byte) : Byte := inverse (a.rotateLeft 1 ^^^ a.rotateLeft 3 ^^^ a.rotateLeft 6 ^^^ 0x05)

def xorBytes (a b : List Byte) : List Byte := List.zipWith (· ^^^ ·) a b

/-! ### The cipher -/

/-- Words of the key schedule, newest first: `n` more after the 8 of the key. -/
def schedule : Nat → Nat → Byte → List (List Byte) → List (List Byte)
  | 0, _, _, ws => ws
  | n + 1, i, rcon, ws =>
    let t := ws.headD []
    let t := if i % 8 = 0 then xorBytes ((t.drop 1 ++ t.take 1).map sbox) [rcon, 0, 0, 0] else if i % 8 = 4 then t.map sbox else t
    schedule n (i + 1) (if i % 8 = 0 then xtime rcon else rcon) (xorBytes (ws.getD 7 []) t :: ws)

/-- The 15 round keys of 16 bytes. -/
def roundKeys (key : List Byte) : List (List Byte) :=
  let ws := (schedule 52 8 1 (((List.range 8).map fun i => slice key (4 * i) 4).reverse)).reverse
  (List.range 15).map fun r => ((List.range 4).map fun i => ws.getD (4 * r + i) []).flatten

/-- ShiftRows: row i turns left by i; `k` = 1, or 3 for the inverse. -/
def shiftRows (k : Nat) (b : List Byte) : List Byte := (List.range 16).map fun i => b.getD ((i + 4 * (k * (i % 4))) % 16) 0

/-- MixColumns with the coefficients of one row. -/
def mixColumns (c : List Byte) (b : List Byte) : List Byte :=
  (List.range 16).map fun i => (List.range 4).foldl (fun a j => a ^^^ gmul (c.getD ((j + 4 - i % 4) % 4) 0) (b.getD (i / 4 * 4 + j) 0)) 0

/-- One block under round keys. -/
def encrypt (ks : List (List Byte)) (b : List Byte) : List Byte :=
  let b := (List.range 13).foldl (fun b r => xorBytes (mixColumns [2, 3, 1, 1] (shiftRows 1 (b.map sbox))) (ks.getD (r + 1) [])) (xorBytes b (ks.getD 0 []))
  xorBytes (shiftRows 1 (b.map sbox)) (ks.getD 14 [])

/-- The inverse of `encrypt`. -/
def decrypt (ks : List (List Byte)) (b : List Byte) : List Byte :=
  let b := (List.range 13).foldl (fun b r =>
    mixColumns [14, 11, 13, 9] (xorBytes ((shiftRows 3 b).map sboxInv) (ks.getD (13 - r) []))) (xorBytes b (ks.getD 14 []))
  xorBytes ((shiftRows 3 b).map sboxInv) (ks.getD 0 [])

/-! ### Key wrap (RFC 3394) -/

/-- Step t of the wrap on the register A and the list of 8-byte blocks. -/
def wrapStep (ks : List (List Byte)) (n : Nat) (x : List Byte × List (List Byte)) (k : Nat) : List Byte × List (List Byte) :=
  let i := k % n
  let b := encrypt ks (x.1 ++ x.2.getD i [])
  (xorBytes (b.take 8) (beBytes 8 (k + 1)), x.2.set i (b.drop 8))

/-- A key's bytes wrapped under a 32-byte key: 8 bytes longer. -/
def wrap (kek plain : List Byte) : List Byte :=
  let n := plain.length / 8
  let x := (List.range (6 * n)).foldl (wrapStep (roundKeys kek) n)
    (List.replicate 8 0xA6, (List.range n).map fun i => slice plain (8 * i) 8)
  x.1 ++ x.2.flatten

def unwrapStep (ks : List (List Byte)) (n : Nat) (x : List Byte × List (List Byte)) (k : Nat) : List Byte × List (List Byte) :=
  let i := k % n
  let b := decrypt ks (xorBytes x.1 (beBytes 8 (k + 1)) ++ x.2.getD i [])
  (b.take 8, x.2.set i (b.drop 8))

/-- The unwrapped bytes, or none when the check value fails. -/
def unwrap (kek wrapped : List Byte) : Option (List Byte) :=
  let n := wrapped.length / 8 - 1
  let x := (List.range (6 * n)).reverse.foldl (unwrapStep (roundKeys kek) n)
    (wrapped.take 8, (List.range n).map fun i => slice wrapped (8 * i + 8) 8)
  if x.1 = List.replicate 8 0xA6 then some x.2.flatten else none

/-! ### XTS (IEEE 1619) -/

/-- The tweak of the next block: multiplied by x, the 16 bytes little-endian. -/
def nextTweak (t : List Byte) : List Byte :=
  let n := leNat t
  leBytes 16 (if n < 2 ^ 127 then 2 * n else (2 * n - 2 ^ 128) ^^^ 0x87)

def xtsBlocks (f : List Byte → List Byte) : Nat → List Byte → List Byte → List Byte
  | 0, _, _ => []
  | n + 1, t, bs => xorBytes (f (xorBytes (bs.take 16) t)) t ++ xtsBlocks f n (nextTweak t) (bs.drop 16)

/-- A data unit of whole blocks under a 64-byte key and its tweak. -/
def xtsEncrypt (key : List Byte) (tweak : Nat) (bs : List Byte) : List Byte :=
  xtsBlocks (encrypt (roundKeys (key.take 32))) (bs.length / 16) (encrypt (roundKeys (key.drop 32)) (leBytes 16 tweak)) bs

def xtsDecrypt (key : List Byte) (tweak : Nat) (bs : List Byte) : List Byte :=
  xtsBlocks (decrypt (roundKeys (key.take 32))) (bs.length / 16) (encrypt (roundKeys (key.drop 32)) (leBytes 16 tweak)) bs

end Sys2Proof.Machine.Aes
end

