-- ==== Sys2Proof/Machine/Ed25519.lean ====
section
/-! DEFINITION. Ed25519 in its pure form (RFC 8032), as R566 and R568 use it. Numbers are residues of the field of order
2^255 - 19; a point is in extended coordinates. -/

namespace Sys2Proof.Machine

namespace Ed

/-- The field's order. -/
def fieldP : Nat := 2 ^ 255 - 19
/-- The group's order. -/
def groupL : Nat := 2 ^ 252 + 27742317777372353535851937790883648493

def fadd (a b : Nat) : Nat := (a + b) % fieldP
def fsub (a b : Nat) : Nat := (a + fieldP - b) % fieldP
def fmul (a b : Nat) : Nat := a * b % fieldP

/-- A power, by the bits of the exponent; the last argument bounds their number. -/
def fpow (b e : Nat) : Nat → Nat
  | 0 => 1
  | n + 1 =>
    let h := fpow b (e / 2) n
    if e % 2 = 1 then fmul (fmul h h) b else fmul h h

def finv (a : Nat) : Nat := fpow a (fieldP - 2) 256

/-- The curve constant d = -121665 / 121666. -/
def curveD : Nat := fmul (fieldP - 121665) (finv 121666)
/-- A square root of -1. -/
def rootM1 : Nat := fpow 2 ((fieldP - 1) / 4) 256

structure Pt where
  x : Nat
  y : Nat
  z : Nat
  t : Nat
deriving DecidableEq, Repr

def Pt.zero : Pt := { x := 0, y := 1, z := 1, t := 0 }

def Pt.add (p q : Pt) : Pt :=
  let a := fmul (fsub p.y p.x) (fsub q.y q.x)
  let b := fmul (fadd p.y p.x) (fadd q.y q.x)
  let c := fmul (fmul p.t (2 * curveD)) q.t
  let d := fmul (2 * p.z) q.z
  let e := fsub b a
  let f := fsub d c
  let g := fadd d c
  let h := fadd b a
  { x := fmul e f, y := fmul g h, z := fmul f g, t := fmul e h }

/-- A multiple, by the bits of the scalar. -/
def Pt.times (p : Pt) (k : Nat) : Nat → Pt
  | 0 => Pt.zero
  | n + 1 =>
    let h := p.times (k / 2) n
    if k % 2 = 1 then (h.add h).add p else h.add h

/-- The 32-byte encoding. -/
def Pt.encode (p : Pt) : List Byte :=
  let i := finv p.z
  leBytes 32 (fmul p.y i + fmul p.x i % 2 * 2 ^ 255)

/-- The square root of u / v that the decoding takes, none where there is none. -/
def ratioRoot (u v : Nat) : Option Nat :=
  let v3 := fmul (fmul v v) v
  let x := fmul (fmul u v3) (fpow (fmul u (fmul (fmul v3 v3) v)) ((fieldP - 5) / 8) 256)
  let w := fmul v (fmul x x)
  if w = u then some x
  else if w = fsub 0 u then some (fmul x rootM1)
  else none

/-- A point from its canonical encoding (R568). -/
def decode (bs : List Byte) : Option Pt :=
  let n := fld bs 0 32
  let y := n % 2 ^ 255
  let sign := n / 2 ^ 255
  if fieldP ≤ y then none
  else match ratioRoot (fsub (fmul y y) 1) (fadd (fmul curveD (fmul y y)) 1) with
    | none => none
    | some x =>
      if x = 0 ∧ sign = 1 then none
      else
        let x := if x % 2 = sign then x else fsub 0 x
        some { x := x, y := y, z := 1, t := fmul x y }

/-- The base point: y = 4/5, x even. -/
def base : Pt := (decode (leBytes 32 (fmul 4 (finv 5)))).getD Pt.zero

/-- The point has small order. -/
def Pt.small (p : Pt) : Bool := (p.times 8 4).encode == Pt.zero.encode

/-- A public key that R568 admits: canonical and not of small order. -/
def keyOk (key : List Byte) : Bool :=
  match decode key with
  | none => false
  | some a => !a.small

/-- Verification with the checks of R568. -/
def verify (key msg sig : List Byte) : Bool :=
  let s := fld sig 32 32
  match decode key, decode (slice sig 0 32) with
  | some a, some r =>
    let k := leNat (sha512 (slice sig 0 32 ++ slice key 0 32 ++ msg)) % groupL
    decide (s < groupL) && !a.small && (base.times s 256).encode == (r.add (a.times k 256)).encode
  | _, _ => false

/-- The secret scalar of a private key. -/
def scalarOf (priv : List Byte) : Nat :=
  let h := fld (sha512 priv) 0 32 % 2 ^ 254
  2 ^ 254 + h / 8 * 8

def publicKey (priv : List Byte) : List Byte := (base.times (scalarOf priv) 256).encode

/-- The deterministic signature of RFC 8032. -/
def sign (priv msg : List Byte) : List Byte :=
  let pub := publicKey priv
  let r := leNat (sha512 (slice (sha512 priv) 32 32 ++ msg)) % groupL
  let rr := (base.times r 256).encode
  let k := leNat (sha512 (rr ++ pub ++ msg)) % groupL
  rr ++ leBytes 32 ((r + k * scalarOf priv) % groupL)

end Ed

end Sys2Proof.Machine
end

