-- ==== Sys2Proof/Machine/Flags.lean ====
section
/-! DEFINITION. Floating-point values, exact arithmetic, rounding and the SAT and SPECIAL flags (R41 to R55, R194). A
finite value is (-1)^neg * m * 2^e with m a natural number, so zero keeps its sign. -/

namespace Sys2Proof.Machine

/-- A value of any floating-point format. -/
inductive Val where
  | nan
  | inf (neg : Bool)
  | fin (neg : Bool) (m : Nat) (e : Int)
deriving DecidableEq, Repr

/-- A format: exponent bits, mantissa bits, bias, and whether exponent all ones holds Inf and NaN as in IEEE 754
(`ieee`), only NaN at mantissa all ones (E4M3), or neither (FP4). -/
structure Fmt where
  ebits : Nat
  mbits : Nat
  bias : Nat
  ieee : Bool
  nanTop : Bool
  bytes : Nat
deriving DecidableEq, Repr

def fp32 : Fmt := { ebits := 8, mbits := 23, bias := 127, ieee := true, nanTop := false, bytes := 4 }
def bf16 : Fmt := { ebits := 8, mbits := 7, bias := 127, ieee := true, nanTop := false, bytes := 2 }
def fp16 : Fmt := { ebits := 5, mbits := 10, bias := 15, ieee := true, nanTop := false, bytes := 2 }
def e4m3 : Fmt := { ebits := 4, mbits := 3, bias := 7, ieee := false, nanTop := true, bytes := 1 }
def e5m2 : Fmt := { ebits := 5, mbits := 2, bias := 15, ieee := true, nanTop := false, bytes := 1 }
def fp4 : Fmt := { ebits := 2, mbits := 1, bias := 1, ieee := false, nanTop := false, bytes := 0 }
def fp64 : Fmt := { ebits := 11, mbits := 52, bias := 1023, ieee := true, nanTop := false, bytes := 8 }

/-- The floating-point format of a code (R40); codes 0x6 and up name none. -/
def fmtOf (code : Nat) : Option Fmt :=
  match code with
  | 0 => some fp32 | 1 => some bf16 | 2 => some fp16 | 3 => some e4m3 | 4 => some e5m2 | 5 => some fp4 | _ => none

/-- 2^k for an integer k that is not negative. -/
def pow2 (k : Int) : Nat := 2 ^ k.toNat

/-- The value of an encoding (R41, R42). -/
def Fmt.decode (f : Fmt) (b : Nat) : Val :=
  let m := b % 2 ^ f.mbits
  let e := (b / 2 ^ f.mbits) % 2 ^ f.ebits
  let neg := (b / 2 ^ (f.mbits + f.ebits)) % 2 == 1
  if f.ieee && e == 2 ^ f.ebits - 1 then (if m = 0 then .inf neg else .nan)
  else if f.nanTop && e == 2 ^ f.ebits - 1 && m == 2 ^ f.mbits - 1 then .nan
  else if e = 0 then .fin neg m (1 - (f.bias : Int) - f.mbits)
  else .fin neg (2 ^ f.mbits + m) ((e : Int) - f.bias - f.mbits)

/-- The canonical NaN (R43). -/
def Fmt.nan (f : Fmt) : Nat :=
  if f.ieee then (2 ^ f.ebits - 1) * 2 ^ f.mbits + 2 ^ (f.mbits - 1)
  else if f.nanTop then 2 ^ (f.ebits + f.mbits) - 1 else 0

/-- The encoding of the largest finite magnitude (R41). -/
def Fmt.maxCode (f : Fmt) : Nat :=
  if f.ieee then (2 ^ f.ebits - 1) * 2 ^ f.mbits - 1
  else if f.nanTop then 2 ^ (f.ebits + f.mbits) - 2 else 2 ^ (f.ebits + f.mbits) - 1

def Fmt.signBit (f : Fmt) (neg : Bool) : Nat := if neg then 2 ^ (f.ebits + f.mbits) else 0

/-- The encoding of an infinity, in formats that have one (R42). -/
def Fmt.inf (f : Fmt) (neg : Bool) : Nat := f.signBit neg + (2 ^ f.ebits - 1) * 2 ^ f.mbits

/-- The encoding of the magnitude n * 2^q, which the format represents. -/
def Fmt.pack (f : Fmt) (n : Nat) (q : Int) : Nat :=
  if n = 0 then 0
  else
    let l := n.log2
    let ex := (l : Int) + q
    let emin : Int := 1 - f.bias
    if ex < emin then n * pow2 (q - (emin - f.mbits))
    else
      let frac := if f.mbits ≤ l then n / 2 ^ (l - f.mbits) else n * 2 ^ (f.mbits - l)
      (ex + f.bias).toNat * 2 ^ f.mbits + (frac - 2 ^ f.mbits)

/-- Rounding modes (R52). -/
inductive Rnd where
  | rne | rtz | sr
deriving DecidableEq, Repr

def rndOf (n : Nat) : Option Rnd :=
  match n with
  | 0 => some .rne | 1 => some .rtz | 2 => some .sr | _ => none

/-- The exponent of the last place of a magnitude m * 2^e in the format, as if exponents had no upper bound. -/
def Fmt.quantum (f : Fmt) (m : Nat) (e : Int) : Int :=
  max ((m.log2 : Int) + e - f.mbits) (1 - (f.bias : Int) - f.mbits)

/-- Rounds m * 2^e to a multiple of 2^q; `r` is the 16 random bits of R53. -/
def roundTo (mode : Rnd) (r : Nat) (m : Nat) (e q : Int) : Nat :=
  if q ≤ e then m * pow2 (e - q)
  else
    let d := pow2 (q - e)
    let t := m / d
    let rem := m % d
    match mode with
    | .rtz => t
    | .rne => if d < 2 * rem ∨ (d = 2 * rem ∧ t % 2 = 1) then t + 1 else t
    | .sr => if 65536 ≤ r + rem * 65536 / d then t + 1 else t

/-- The exact comparison m * 2^e ≤ n * 2^q. -/
def leMag (m : Nat) (e : Int) (n : Nat) (q : Int) : Bool :=
  if e ≤ q then decide (m ≤ n * pow2 (q - e)) else decide (m * pow2 (e - q) ≤ n)

/-- A rounded result: its encoding and whether it saturated (R54) or is Inf or NaN (R51, R55). -/
structure Rounded where
  code : Nat
  sat : Bool
  special : Bool
deriving DecidableEq, Repr

/-- Rounds a finite magnitude to a format (R53, R54; where RTZ meets R54, log 103, DEDUCED, unsafe). `arith` says that an overflow
follows IEEE 754, as in FP32 arithmetic; otherwise it saturates and sets SAT. -/
def Fmt.roundMag (f : Fmt) (arith : Bool) (mode : Rnd) (r : Nat) (neg : Bool) (m : Nat) (e : Int) : Rounded :=
  if m = 0 then { code := f.signBit neg, sat := false, special := false }
  else match f.decode f.maxCode with
    | .fin _ mm me =>
      let beyond : Rounded :=
        if arith && mode != .rtz then { code := f.inf neg, sat := false, special := true }
        else { code := f.signBit neg + f.maxCode, sat := !arith, special := false }
      let maxFin : Rounded := { code := f.signBit neg + f.maxCode, sat := false, special := false }
      if mode = .sr ∧ ¬ leMag m e mm me then
        -- t is max finite, ulp the spacing of its binade
        let lo := min e me
        let x := m * pow2 (e - lo)
        let t := mm * pow2 (me - lo)
        let ulp := pow2 (me - lo)
        if 65536 ≤ r + Nat.min ((x - t) * 65536 / ulp) 65536 then beyond else maxFin
      else
        let q := f.quantum m e
        let n := roundTo mode r m e q
        if leMag n q mm me then { code := f.signBit neg + f.pack n q, sat := false, special := false } else beyond
    | _ => { code := 0, sat := false, special := false }

/-- A value in a format (R54, R55). -/
def Fmt.encode (f : Fmt) (arith : Bool) (mode : Rnd) (r : Nat) (v : Val) : Rounded :=
  match v with
  | .nan => { code := f.nan, sat := false, special := true }
  | .inf neg => if f.ieee then { code := f.inf neg, sat := false, special := true }
      else { code := f.nan, sat := false, special := true }
  | .fin neg m e => f.roundMag arith mode r neg m e

/-! ### Exact arithmetic -/

/-- Sum of two finite values; an exact zero sum is +0 unless both are -0 (R50). -/
def Val.add : Val → Val → Val
  | .nan, _ => .nan
  | _, .nan => .nan
  | .inf a, .inf b => if a = b then .inf a else .nan
  | .inf a, _ => .inf a
  | _, .inf b => .inf b
  | .fin a m e, .fin b n g =>
    let lo := min e g
    let x : Int := (if a then -1 else 1) * ((m * pow2 (e - lo) : Nat) : Int)
    let y : Int := (if b then -1 else 1) * ((n * pow2 (g - lo) : Nat) : Int)
    if x + y = 0 then .fin (if m = 0 ∧ n = 0 then a && b else false) 0 0
    else .fin (decide (x + y < 0)) (x + y).natAbs lo

def Val.neg : Val → Val
  | .nan => .nan
  | .inf a => .inf !a
  | .fin a m e => .fin (!a) m e

def Val.sub (x y : Val) : Val := x.add y.neg

def Val.mul : Val → Val → Val
  | .nan, _ => .nan
  | _, .nan => .nan
  | .inf a, .inf b => .inf (a != b)
  | .inf a, .fin b n _ => if n = 0 then .nan else .inf (a != b)
  | .fin a m _, .inf b => if m = 0 then .nan else .inf (a != b)
  | .fin a m e, .fin b n g => .fin (a != b) (m * n) (e + g)

/-- Quotient with enough bits and a sticky bit below them, so that one rounding of it is correct. -/
def Val.div : Val → Val → Val
  | .nan, _ => .nan
  | _, .nan => .nan
  | .inf _, .inf _ => .nan
  | .inf a, .fin b _ _ => .inf (a != b)
  | .fin a _ _, .inf b => .fin (a != b) 0 0
  | .fin a m e, .fin b n g =>
    if n = 0 then (if m = 0 then .nan else .inf (a != b))
    else if m = 0 then .fin (a != b) 0 0
    else
      let k := 128 + n.log2
      let x := m * 2 ^ k
      .fin (a != b) (2 * (x / n) + (if x % n = 0 then 0 else 1)) (e - g - k - 1)

/-- Integer square root, one result bit at a time from the top. -/
def isqrtFrom (n : Nat) : Nat → Nat → Nat
  | 0, acc => acc
  | k + 1, acc => let t := acc + 2 ^ k; isqrtFrom n k (if t * t ≤ n then t else acc)

def isqrt (n : Nat) : Nat := isqrtFrom n (n.log2 / 2 + 1) 0

/-- Square root, as `Val.div` with a sticky bit; -0 gives -0 (IEEE 754). -/
def Val.sqrt : Val → Val
  | .nan => .nan
  | .inf neg => if neg then .nan else .inf false
  | .fin neg m e =>
    if m = 0 then .fin neg 0 0
    else if neg then .nan
    else
      let x := if e % 2 = 0 then m * 2 ^ 128 else m * 2 ^ 129
      let g := if e % 2 = 0 then e - 128 else e - 129
      let r := isqrt x
      .fin false (2 * r + (if r * r = x then 0 else 1)) (g / 2 - 1)

/-- Order of two values that are not NaN: -1, 0 or 1; zeros are equal. -/
def Val.cmp : Val → Val → Int
  | .inf a, .inf b => if a = b then 0 else if a then -1 else 1
  | .inf a, _ => if a then -1 else 1
  | _, .inf b => if b then 1 else -1
  | .fin a m e, .fin b n g =>
    let lo := min e g
    let x : Int := (if a then -1 else 1) * ((m * pow2 (e - lo) : Nat) : Int)
    let y : Int := (if b then -1 else 1) * ((n * pow2 (g - lo) : Nat) : Int)
    if x < y then -1 else if x = y then 0 else 1
  | _, _ => 0

def Val.isNan : Val → Bool
  | .nan => true
  | _ => false

def Val.isNeg : Val → Bool
  | .nan => false
  | .inf a => a
  | .fin a _ _ => a

/-- FMIN: canonical NaN if either is NaN; -0 is smaller than +0 (R194). -/
def Val.fmin (x y : Val) : Val :=
  if x.isNan || y.isNan then .nan
  else if x.cmp y < 0 then x else if x.cmp y > 0 then y else if x.isNeg then x else y

/-- FMAX: +0 is larger than -0 (R194). -/
def Val.fmax (x y : Val) : Val :=
  if x.isNan || y.isNan then .nan
  else if x.cmp y > 0 then x else if x.cmp y < 0 then y else if x.isNeg then y else x

/-! ### FP32 operations (R194) -/

/-- The FP32 value in bits [31:0]. -/
def f32 (w : W64) : Val := fp32.decode (w.toNat % 2 ^ 32)

/-- An FP32 result in bits [31:0], bits [63:32] zero. -/
def toF32 (mode : Rnd) (v : Val) : W64 := BitVec.ofNat 64 (fp32.encode true mode 0 v).code

/-- FCVT.FI. -/
def intToF32 (mode : Rnd) (w : W64) : W64 := toF32 mode (.fin (decide (w.toInt < 0)) w.toInt.natAbs 0)

/-- FCVT.IF: NaN gives 0; out of range and infinities give the nearest bound. -/
def f32ToInt (mode : Rnd) (v : Val) : W64 :=
  match v with
  | .nan => 0
  | .inf neg => if neg then BitVec.ofNat 64 (2 ^ 63) else BitVec.ofNat 64 (2 ^ 63 - 1)
  | .fin neg m e =>
    let n := roundTo mode 0 m e 0
    if neg then (if 2 ^ 63 ≤ n then BitVec.ofNat 64 (2 ^ 63) else BitVec.ofInt 64 (-(n : Int)))
    else if 2 ^ 63 ≤ n then BitVec.ofNat 64 (2 ^ 63 - 1) else BitVec.ofNat 64 n

def feqV (x y : Val) : Bool := !x.isNan && !y.isNan && decide (x.cmp y = 0)
def fltV (x y : Val) : Bool := !x.isNan && !y.isNan && decide (x.cmp y < 0)
def fleV (x y : Val) : Bool := !x.isNan && !y.isNan && decide (x.cmp y ≤ 0)

end Sys2Proof.Machine
end

