-- ==== Sys2Proof/Config.lean ====
section
/-! DEFINITION. What an implementation fixes and the free values: constants with no body, so that nothing can be
proved of what they hold (log 10, DESIGN CHOICE, safe). Error codes are R592. -/

namespace Sys2Proof

/-- A value the manual leaves open, fresh for each count of `State.freeCount` (log 10, DESIGN CHOICE, safe). -/
opaque freeValue : Nat → BitVec 64

/-- Bytes from the device's random source (R331, R571), fresh for each count (log 10, DESIGN CHOICE, safe). -/
opaque deviceRandom : Nat → Nat → BitVec 8

/-- The fused device seed (R331, R566), 32 bytes; the manual gives no value. -/
opaque fusedSeed : Nat → BitVec 8

/-- The vendor's Ed25519 public key fused into the part (chapter 19). -/
opaque vendorKey : Nat → BitVec 8

/-- The fused base MAC address (R412). -/
opaque fusedMac : BitVec 48

/-- The module's MAC address on a link: the base, a multiple of 64, plus the link (R412). -/
def macOf (link : Nat) : BitVec 48 := fusedMac / 64 * 64 + BitVec.ofNat 48 link

/-- The module serial bytes (chapter 19). -/
opaque serialBytes : Nat → BitVec 8

/-- The rows of a bank that failed factory test (R239). -/
opaque fusedRaw : Nat → Nat → List Nat

/-- The rows of bank `b` of core `c` that the fuse map gives to spares 0, 1, ... in turn (R239): at most 4, so that every shipped part has
at least 4 unused spares. -/
def fusedRows (c b : Nat) : List Nat :=
  ((fusedRaw c b).map fun r => r % 512).foldl (fun l r => if l.contains r || 4 ≤ l.length then l else l ++ [r]) []

/-- Fused spares of a bank, 0 to 4 (R239). -/
def fusedSpares (c b : Nat) : Nat := (fusedRows c b).length

/-- The bytes a compression engine makes of a page: R281 fixes their format and leaves them open (log 112, DESIGN CHOICE, safe). -/
opaque zstdBytes : List Byte → List Byte

/-- The scale of block `b` of an FP4 operand at `a` of the gather engine, whose descriptor names no scale array (R40, R44, R271; log 111,
DESIGN CHOICE, unsafe). -/
opaque gatherScale : Nat → Nat → BitVec 8

/-- An error code (R592). SHA-512, Ed25519 and AES are computed in the model. -/
abbrev Code := BitVec 16

namespace E

def ok : Code := 0x0000
def capSeal : Code := 0x0101
def capOpcode : Code := 0x0102
def capSeq : Code := 0x0103
def capCargo : Code := 0x0104
def argRange : Code := 0x0201
def argAlign : Code := 0x0202
def argFormat : Code := 0x0203
def notReady : Code := 0x0301
def released : Code := 0x0302
def busy : Code := 0x0303
def holding : Code := 0x0304
def noJob : Code := 0x0305
def faulted : Code := 0x0306
def noWindow : Code := 0x0402
def noSpace : Code := 0x0403
def credit : Code := 0x0404
def xingConflict : Code := 0x0501
def xingTooBig : Code := 0x0502
def xingTimeout : Code := 0x0503
def versionPinned : Code := 0x0504
def xingFull : Code := 0x0505
def xingPage : Code := 0x0506
def xingAborted : Code := 0x0507
def sigBad : Code := 0x0601
def unpaired : Code := 0x0602
def rollback : Code := 0x0603
def challenge : Code := 0x0604
def windowClosed : Code := 0x0701
def peerGone : Code := 0x0702
def epochStale : Code := 0x0703
def peerDuplicate : Code := 0x0704
def reduceChecksum : Code := 0x0801
def reduceAborted : Code := 0x0802
def reduceSpecial : Code := 0x0803
def uncorrectable : Code := 0x0901
def flashWorn : Code := 0x0902
def stall : Code := 0x0903
def digestMismatch : Code := 0x0904
def noMooring : Code := 0x0905

end E

end Sys2Proof
end

