-- ==== Sys2Proof/Machine/EngineTypes.lean ====
section
/-! DEFINITION. Engines: accepted descriptors, queues, choice and tolls, the Spans with their tie groups and tile
records (chapters 3, 4, 5, 9, 13), crossings (chapter 10) and moorings (chapter 12). -/

namespace Sys2Proof.Machine

/-- Who handed a descriptor to the port (R158, R248): a thread with its PC, a prefetch lane with HEAD_CTR's value, or
firmware. -/
inductive Issuer where
  | thread (tid berth : Nat) (pc : W32)
  | lane (head : Nat)
  | firmware
deriving DecidableEq, Repr

/-- What an unfinished operation has found so far: the status fields of R251, the checksum of R265, an error met outside the engine (a
failed page, a failed packet), the rows of the current band of tiles that are flagged (R254, R268), the bytes written to words that are
not complete (R200), its packets whose fate is open (R438), and that it has ended and its status record waits (R269). -/
structure Part where
  count : Nat
  first : Option Nat
  err : Code
  sat : Bool
  special : Bool
  missed : Bool
  sum : Nat
  band : List Nat
  held : List Host.Cell
  flying : Nat
  ended : Bool
deriving DecidableEq, Repr

/-- Nothing yet. -/
def Part.start : Part :=
  { count := 0, first := .none, err := 0, sat := false, special := false, missed := false, sum := 0, band := [], held := []
    flying := 0, ended := false }

/-- A lookup or row write of a gather operation (R275, R277): not begun, waiting for flash units, waiting for peers'
packets with the bytes that have come, ready, failed. -/
inductive Fetch where
  | none
  | flash (units : List Nat)
  | remote (left : Nat) (got : List (Nat × List Byte))
  | ready (bytes : List Byte)
  | failed (code : Code)
deriving DecidableEq, Repr

/-- The lookup or write is under way. -/
def Fetch.pending : Fetch → Bool
  | .flash _ => true
  | .remote _ _ => true
  | _ => false

/-- An accepted descriptor (R249). `raw` is its 64 bytes with GROUP as the port wrote it, `aux` the auxiliary record
read at acceptance, `serial` the order of acceptance, `draw` the first counter of its stream reservation (R59, R90),
`cap` the value RND_CTR_READ captured (R279), `progress` and `part` what is kept across suspension (R254, R343),
`waiting` the pages whose fault-in a suspended operation waits for, `fetch` the lookups of a gather
operation, `tie` the tie group of a Span operation, `mate` the partner of a PAIR (R131), `operands` the bytes of Span operands as they
were before a write that R94 forbids. -/
structure Desc where
  raw : List Byte
  aux : List Byte
  core : Nat
  pos : Nat
  issuer : Issuer
  account : Nat
  serial : Nat
  stream : Nat
  draw : Nat
  cap : W64
  started : Bool
  progress : Nat
  waiting : List Nat
  operands : List Host.Cell
  part : Part
  fetch : Tbl Fetch
  tie : Nat
  mate : Option Nat
deriving DecidableEq, Repr

/-- Virtual toll and debt of an account at an instance (R401). -/
structure Toll where
  vt : W64
  debt : Nat
  ready : Bool
deriving DecidableEq, Repr

/-- No toll. -/
def Toll.zero : Toll := { vt := 0, debt := 0, ready := false }

/-- An engine instance: class, number, queue in order of acceptance, the serial of the running descriptor (and of the
partner of a PAIR), the account and cycles of the slice, tolls by account, party VTs (main, standing, device), charged
and idle counts (R400), the run of idle cycles and the clock gate (R549), and the last code reported to firmware (R248). -/
structure Engine where
  cls : Nat
  num : Nat
  queue : List Desc
  running : Option Nat
  partner : Option Nat
  sliceAccount : Option Nat
  slice : Nat
  tolls : Tbl Toll
  parties : List W64
  charged : W64
  idleCount : W64
  idleRun : Nat
  gated : Bool
  report : Code
deriving DecidableEq, Repr

/-- An idle instance. -/
def Engine.idle (cls num : Nat) : Engine :=
  { cls := cls, num := num, queue := [], running := none, partner := none, sliceAccount := none, slice := 0, tolls := []
    parties := [0, 0, 0], charged := 0, idleCount := 0, idleRun := 0, gated := false, report := 0 }

/-- Every instance of R399: two Spans, four engines on each of 64 cores, the shared engines of R32. -/
def Engine.all : List Engine :=
  [Engine.idle 1 0, Engine.idle 1 1] ++
  (List.range 64).map (Engine.idle 2) ++ (List.range 64).map (Engine.idle 3) ++
  (List.range 64).map (Engine.idle 4) ++ (List.range 64).map (Engine.idle 5) ++
  (List.range 8).map (Engine.idle 6) ++ (List.range 4).map (Engine.idle 7) ++
  (List.range 16).map (Engine.idle 8) ++ (List.range 2).map (Engine.idle 9) ++ [Engine.idle 10 0]

/-- A pair record: running sum and running error as FP32 (R108). -/
structure PairRec where
  sum : W32
  err : W32
deriving DecidableEq, Repr

/-- The seed (R73, R108). -/
def PairRec.seed : PairRec := { sum := 0, err := 0 }

/-- An open tie group (R143 to R148): TIE_ID, the serial of the use that opened it plus one, that use's descriptor and
auxiliary record, the geometry and the rows of a row group that it fixed, the slots held by array (core * 4 + array), whether its
closing use has been accepted, and whether a use broke R94 or read a stale tile (R93). Its pairs stand in the accumulator buffers. -/
structure Tie where
  tieId : Nat
  uid : Nat
  raw : List Byte
  aux : List Byte
  geom : Nat
  rpg : Nat
  held : Tbl Nat
  closing : Bool
  broken : Bool
  stale : Bool
deriving DecidableEq, Repr

/-- How a chosen Span operation is divided (R96 to R101, R133, R147): geometry, chain length, rows of a row group; and what its
elements have shown so far: the flagged tiles of C, SAT and SPECIAL (R112), and whether a resident tile that it takes is stale (R93). -/
structure RunPlan where
  serial : Nat
  geom : Nat
  s : Nat
  rpg : Nat
  tiles : List Nat
  sat : Bool
  special : Bool
  stale : Bool
deriving DecidableEq, Repr

/-- The stored block of a stationary operand that a tile holds, in stored rows and columns (R93, R123). -/
structure TileKey where
  sAddr : Nat
  sLd : Nat
  sFmt : Nat
  sScale : Nat
  geom : Nat
  row : Nat
  col : Nat
  rows : Nat
  cols : Nat
deriving DecidableEq, Repr

/-- The weight registers of the cells of an array and the record of their tile (R71, R93). Register (pr * 64 + pc) * 2 + i is
weight i of physical cell (pr, pc): its element code plus 2^16 times its block scale. -/
structure Tile where
  key : Option TileKey
  cells : Tbl Nat
deriving DecidableEq, Repr

/-- Cells with no tile. -/
def Tile.none : Tile := { key := .none, cells := [] }

/-- Who holds a tile slot of an accumulator buffer (R114, R116): a running operation or a tie group. -/
inductive Holder where
  | op (serial : Nat)
  | tie (uid : Nat)
deriving DecidableEq, Repr

/-- An array (R71, R75, R113): the active weight registers, the shadow registers with the operation and the turn they were loaded
for, the holder and band of each tile slot in use, and the pair records by slot * 4096 + record. -/
structure SArray where
  active : Tile
  shadow : Option (Nat × Nat × Tile)
  owner : Tbl (Option (Holder × Nat))
  buf : Tbl PairRec
deriving DecidableEq, Repr

/-- An array with no tile and no slot in use (R114, R149). -/
def SArray.reset : SArray := { active := .none, shadow := .none, owner := [], buf := [] }

/-- Where a chain stands (R99): the turn of its schedule, and the rows that each of its cores has streamed in this round. -/
structure Chain where
  turn : Nat
  rows : List Nat
deriving DecidableEq, Repr

/-- A chain before its first round. -/
def Chain.start : Chain := { turn := 0, rows := [] }

/-- A beat on the towline (R118): its numbers and the records by array * 256 + logical column. -/
structure TBeat where
  serial : Nat
  item : Nat
  pass : Nat
  row : Nat
  recs : Tbl PairRec
deriving DecidableEq, Repr

/-- A Span (R70): slot last chosen (R127), tie groups, arrays by number (R29), the plans of the running operations and of those
chosen to run next, whether the choice of this run has been made (R128), the chains, and the beats on their way to a core and in
its beat buffer (R119). -/
structure Span where
  lastSlot : Nat
  ties : List Tie
  arrays : Tbl SArray
  plans : List RunPlan
  nextPlans : List RunPlan
  chosen : Bool
  chains : Tbl Chain
  flight : Tbl (List TBeat)
  inbox : Tbl (List TBeat)
deriving DecidableEq, Repr

/-- A Span at job start (R93, R127, R149). -/
def Span.reset : Span :=
  { lastSlot := 15, ties := [], arrays := [], plans := [], nextPlans := [], chosen := false, chains := [], flight := [], inbox := [] }

/-- Crossing states that an entry of the table can be found in (R294); a crossing that has ended frees its entry. Which of them
is found in `committing` between two commands is log 126, DESIGN CHOICE, safe. -/
inductive XState where
  | opened | waiting | committing
deriving DecidableEq, Repr

/-- Who opened a crossing, and for what (R288). A map-out carries its rows with their spares, the spares that failed their test, and the rows
that no spare can take (R242, R244). -/
inductive XOpener where
  | thread (core tid : Nat)
  | stepCommit (pos : Nat)
  | evict (pos page : Nat)
  | rowMapOut (rows failed unrepaired : List Nat)
  | group (port handle : Nat)
deriving DecidableEq, Repr

/-- A write-set or read-set entry (R287): a granule, an entry of a device table, a logbook record, or what a host's capsule changes. The 32
words of a spare row, which have no address yet, are one entry (R242, R288, R290; log 113, DEDUCED, safe). -/
inductive XEnt where
  | granule (g : Nat)
  | epochTable
  | window (w : Nat)
  | peer (p : Nat)
  | protect (pos page : Nat)
  | remap (row : Nat)
  | spareRow (bank spare : Nat)
  | tlb (pos page : Nat)
  | pte (pos page : Nat)
  | unitMap (flashPage : Nat)
  | logbook (id : Nat)
  | feed (pos i : Nat)
  | cargo (port : Nat)
  | result (h : Nat)
  | mooring
deriving DecidableEq, Repr

/-- An entry of the crossing table (R292). `writes` holds the stores of a MEM_WRITE crossing in program order as
(physical address, bytes); `acts` counts actions; `attempt` counts tries (R299). -/
structure XEntry where
  opener : XOpener
  pos : Nat
  st : XState
  reads : List XEnt
  wset : List XEnt
  writes : List (Nat × List Byte)
  acts : Nat
  openedAt : Nat
  attempt : Nat
  exclusive : Bool
  timeout : Nat
deriving DecidableEq, Repr

/-- Mooring states (R363). -/
inductive MoorState where
  | idle | due | staging | writing | moored | abandoned
deriving DecidableEq, Repr

/-- A page of the mooring set that an open mooring reads (R363, R365): its ordinal, job page, large flag, versioned
flag, and where its content stands. -/
structure MoorPage where
  ordinal : Nat
  page : Nat
  large : Bool
  versioned : Bool
  stack : Nat
  frame : Nat
  slot : Nat
  staged : Bool
deriving DecidableEq, Repr

/-- The mooring of the main job (R362 to R365). -/
structure Moor where
  st : MoorState
  gen : Nat
  epoch : Nat
  pages : List MoorPage
  stateRec : List Byte
  digests : Option (List W64)
  half : Nat
  time : Nat
  tag : W64
  code : BitVec 16
  owner : Option Nat
  lastPoint : Nat
deriving DecidableEq, Repr

/-- No mooring open (R363). -/
def Moor.closed : Moor :=
  { st := .idle, gen := 0, epoch := 0, pages := [], stateRec := [], digests := none, half := 0, time := 0, tag := 0
    code := 0, owner := .none, lastPoint := 0 }

/-- Phases of a restore (R374). -/
inductive RestPhase where
  | none | loading | comparing
deriving DecidableEq, Repr

/-- A restore under way: its phase, the half read, the replica. -/
structure Restore where
  phase : RestPhase
  half : Nat
  replica : Nat
deriving DecidableEq, Repr

/-- No restore. -/
def Restore.closed : Restore := { phase := .none, half := 0, replica := 0xFFFF }

end Sys2Proof.Machine
end

