-- ==== Sys2Proof/Machine/AzTypes.lean ====
section
/-! DEFINITION. The Azlink fabric's state: links, peers, windows, reads under way, membership (chapter 14), reduction
contexts and their buckets (chapter 15). -/

namespace Sys2Proof.Machine

/-- Who learns the fate of a packet: bytes of an AZ_PUT or AZ_GET from an offset, or bytes of row `k` of a gather
operation of a core's gather engine from an offset of the row. -/
inductive Owner where
  | none
  | put (serial off n : Nat)
  | get (serial off n : Nat)
  | row (core serial k off n : Nat)
deriving DecidableEq, Repr

/-- A sequenced packet at its sender, with the end-to-end credits it is charged at its first send (R426). -/
structure TxPkt where
  pkt : Pkt
  owner : Owner
  cost : Nat
deriving DecidableEq, Repr

/-- One virtual channel to and from a peer (R422 to R426): SEQ of the peer table, packets sent and not acknowledged,
packets that wait for room or credits, the resend timeout in microseconds (0: RTO_INITIAL); at the receiver, packets
accepted and not yet acknowledged, credits owed, whether the expected PSN has drawn its NACK, the fates of the last 64
packets (newest first), and accepted packets whose action must wait (R443). -/
structure Vc where
  txNext : W32
  txAcked : W32
  rxExpected : W32
  unacked : List TxPkt
  waiting : List TxPkt
  rto : Nat
  due : Nat
  owed : Nat
  nacked : Bool
  outcomes : List Nat
  held : List Pkt
deriving DecidableEq, Repr

/-- A channel when its peer entry is created (R422). -/
def Vc.fresh : Vc :=
  { txNext := 0, txAcked := 0, rxExpected := 0, unacked := [], waiting := [], rto := 0, due := 0, owed := 0
    nacked := false, outcomes := [], held := [] }

/-- STATE of a peer-table entry (R428). -/
inductive PeerState where
  | vacant | joining | member | left
deriving DecidableEq, Repr

/-- A peer-table entry (R428), and whether a LOSS report about the peer is open (R434). -/
structure Peer where
  st : PeerState
  lastEpoch : W32
  mac : BitVec 48
  links : BitVec 64
  tx : Nat
  allot : Nat
  vcs : Tbl Vc
  lossOpen : Bool
deriving DecidableEq, Repr

/-- An entry at boot (R445). -/
def Peer.absent : Peer :=
  { st := .vacant, lastEpoch := 0, mac := 0, links := 0, tx := 0, allot := 0, vcs := [], lossOpen := false }

/-- A link (R410, R419 to R421): up, its partner's address on a DIRECT link, link credits by VC, the AOC count until
which PFC pauses each VC, frames that wait for link credits or for the pause to end. -/
structure Link where
  up : Bool
  partner : Option (BitVec 48)
  credits : List Nat
  paused : List Nat
  txq : List (BitVec 48 × Pkt)
deriving DecidableEq, Repr

/-- A link that is down (R421). -/
def Link.down : Link :=
  { up := false, partner := .none, credits := List.replicate 8 128, paused := List.replicate 8 0, txq := [] }

/-- A window-table entry (R436); `adv` counts opens and closes since boot (R437). -/
structure Win where
  isOpen : Bool
  base : Nat
  length : Nat
  adv : Nat
  job : Nat
  write : Bool
  read : Bool
  stale : Nat
deriving DecidableEq, Repr

/-- An entry at boot (R445). -/
def Win.closed : Win :=
  { isOpen := false, base := 0, length := 0, adv := 0, job := 0, write := false, read := false, stale := 0 }

/-- A WIN_READ whose response has not come (R443), and the credits of the receive pool that are kept for the response (R426). -/
structure ReadReq where
  tag : Nat
  peer : Nat
  owner : Owner
  room : Nat
deriving DecidableEq, Repr

/-- A Keel block: EXP, SPECIAL_MASK and 32 lanes as unsigned numbers (R63). An FP_RING block holds 32 FP32 codes. -/
structure KBlock where
  exp : Nat
  mask : Nat
  lanes : List Nat
deriving DecidableEq, Repr

/-- One chunk step (R457, R460): kind 0 for headers, 1 for lanes, 2 for FP32; its blocks and SUMCHK. -/
structure Msg where
  kind : Nat
  ag : Bool
  outer : Bool
  chunk : Nat
  sub : Nat
  blocks : List KBlock
  sum : Nat
deriving DecidableEq, Repr

/-- An accepted bucket that has not ended (R449): the descriptor, whether its exchange has begun, ATTEMPT, whether it is
served after a re-formation (R473), chunk steps that wait at a position, group partials, outer results and final chunks
(keyed by 4 times the chunk plus the kind, outer results by 8 times that plus the sub-chunk), the checksums of final
chunks, chunks resent once, who has sent VERIFIED, whether this member has sent its own. -/
structure Bucket where
  desc : Desc
  id : Nat
  started : Bool
  attempt : Nat
  served : Bool
  inbox : List (Nat × Msg)
  partials : Tbl (List KBlock)
  subs : Tbl (List KBlock)
  finals : List (Nat × List KBlock)
  resent : List Nat
  verified : List Nat
  sentVerified : Bool
deriving DecidableEq, Repr

/-- A bucket that has ended (R448, R471): its code, its descriptor, whether it is settled. -/
structure Ended where
  id : Nat
  code : Code
  desc : Desc
  settled : Bool
deriving DecidableEq, Repr

/-- STATE of a reduction context (R450); CLOSING is shown while `closing` is set. -/
inductive RingState where
  | forming | ready | broken
deriving DecidableEq, Repr

/-- A notice as it is passed on (R453): SPEC.BUCKET, SPEC.CHUNK and the payload. -/
structure Notice where
  bucket : Nat
  chunk : Nat
  rgen : Nat
  bytes : List Byte
deriving DecidableEq, Repr

/-- A reduction context in use (R446 to R450): the fields of its entry, the ring table and the peers excluded from it,
the open's descriptor until it completes, the close's descriptor, whether AZ_RING_OPEN has begun, notices held
(R454, R471), ACCEPTs held as (bucket, peer), chunk steps being assembled as (peer, bucket, step), chunk steps that wait
for a peer's ACCEPT as (rank, bucket, step), buckets queued and ended, the id after the highest ended, the ids ended
somewhere and aborted elsewhere at the last formation, those of them that this member serves, and the chunks of each
that it has passed on (R473). -/
structure RingCtx where
  rjob : Nat
  nGuard : Nat
  formEpoch : W32
  aborts : Nat
  retries : Nat
  stray : Nat
  rgen : Nat
  job : Nat
  refuse : Bool
  tol : Bool
  mode : Nat
  st : RingState
  table : List Nat
  excluded : List Nat
  opened : Bool
  openDesc : Option Desc
  closing : Option Desc
  held : List Notice
  accepts : List (Nat × Nat)
  asm : List (Nat × Nat × Msg)
  outbox : List (Nat × Nat × Msg)
  buckets : List Bucket
  ended : List Ended
  next : Nat
  mixed : List Nat
  serves : List Nat
  relayed : Tbl Nat
deriving DecidableEq, Repr

/-- The fabric. `view` lists the members of the adopted view in ascending order; `joins` and `losses` are what the
coordinator's next view will carry; `firstJoin` is the AOC count of the first JOIN; `refused` says that a REFUSE came
(R430); `genBase` is WINDOW_GEN_BASE of this boot (R437);
`forms` holds FORM notices whose RJOB is not open (R454). -/
structure Az where
  started : Bool
  epoch : W32
  view : List Nat
  coord : Option Nat
  joins : List Nat
  losses : List Nat
  firstJoin : Option Nat
  refused : Bool
  lastView : Option Nat
  peers : Tbl Peer
  links : Tbl Link
  wins : Tbl Win
  genBase : Nat
  reads : List ReadReq
  nextTag : Nat
  reserve : Nat
  rings : List (Nat × RingCtx)
  forms : List (Nat × Notice)
deriving DecidableEq, Repr

/-- The receive pool in credits (R426). -/
def poolCredits : Nat := 786432

/-- The fabric before boot brings it up (R445). -/
def Az.reset : Az :=
  { started := false, epoch := 0, view := [], coord := .none, joins := [], losses := [], firstJoin := .none
    refused := false, lastView := .none, peers := [], links := [], wins := [], genBase := 0, reads := [], nextTag := 0
    reserve := poolCredits, rings := [], forms := [] }

end Sys2Proof.Machine
end

