-- ==== Sys2Proof/Machine/CoreTypes.lean ====
section
/-! DEFINITION. What a core holds: contexts, berths, slot tokens, the order of its swap queue (chapters 6, 7, 8, 18). -/

namespace Sys2Proof.Machine

/-- CTRL.STATUS (R153). -/
inductive Status where
  | runnable | blockedCounter | blockedToken | blockedEngine | blockedPage | pending | ended | faulted
deriving DecidableEq, Repr

/-- Where an outstanding result goes: a register, a predicate (R156), or the low or high half of the register that two word accesses
load (R198). -/
inductive Dest where
  | reg (r : Reg)
  | prd (p : Prd)
  | half (r : Reg) (high : Bool)
deriving DecidableEq, Repr

/-- What an outstanding result is made of: a value fixed at issue (R218), a load performed when it returns (R209), or
an atomic whose old value arrives when it is performed (R208), the word of a completed LDW.TK (R230), or a half that has arrived
and waits for the other (R198). -/
inductive ResSrc where
  | value (v : W64)
  | load (va size : Nat) (signed : Bool)
  | atomic (serial : Nat)
  | tok (word : Nat) (v : W32)
  | arrived (v : W64)
deriving DecidableEq, Repr

/-- A result on the load return path (R156, R218). -/
structure Outst where
  dest : Dest
  src : ResSrc
  pc : W32
  inXing : Bool
deriving DecidableEq, Repr

/-- The open crossing of a thread: its entry, XBEGIN's RD and the abort target (R213). -/
structure XOpen where
  entry : Nat
  rd : Reg
  target : W32
deriving DecidableEq, Repr

/-- COUNTER, THRESHOLD, OBJECT and BLOCKED_AT of a swap record (R168). -/
structure WaitRec where
  counter : Nat
  threshold : Nat
  object : Nat
  blockedAt : Nat
deriving DecidableEq, Repr

/-- Nothing awaited (R168). -/
def WaitRec.idle : WaitRec := { counter := 0xFFFF, threshold := 0, object := 0, blockedAt := 0 }

/-- A thread context (R153) with what the manual implies beside it: the wait of R168, results on their way (R156),
the open crossing (R165) and the AOC count from which it is resident (R172). Register n is unlisted while zero. -/
structure Ctx where
  tid : Nat
  pc : W32
  stream : BitVec 16
  group : Byte
  pred : BitVec 4
  status : Status
  g : Tbl W64
  wait : WaitRec
  out : List Outst
  xing : Option XOpen
  since : Nat
deriving DecidableEq, Repr

/-- Berth states (R166). -/
inductive Berth where
  | free
  | ballast
  | resident (c : Ctx)
  | swappingOut (c : Ctx)
  | swappingIn (tid : Nat)
deriving DecidableEq, Repr

/-- A swap record (R168): the context it holds when VALID. -/
structure SwapRec where
  valid : Bool
  ctx : Option Ctx
deriving DecidableEq, Repr

/-- No record (R185). -/
def SwapRec.empty : SwapRec := { valid := false, ctx := .none }

/-- The operation a context waits with at a token (R230). -/
inductive TokOp where
  | takeF
  | takeE
  | load (word : Nat) (rd : Reg)
  | store (word : Nat) (v : W32)
deriving DecidableEq, Repr

/-- A waiter of a token, in the order of blocking (R232). -/
structure TokWait where
  tid : Nat
  op : TokOp
deriving DecidableEq, Repr

/-- A slot token (R229): state, holder, and who waits; `words` is the slot size in words. -/
structure Tok where
  full : Bool
  holder : Option Nat
  waiters : List TokWait
  words : Nat
deriving DecidableEq, Repr

/-- A table key at which no ring has a slot: size 0. -/
def Tok.empty : Tok := { full := false, holder := .none, waiters := [], words := 0 }

/-- Core power states (R545). -/
inductive CorePower where
  | run | sleep | deep
deriving DecidableEq, Repr

/-- A YIELD in effect: the pipeline passes over `berth` until `set` is empty (R216). -/
structure Pass where
  berth : Nat
  set : List Nat
deriving DecidableEq, Repr

/-- One core. `berths` lists the berths that are not FREE; `lastIssued` is by pipeline (R155); `portLast` is 0 to 3 for a pipeline and 4
for the lane, and `atPort` gives a pipeline whose ISSUE lost the arbitration its berth plus one (R158); `swapQueue` holds thread ids
with the AOC count of becoming runnable (R173); `evictOwed` counts ballast berths consumed and not refilled (R170), `rotating` lists the
berths that rotation empties (R172); `tlb` and `tlbLarge` list the pages whose translations the TLB holds, newest first, and `walks` the
upper entries in the walk cache, by level and leading address bits (R325); `idle` counts fabric cycles without work (R546); `wakeHeld`
is a wake event waiting for RUN (R547). -/
structure Core where
  power : CorePower
  pllFailed : Bool
  berths : Tbl Berth
  lastIssued : List Nat
  portLast : Nat
  atPort : Tbl Nat
  passes : List Pass
  swapQueue : List (Nat × Nat)
  evictOwed : Nat
  rotating : List Nat
  tokens : Tbl Tok
  tlb : List Nat
  tlbLarge : List Nat
  walks : List (Nat × Nat)
  idle : Nat
  wakeHeld : Bool
deriving DecidableEq, Repr

/-- The ballast berths of a core with no job: the highest sixteen (R185; which ones is log 12, DESIGN CHOICE, unsafe). -/
def ballastBerths : Tbl Berth := (List.range 16).map fun i => (752 + i, Berth.ballast)

/-- A core at reset: DEEP (R38), 752 berths FREE and 16 BALLAST (R185, R584), last issued berths of R184. -/
def Core.reset : Core :=
  { power := .deep, pllFailed := false, berths := ballastBerths, lastIssued := [764, 765, 766, 767], portLast := 4
    atPort := [], passes := [], swapQueue := [], evictOwed := 0, rotating := [], tokens := [], tlb := [], tlbLarge := [], walks := [], idle := 0, wakeHeld := false }

end Sys2Proof.Machine
end

