-- ==== Sys2Proof/Machine/DevTypes.lean ====
section
/-! DEFINITION. Device state, power and pins, interrupt unit, configuration, logbook, host ports, events and outputs
(chapters 16, 17, 18, 19, 21, 22). -/

namespace Sys2Proof.Machine

/-- Device states (R541). -/
inductive DevState where
  | off | alwaysOn | idle | active | faulted
deriving DecidableEq, Repr

/-- The configuration record in force (R392, R525). -/
structure ConfigRec where
  reservedCores : Nat
  standingHost : Nat
  mainShare : Nat
  standingShare : Nat
  deviceShare : Nat
  peerId : Option Nat
  portMode : List Nat
  portKind : Nat
  etherType : Nat
  vlan : Nat
  discoveryMac : BitVec 48
  moorStaging : Nat
deriving DecidableEq, Repr

/-- The defaults of R525. The MAC is held with byte 0 most significant. -/
def ConfigRec.default : ConfigRec :=
  { reservedCores := 0, standingHost := 1, mainShare := 240, standingShare := 16, deviceShare := 64, peerId := none
    portMode := List.replicate 16 0, portKind := 0xFFFF, etherType := 0x88B5, vlan := 0
    discoveryMac := 0x03415A4C0000, moorStaging := 12 }

/-- What the booted image's header gives (R514, R515, R520): version, floor, own tuple's builds (CF, SQ, LK, FT), the
component entries and the configuration record's bytes. -/
structure Image where
  version : Nat
  floor : Nat
  builds : List Nat
  components : List (Nat × Nat × List Byte)
  config : List Byte
deriving DecidableEq, Repr

/-- A copy slot of a logbook record (R530, R532): SEQ, the stores made of the slot, and the payload of a valid copy. -/
structure LogCopy where
  seq : Nat
  stores : Nat
  data : Option (List Byte)
deriving DecidableEq, Repr

/-- A slot that was never written. -/
def LogCopy.blank : LogCopy := { seq := 0, stores := 0, data := none }

/-- A logbook record (R529, R530): its four copy slots, and the AOC count at which its last store began to commit. -/
structure LogRec where
  slots : List LogCopy
  last : Option Nat
deriving DecidableEq, Repr

/-- A record with no valid copy (R531). -/
def LogRec.empty : LogRec := { slots := List.replicate 4 LogCopy.blank, last := none }

/-- The valid copy of highest SEQ, among these. -/
def newestOf : List LogCopy → Option LogCopy
  | [] => none
  | c :: r => match newestOf r with
    | none => if c.data.isSome then some c else none
    | some d => if c.data.isSome && decide (d.seq < c.seq) then some c else some d

/-- The record's value: the payload of its valid copy with the highest SEQ (R530). -/
def LogRec.payload (r : LogRec) : Option (List Byte) := (newestOf r.slots).bind fun c => c.data

/-- A record with one copy of this value. -/
def LogRec.holding (bs : List Byte) : LogRec :=
  { slots := { seq := 1, stores := 1, data := some bs } :: List.replicate 3 LogCopy.blank, last := none }

/-- An accepted ERASE or ENROL that still has stores to make (R575, R577): the new owner of an ENROL, the next store (0 for the catalogue,
1 to 4 for the copy slots of FLASH_ROOT, 5 for IDENTITY), and the new FLASH_ROOT payload. -/
structure OrderRun where
  owner : Option (List Byte)
  stage : Nat
  root : List Byte
deriving DecidableEq, Repr

/-- The debug challenge (R571). -/
structure Challenge where
  value : List Byte
  issued : Nat
deriving DecidableEq, Repr

/-- Boot state, identity and debug state (chapters 17, 19). `bank` is 0, 1 or 3 for none; `holdCodes` are the codes of banks A and B;
`owner` is the owner key in force at this boot; `bootPeerTimeout` and `bootHbTimeout` are the settings as stored at the last boot
(R534); `rollbackRaise` is a rise of the rollback counter that still waits to be stored (R518, R533); `order` is the accepted order
whose stores are being made (R575); `torn` lists banks whose programming did not complete (R528, R613). -/
structure BootState where
  booting : Bool
  done : Bool
  holding : Bool
  bank : Nat
  holdCodes : List (BitVec 16)
  image : Option Image
  owner : Option (List Byte)
  bootPeerTimeout : Nat
  bootHbTimeout : Nat
  flash : List Host.Cell
  log : Tbl LogRec
  challenge : Option Challenge
  scopes : Nat
  rollbackRaise : Option Nat
  order : Option OrderRun
  torn : List Nat
deriving DecidableEq, Repr

/-- Power, pins, telemetry and duty (chapter 21). -/
structure Power where
  standby : Bool
  pwrEn : Bool
  pwrGood : Bool
  railsStarting : Bool
  powerDown : Bool
  needEdge : Bool
  lowSince : Option Nat
  heldEdge : Bool
  tripHold : Bool
  thermDrive : Bool
  lastCause : Nat
  statusUnread : Bool
  bootWpN : Bool
  perst : List Bool
  prsnt : BitVec 16
  smbAddr : Nat
  vin : BitVec 16
  iin : BitVec 16
  pin : BitVec 16
  tLogic : BitVec 16
  tDram0 : BitVec 16
  tDram1 : BitVec 16
  pcap : BitVec 16
  powerDuty : Nat
  thermalDuty : Nat
  energyMj : Nat
  refresh2x : List Bool
  goodSince : Nat
deriving DecidableEq, Repr

/-- An IU_SRC register without its fixed fields (R551). `pending` is PENDING of an edge source; that of a level source follows its input
(R558). `input` is the input of a level source whose cause no other state shows; the core and the priority of a delivery that is in
progress stand in `deliverTo` and `deliverPrio` (R555, R560). -/
structure IuSrc where
  targets : Byte
  lastTarget : Nat
  delivering : Bool
  active : Bool
  pending : Bool
  mask : Bool
  prio : Nat
  input : Bool
  deliverTo : Nat
  deliverPrio : Nat
deriving DecidableEq, Repr

/-- Reset of an ordinary source (R551). -/
def IuSrc.reset : IuSrc :=
  { targets := 0, lastTarget := 7, delivering := false, active := false, pending := false, mask := true, prio := 0
    input := false, deliverTo := 0, deliverPrio := 0 }

/-- A control core's registers (R552): claim slot (source, priority), threshold, active stack (source, priority), bad
completions. -/
structure IuCore where
  claim : Option (Nat × Nat)
  threshold : Nat
  stack : List (Nat × Nat)
  bad : Nat
deriving DecidableEq, Repr

/-- Reset of a control core's registers (R552). -/
def IuCore.reset : IuCore := { claim := none, threshold := 0, stack := [], bad := 0 }

/-- The interrupt unit, the always-on timers and the sleep of the control domain (R540, R550 to R565): `fired` says that a timer has
fired since its compare value was written, `latches` lists the edge sources whose wake latch is set. -/
structure IntUnit where
  srcs : Tbl IuSrc
  cores : Tbl IuCore
  compare : Tbl (BitVec 64)
  fired : Tbl Bool
  asleep : Bool
  latches : List Nat
deriving DecidableEq, Repr

/-- An always-on timer's compare value at reset (R565). -/
def compareReset : BitVec 64 := BitVec.allOnes 64

/-- The interrupt unit at reset (R565). -/
def IntUnit.reset : IntUnit := { srcs := [], cores := [], compare := [], fired := [], asleep := false, latches := [] }

/-- An event waiting in a port's queue (R494): code, kind, tag, error code, time, body (36 bytes). -/
structure Event where
  event : Nat
  kind : Nat
  tag : Nat
  code : BitVec 16
  time : Nat
  body : List Byte
deriving DecidableEq, Repr

/-- A cargo feed of a port (R507, R625): `prod` and `cons` are PROD_ADDR and CONS_ADDR, `lastProd` the last PROD read. -/
structure Cargo where
  isOpen : Bool
  ring : Nat
  records : Nat
  prod : Nat
  cons : Nat
  cursor : Nat
  lastProd : Nat
  code : BitVec 16
deriving DecidableEq, Repr

/-- Reset of the cargo registers (R625). -/
def Cargo.reset : Cargo :=
  { isOpen := false, ring := 0, records := 0, prod := 0, cons := 0, cursor := 0, lastProd := 0, code := 0 }

/-- An event ring (R491, R492). -/
structure EvRing where
  addr : Nat
  entries : Nat
  credits : Nat
  written : Nat
  vecResp : Nat
  vecAsync : Nat
  moderation : Nat
deriving DecidableEq, Repr

/-- A taken capsule (R482, R486, R487): its bytes 0 to 59, and where its effect stands: the AOC count from which a cargo read
is awaited, the cargo bytes that are being acted on. -/
structure Running where
  bytes : List Byte
  since : Nat
  data : List Byte
deriving DecidableEq, Repr

/-- A host port (chapter 16). `slots` holds the landing's bytes; `expected` counts how often each slot was taken; `sealedSlots` lists
slots whose capsule is sealed and not taken; `taken` holds taken capsules that have not run, `running` the ordered one that runs;
`landing` the feeds (position, number) whose blocks an XING_COMMIT awaits (R308, R506); `ended` the last 16 ended groups (handle, code);
`untrusted` says that law 2 or 3 of the port is lost (R588). -/
structure Port where
  slots : List Host.Cell
  expected : Tbl Nat
  next : BitVec 32
  sealedSlots : List Nat
  held : Nat
  lcredits : Nat
  takenAt : Nat
  answerPending : Bool
  slotFaults : Nat
  taken : List Running
  running : Option Running
  landing : List (Nat × Nat)
  queue : List Event
  reserved : Nat
  evseq : BitVec 32
  ring : Option EvRing
  lastMsix : Option Nat
  toAnnounce : List Nat
  staged : List (Nat × List Byte)
  cargo : Cargo
  group : Option (Nat × List (Nat × List Byte))
  ended : List (Nat × BitVec 16)
  block : List Byte
  blockValid : Bool
  untrusted : Bool
  msix : List Host.Cell
  pba : BitVec 32
deriving DecidableEq, Repr

/-- The MSI-X table in its reset state (R627): every vector masked (PRESUMED from the PCI Express specification, log 51, unsafe). -/
def msixReset : List Host.Cell := (List.range 32).map fun i => (16 * i + 12, 1)

/-- A port at boot or after a port reset, but for the list of ended groups (R481, R512). -/
def Port.reset : Port :=
  { slots := [], expected := [], next := 0, sealedSlots := [], held := 4096, lcredits := 0, takenAt := 0
    answerPending := false, slotFaults := 0, taken := [], running := none, landing := [], queue := [], reserved := 0, evseq := 0
    ring := none, lastMsix := none, toAnnounce := [], staged := [], cargo := Cargo.reset, group := none, ended := []
    block := List.replicate 64 0, blockValid := false, untrusted := false, msix := msixReset, pba := 0 }

/-- State of a result handle (R510). -/
inductive ResState where
  | empty | copying | ready | released
deriving DecidableEq, Repr

/-- A result handle (R499, R508, R510). -/
structure Result where
  st : ResState
  job : Nat
  publication : BitVec 32
  length : Nat
  crc : BitVec 32
  time : Nat
  data : List Byte
  owner : Option Nat
deriving DecidableEq, Repr

/-- A handle at boot (R512). -/
def Result.empty : Result :=
  { st := .empty, job := 0, publication := 0, length := 0, crc := 0, time := 0, data := [], owner := none }

/-- What the module has put on its pins and buses, oldest first (the model's own record of outputs). -/
inductive Out where
  | hostWrite (port addr : Nat) (data : List Byte)
  | msix (port vector : Nat)
  | frame (link : Nat) (da : BitVec 48) (p : Pkt) (bytes : List Byte)
  | smbus (cmd : Nat) (data : List Byte)
  | debug (data : List Byte)
  | alertAddress (a : Nat)
deriving DecidableEq, Repr

/-- What the tide is computed from (R369): times of events in AOC counts, newest first. -/
structure TideInputs where
  dramErrs : List Nat
  rowMarks : List Nat
  retrains : List (Nat × Nat)
  droops : List Nat
  peerLoss : List Nat
  flashReads : List (Nat × Nat × Nat)
  level : Nat
  lastChange : Nat
  points : List Nat
deriving DecidableEq, Repr

/-- The fatal detections of this stay in FAULTED and the error snapshot (R587 to R590, R622). -/
structure Snapshot where
  valid : Bool
  count : Nat
  code : BitVec 16
  laws : BitVec 11
  locator : Nat
  time : Nat
  lawsReported : BitVec 11
deriving DecidableEq, Repr

/-- The snapshot at always-on power-up (R622). -/
def Snapshot.reset : Snapshot :=
  { valid := false, count := 0, code := 0, laws := 0, locator := 0, time := 0, lawsReported := 0 }

end Sys2Proof.Machine
end

