-- ==== Sys2Proof/Machine/MemTypes.lean ====
section
/-! DEFINITION. The memory system's state: bytes of the physical map, poison, retired stores, frames, fault-ins,
write-backs, the flash translation layer, scratchpad repair and scrubbing (chapters 8 and 11). -/

namespace Sys2Proof.Machine

/-- What a retired store writes (R197) or an atomic does (R208); `op` is the atomic's OP field, `cmp` is RD. -/
inductive StoreKind where
  | store
  | atomic (op : Nat) (cmp : W64)
deriving DecidableEq, Repr

/-- A store or atomic that has retired and is not yet performed (R197, R209). `va` is a job address; `held` says that
its home holds it for an exclusive crossing (R181, R299). -/
structure PStore where
  serial : Nat
  core : Nat
  tid : Nat
  pos : Nat
  pc : W32
  va : Nat
  size : Nat
  data : W64
  kind : StoreKind
  held : Bool
deriving DecidableEq, Repr

/-- Who holds a frame of job DRAM (R317, R390). -/
inductive FrameUse where
  | region (pos : Nat)
  | table (pos : Nat)
  | streams (pos : Nat)
  | swap (pos : Nat)
  | version (pos : Nat)
  | pool (pos : Nat)
deriving DecidableEq, Repr

/-- A run of job DRAM in use. -/
structure Frame where
  base : Nat
  size : Nat
  use : FrameUse
deriving DecidableEq, Repr

/-- A fault-in under way (R333): the job, its page (job address / 64 KiB), the preferred stack and the account charged
(R398). -/
structure FaultIn where
  pos : Nat
  page : Nat
  stack : Nat
  acct : Nat
  serial : Nat
deriving DecidableEq, Repr

/-- A 16 KiB unit in the flash controller's buffer (R336): its bytes. -/
structure WriteBack where
  pos : Nat
  page : Nat
  unit : Nat
  flashPage : Nat
  bytes : List Byte
  serial : Nat
deriving DecidableEq, Repr

/-- State of a NAND block (law 9, R583). -/
inductive BlkState where
  | free | valid | invalid | bad
deriving DecidableEq, Repr

/-- A NAND block: state, erase count, pages written since the erase, reads since the erase, a read that needed a retry
(R328, R329). -/
structure Blk where
  st : BlkState
  erases : Nat
  used : Nat
  reads : Nat
  retry : Bool
deriving DecidableEq, Repr

/-- A block of the tier at final test (log 2, DESIGN CHOICE, unsafe). -/
def Blk.fresh : Blk := { st := .free, erases := 0, used := 0, reads := 0, retry := false }

/-- The flash tier's translation layer (R326 to R342). `map` gives each mapped 16 KiB logical unit its NAND page number plus one; `root`
is the map of the last checkpoint and `journal` lists the changes since, oldest first, both in flash (R326; none of them has a layout in
DRAM or flash: log 117, DESIGN CHOICE, unsafe); `sizes` gives a compressed page its frame length; `skip` is the time until which an
incompressible page is skipped; `ageTicks` counts the 60 s ticks since boot and `ages` gives a page the tick at which its age was last
zero. -/
structure Flash where
  blocks : Tbl Blk
  map : Tbl Nat
  root : Tbl Nat
  journal : List (Nat × Nat)
  openBlock : Option Nat
  sizes : Tbl Nat
  skip : Tbl Nat
  ages : Tbl Nat
  ageTicks : Nat
  lifetimeBytes : Nat
  wornSent : Bool
  fallback : Bool
  lastCheckpoint : Option Nat
  powered : Bool
deriving DecidableEq, Repr

/-- One row's tally (R240): AOC counts of its last correctable errors, newest first. -/
abbrev Tally := List Nat

/-- A field repair map entry (R244): the mapped-out row and the spare that answers for it. -/
structure Remap where
  core : Nat
  bank : Nat
  spare : Nat
  row : Nat
deriving DecidableEq, Repr

/-- A single-granule poison, a scratchpad word or a flash unit that reads as uncorrectable is a number in a list: `dramBad` holds
addresses / 64 (R319), `spBad` global word indices (R236), `flashBad` logical units (R330). `sparesFailed` gives a bank (core * 64 +
bank) the mask of its spares that failed their test (R242); `scrubAt` is the next word of a bank's scrubber (R238). -/
structure MemSys where
  mem : List Host.Cell
  dramBad : List Nat
  spBad : List Nat
  flashBad : List Nat
  stores : List PStore
  serial : Nat
  frames : List Frame
  faultIns : List FaultIn
  writeBacks : List WriteBack
  hands : List Nat
  refBits : List Nat
  flash : Flash
  tallies : Tbl Tally
  lastErr : Tbl Nat
  marked : List Nat
  unrepaired : List Nat
  remaps : List Remap
  sparesFailed : Tbl Nat
  scrubAt : Tbl Nat
  bridgeRetries : List Nat
deriving DecidableEq, Repr

/-- The memory system at reset: nothing listed (log 2, DESIGN CHOICE, unsafe, log 6, DESIGN CHOICE, unsafe). -/
def MemSys.reset : MemSys :=
  { mem := [], dramBad := [], spBad := [], flashBad := [], stores := [], serial := 0, frames := [], faultIns := []
    writeBacks := [], hands := [0, 0, 0, 0], refBits := []
    flash := { blocks := [], map := [], root := [], journal := [], openBlock := none, sizes := [], skip := [], ages := [], ageTicks := 0, lifetimeBytes := 0
               wornSent := false, fallback := false, lastCheckpoint := none, powered := false }
    tallies := [], lastErr := [], marked := [], unrepaired := [], remaps := [], sparesFailed := [], scrubAt := []
    bridgeRetries := [0, 0] }

end Sys2Proof.Machine
end

