-- ==== Sys2Proof/Machine/JobTypes.lean ====
section
/-! DEFINITION. Job positions: the manifest, page tables, counters, streams, epochs, moorings, feeds and publication
channels (chapters 6, 11, 12, 13, 16). -/

namespace Sys2Proof.Machine

/-- A THREADS entry (R388). -/
structure ThreadDecl where
  core : Nat
  group : Byte
  stream : BitVec 16
  startPc : W32
  g1 : W64
  g2 : W64
  g3 : W64
deriving DecidableEq, Repr

/-- A CORES entry (R388). -/
structure CoreDecl where
  core : Nat
  lane : Bool
  laneGroup : Byte
  laneStream : BitVec 16
  swapBase : Nat
  laneBase : Nat
  laneLength : Nat
  tailCtr : Nat
  headCtr : Nat
deriving DecidableEq, Repr

/-- A region entry (R315). -/
structure Region where
  va : Nat
  length : Nat
  flash : Bool
  large : Bool
  writable : Bool
  pin : Bool
  stack : Nat
  load : Bool
  flashBase : Nat
deriving DecidableEq, Repr

/-- A ring table entry (R228). -/
structure RingDecl where
  base : Nat
  sizeLog2 : Nat
  core : Nat
  slots : Nat
  initFull : Nat
deriving DecidableEq, Repr

/-- A feed table entry (R502). -/
structure FeedDecl where
  buf : Nat
  recBytes : Nat
  blockRecs : Nat
  bufBlocks : Nat
  fillCtr : Nat
  freeCtr : Nat
  feed : Nat
deriving DecidableEq, Repr

/-- A DATA entry (R389). -/
structure DataDecl where
  dest : Nat
  length : Nat
  source : Nat
deriving DecidableEq, Repr

/-- A PUBLISH entry (R389). -/
structure PubDecl where
  recAddr : Nat
  pubCtr : Nat
  ackCtr : Nat
deriving DecidableEq, Repr

/-- The EPOCHS entry (R389). -/
structure EpochDecl where
  viewVa : Nat
  slotCtr : List Nat
  stepCtr : Nat
  commitCtr : Nat
  replica : Nat
  stepReq : Nat
  stepStatus : Nat
  stepWord : Nat
deriving DecidableEq, Repr

/-- A checked manifest (R386 to R391), with its JOB_TAG (R390) and the bytes it was read from. -/
structure Manifest where
  raw : List Byte
  sqBuild : Nat
  stallLog2 : Nat
  rotateLog2 : Nat
  deepLog2 : Nat
  jobKey : List Byte
  codeVa : Nat
  codeWords : Nat
  threads : List ThreadDecl
  cores : List CoreDecl
  regions : List Region
  pool : List Nat
  rings : List RingDecl
  feeds : List FeedDecl
  groups : List Nat
  streams : List (W64 × W64)
  counters : List (Nat × Nat)
  data : List DataDecl
  publish : List PubDecl
  epochs : Option EpochDecl
  versioned : List (Nat × Nat)
  moored : List (Nat × Nat)
  tag : W64
deriving DecidableEq, Repr

/-- No manifest. -/
def Manifest.empty : Manifest :=
  { raw := [], sqBuild := 0, stallLog2 := 24, rotateLog2 := 20, deepLog2 := 17, jobKey := [], codeVa := 0, codeWords := 0
    threads := [], cores := [], regions := [], pool := [], rings := [], feeds := [], groups := [], streams := []
    counters := [], data := [], publish := [], epochs := .none, versioned := [], moored := [], tag := 0 }

/-- A page-table entry that maps a page (R322, R323), keyed by its job address / 64 KiB. `frame` is the physical DRAM
address of the page or of its copy. -/
structure Pte where
  large : Bool
  flash : Bool
  writable : Bool
  resident : Bool
  pin : Bool
  protect : Bool
  frame : Nat
  dirty : BitVec 16
  flashPage : Nat
deriving DecidableEq, Repr

/-- A table of a job's page tables (R321): the replica's stack, its level, the job-address bits above its index field, and its base. -/
structure PTab where
  stack : Nat
  level : Nat
  pre : Nat
  base : Nat
deriving DecidableEq, Repr

/-- Job states (R378). -/
inductive JobState where
  | none | loaded | running | ending
deriving DecidableEq, Repr

/-- End reasons (R383). -/
inductive EndReason where
  | ended | stopped | faulted | unloaded
deriving DecidableEq, Repr

/-- STATE of an epoch-table entry (R350). -/
inductive EpState where
  | free | current | previous
deriving DecidableEq, Repr

/-- An epoch-table entry (R350). -/
structure EpEnt where
  epoch : Nat
  st : EpState
  moorHold : Bool
  slots : BitVec 16
deriving DecidableEq, Repr

/-- A free entry. -/
def EpEnt.free : EpEnt := { epoch := 0, st := .free, moorHold := false, slots := 0 }

/-- A protection-table entry (R353). -/
structure Prot where
  lastw : Nat
  from0 : Nat
  to0 : Nat
  from1 : Nat
  to1 : Nat
  mgen : Nat
  v0 : Bool
  v1 : Bool
deriving DecidableEq, Repr

/-- Epoch numbers compare modulo 2^32 (R350): `x` lies from `a` to `b`. -/
def epochWithin (a x b : Nat) : Bool := decide ((x + (2 ^ 32 - a % 2 ^ 32)) % 2 ^ 32 ≤ (b + (2 ^ 32 - a % 2 ^ 32)) % 2 ^ 32)

/-- A version frame holds an epoch (R354). -/
def Prot.holds (p : Prot) (frame epoch : Nat) : Bool :=
  if frame = 0 then p.v0 && epochWithin p.from0 epoch p.to0 else p.v1 && epochWithin p.from1 epoch p.to1

/-- A version frame holds no epoch from `oldest` to `now` (R355). -/
def Prot.spare (p : Prot) (frame oldest now : Nat) : Bool := !(p.holds frame oldest || p.holds frame now)

/-- A protection entry at reset (R376). -/
def Prot.reset : Prot :=
  { lastw := 0, from0 := 0, to0 := 0, from1 := 0, to1 := 0, mgen := 0, v0 := false, v1 := false }

/-- The host side of a feed (R503 to R506): the port and ring it is bound to, its cursor, the last PROD read, the blocks delivered,
whether a block is being read, whether a close waits for that block, whether it has been opened before, and the cursor a restore
recorded for its first opening (R374). -/
structure Feed where
  isOpen : Bool
  port : Nat
  ring : Nat
  records : Nat
  prodAddr : Nat
  consAddr : Nat
  cursor : Nat
  prod : Nat
  blocks : Nat
  pulling : Bool
  closing : Bool
  opened : Bool
  restored : Option Nat
deriving DecidableEq, Repr

/-- A feed at job start. -/
def Feed.closed : Feed :=
  { isOpen := false, port := 0, ring := 0, records := 0, prodAddr := 0, consAddr := 0, cursor := 0, prod := 0
    blocks := 0, pulling := false, closing := false, opened := false, restored := none }

/-- What a GIVE.C on PUB_CTR saw (R508): the publications `lo` + 1 to `hi` that it asks for, the bytes of the record, and of the buffer
where it can be read. -/
structure PubMark where
  lo : Nat
  hi : Nat
  record : List Byte
  data : Option (List Byte)
deriving DecidableEq, Repr

/-- A publish channel (R508): publications served, the one being copied (handle, address of its buffer), and what the GIVE.C of those
not yet published saw. -/
structure PubChan where
  served : Nat
  copying : Option (Nat × Nat)
  marks : List PubMark
deriving DecidableEq, Repr

/-- One job position. `cleared` that ENDING has done its
steps 1 to 3 (R382); `bound` gives a bound slot its epoch plus one, `releases` lists releases that wait for earlier SPAN_MMs
(slot, epoch, serial at the release; R352). -/
structure Job where
  st : JobState
  owner : Option Nat
  grants : List Nat
  man : Manifest
  key : List Byte
  counters : Tbl W32
  streams : List (W64 × W64)
  pages : Tbl Pte
  tables : List PTab
  swap : Tbl SwapRec
  stall : Nat
  reason : EndReason
  code : BitVec 16
  lost : Nat
  unstartable : Bool
  restored : Option Nat
  cleared : Bool
  epochs : List EpEnt
  prot : Tbl Prot
  verBase : List Nat
  reqServed : Nat
  cursors : List Nat
  feeds : List Feed
  pubs : List PubChan
  startedAt : Nat
  bound : Tbl Nat
  releases : List (Nat × Nat × Nat)
deriving DecidableEq, Repr

/-- A position with no job since boot (R385, R406). -/
def Job.absent : Job :=
  { st := .none, owner := .none, grants := [], man := .empty, key := [], counters := [], streams := [], pages := [], tables := []
    swap := [], stall := 0, reason := .ended, code := 0, lost := 0, unstartable := false
    restored := .none, cleared := false, epochs := [], prot := [], verBase := [], reqServed := 0
    cursors := [], feeds := [], pubs := [], startedAt := 0, bound := [], releases := [] }

end Sys2Proof.Machine
end

