-- ==== Sys2Proof/Machine/State.lean ====
section
/-! DEFINITION. The state of the block, its reset, and the reasons a step can stop. -/

namespace Sys2Proof.Machine

/-- The state. `pending` is the queue of waiting commands; every other field is state the manual gives the device,
except `freeCount` (the count behind free values, log 10, DESIGN CHOICE, safe) and `outs` (the record of what left the module). -/
structure State where
  pending : List Instr
  aoc : Nat
  fabric : Nat
  dev : DevState
  pw : Power
  boot : BootState
  cfg : ConfigRec
  cores : Tbl Core
  jobs : Tbl Job
  ms : MemSys
  engines : List Engine
  spans : List Span
  totals : Tbl W64
  xings : Tbl XEntry
  nextHandle : BitVec 32
  moor : Moor
  restore : Restore
  tide : TideInputs
  snap : Snapshot
  ras : Tbl Nat
  iu : IntUnit
  ports : Tbl Port
  results : Tbl Result
  az : Az
  outs : List Out
  freeCount : Nat
deriving DecidableEq, Repr

/-- Why a step stops with a fault: for no reason, since the manual gives every command an effect. -/
inductive Fault where
deriving DecidableEq, Repr

/-- Why a step has no meaning. -/
inductive Refusal where
  /-- The command has no meaning in the model; raised by exec's own arms only. Safe. -/
  | notModelled (mnemonic : String)
deriving DecidableEq, Repr

/-- Power and pins at reset (R615, R616; the pins' levels and the telemetry are log 2, DESIGN CHOICE, unsafe). -/
def Power.reset : Power :=
  { standby := false, pwrEn := false, pwrGood := false, railsStarting := false, powerDown := false, needEdge := false
    lowSince := none, heldEdge := false, tripHold := false, thermDrive := false, lastCause := 0
    statusUnread := false, bootWpN := true, perst := [false, false], prsnt := 0, smbAddr := 0, vin := 0, iin := 0
    pin := 0, tLogic := 0, tDram0 := 0, tDram1 := 0, pcap := 1500, powerDuty := 16, thermalDuty := 16, energyMj := 0
    refresh2x := [false, false], goodSince := 0 }

/-- Boot state at reset: no boot, no image (22 DEVSTATE; log 2, DESIGN CHOICE, unsafe); the logbook as final test leaves it, with a rollback
counter of 0 and no other record (log 114, DESIGN CHOICE, unsafe). -/
def BootState.reset : BootState :=
  { booting := false, done := false, holding := false, bank := 3, holdCodes := [0, 0], image := none, owner := none
    bootPeerTimeout := 100, bootHbTimeout := 50, flash := [], log := [(0x0002, LogRec.holding [0, 0, 0, 0])], challenge := none, scopes := 0
    rollbackRaise := none, order := none, torn := [] }

/-- The tide at boot (R370). -/
def TideInputs.reset : TideInputs :=
  { dramErrs := [], rowMarks := [], retrains := [], droops := [], peerLoss := [], flashReads := []
    level := 0, lastChange := 0, points := List.replicate 7 0 }

/-- The machine at reset: OFF, before the always-on domain leaves reset (log 1, DESIGN CHOICE, unsafe). -/
def State.reset : State :=
  { pending := [], aoc := 0, fabric := 0, dev := .off, pw := Power.reset, boot := BootState.reset
    cfg := ConfigRec.default, cores := [], jobs := [], ms := MemSys.reset, engines := Engine.all
    spans := [Span.reset, Span.reset], totals := [], xings := [], nextHandle := 0, moor := Moor.closed
    restore := Restore.closed, tide := TideInputs.reset, snap := Snapshot.reset, ras := [], iu := IntUnit.reset
    ports := [], results := [], az := Az.reset, outs := [], freeCount := 0 }

/-- What a meaning answers. -/
abbrev Outc := Host.Outcome State Fault Refusal

end Sys2Proof.Machine
end

