-- ==== Sys2Proof/Machine/Access.lean ====
section
/-! DEFINITION. Accessors: the one home of each piece of state, read and written here only. -/

namespace Sys2Proof.Machine

def State.core (s : State) (c : Nat) : Core := tget Core.reset c s.cores
def State.setCore (s : State) (c : Nat) (x : Core) : State := { s with cores := tset Core.reset c x s.cores }
def State.updCore (s : State) (c : Nat) (f : Core → Core) : State := s.setCore c (f (s.core c))

def State.job (s : State) (p : Nat) : Job := tget Job.absent p s.jobs
def State.setJob (s : State) (p : Nat) (j : Job) : State := { s with jobs := tset Job.absent p j s.jobs }
def State.updJob (s : State) (p : Nat) (f : Job → Job) : State := s.setJob p (f (s.job p))

def State.port (s : State) (p : Nat) : Port := tget Port.reset p s.ports
def State.setPort (s : State) (p : Nat) (x : Port) : State := { s with ports := tset Port.reset p x s.ports }
def State.updPort (s : State) (p : Nat) (f : Port → Port) : State := s.setPort p (f (s.port p))

def State.updMs (s : State) (f : MemSys → MemSys) : State := { s with ms := f s.ms }
def State.setMem (s : State) (m : Memory) : State := { s with ms := { s.ms with mem := m } }

/-- The instance of class `cls`, number `num` (R399). -/
def State.engine (s : State) (cls num : Nat) : Engine :=
  (s.engines.find? fun e => e.cls == cls && e.num == num).getD (Engine.idle cls num)

def State.updEngine (s : State) (cls num : Nat) (f : Engine → Engine) : State :=
  { s with engines := updWhere (fun e => e.cls == cls && e.num == num) f s.engines }

def State.span (s : State) (p : Nat) : Span := s.spans.getD p Span.reset
def State.updSpan (s : State) (p : Nat) (f : Span → Span) : State :=
  { s with spans := lset s.spans p (f (s.span p)) }

/-- Number of reserved cores n (R27, R392). -/
def State.reserved (s : State) : Nat := s.cfg.reservedCores

/-- The job position of a core: the standing job has cores 64 - n to 63 (R27, R380). -/
def State.posOf (s : State) (core : Nat) : Nat := if 64 - s.reserved ≤ core then 1 else 0

/-- The cores of a position, ascending. -/
def State.coresOf (s : State) (p : Nat) : List Nat := (List.range 64).filter fun c => s.posOf c == p

/-- Adds to a RAS counter named by its BAR0 offset; 64 bits, saturating (R594, R626). -/
def State.countBy (s : State) (off n : Nat) : State :=
  { s with ras := tset 0 off (Nat.min (tget 0 off s.ras + n) (2 ^ 64 - 1)) s.ras }
def State.count (s : State) (off : Nat) : State := s.countBy off 1

/-- A value the manual leaves open, and the state that has used it (log 10, DESIGN CHOICE, safe). -/
def State.takeFree (s : State) : W64 × State := (freeValue s.freeCount, { s with freeCount := s.freeCount + 1 })

/-- `n` bytes from the device's random source (R331, R571). -/
def State.takeRandom (s : State) (n : Nat) : List Byte × State :=
  ((List.range n).map (deviceRandom s.freeCount), { s with freeCount := s.freeCount + 1 })

/-- The device runs firmware and engines: IDLE or ACTIVE (R541). -/
def State.live (s : State) : Bool := s.dev == .idle || s.dev == .active

/-- Appends to the record of outputs. -/
def State.out (s : State) (o : Out) : State := { s with outs := s.outs ++ [o] }

def Core.berth (c : Core) (b : Nat) : Berth := tget .free b c.berths
def Core.setBerth (c : Core) (b : Nat) (x : Berth) : Core := { c with berths := tset .free b x c.berths }

/-- The resident context of a berth (R166). -/
def State.ctxAt (s : State) (t : Thr) : Option Ctx :=
  match (s.core t.core).berth t.berth with
  | .resident c => some c
  | _ => none

/-- The context that a berth holds, resident or being swapped out (R166). -/
def State.ctxIn (s : State) (t : Thr) : Option Ctx :=
  match (s.core t.core).berth t.berth with
  | .resident c => some c
  | .swappingOut c => some c
  | _ => none

def State.setCtxAt (s : State) (t : Thr) (c : Ctx) : State :=
  s.updCore t.core fun k => k.setBerth t.berth (.resident c)

/-- Changes the context of a berth, resident or being swapped out. -/
def State.setCtxIn (s : State) (t : Thr) (c : Ctx) : State :=
  match (s.core t.core).berth t.berth with
  | .swappingOut _ => s.updCore t.core fun k => k.setBerth t.berth (.swappingOut c)
  | _ => s.setCtxAt t c

/-- A job counter (R159). -/
def State.ctr (s : State) (p id : Nat) : W32 := tget 0 id (s.job p).counters

/-- Ids 0x0000 to 0xFFFE for the main job, 0x0000 to 0x0FFF for the standing job (R159). -/
def ctrSpace (p : Nat) : Nat := if p = 0 then 0xFFFF else 0x1000
def ctrOk (p id : Nat) : Bool := decide (id < ctrSpace p)

/-- Register n of a context; g0 reads as zero (R153, R188). -/
def Ctx.reg (c : Ctx) (r : Reg) : W64 := if r = 0 then 0 else tget 0 r.toNat c.g

/-- Writes a register; a write to g0 is discarded (R188). -/
def Ctx.setReg (c : Ctx) (r : Reg) (v : W64) : Ctx := if r = 0 then c else { c with g := tset 0 r.toNat v c.g }

/-- Predicate bit p (R191). -/
def Ctx.prd (c : Ctx) (p : Prd) : Bool := c.pred.getLsbD p.toNat

/-- Writes a predicate bit (R191). -/
def Ctx.setPrd (c : Ctx) (p : Prd) (b : Bool) : Ctx :=
  { c with pred := if b then c.pred ||| (1#4 <<< p.toNat) else c.pred &&& ~~~(1#4 <<< p.toNat) }

/-- The control word CTRL of a context (R153). -/
def Status.toNat : Status → Nat
  | .runnable => 0 | .blockedCounter => 1 | .blockedToken => 2 | .blockedEngine => 3 | .blockedPage => 4
  | .pending => 5 | .ended => 0xE | .faulted => 0xF

def Ctx.ctrl (c : Ctx) : W64 :=
  BitVec.ofNat 64 (c.pc.toNat * 2 ^ 32 + c.stream.toNat * 2 ^ 16 + c.group.toNat * 2 ^ 8 + c.pred.toNat * 16 +
    c.status.toNat)

/-- The 512 bytes of a context (R153). -/
def Ctx.bytes (c : Ctx) : List Byte :=
  leBytes 8 c.ctrl.toNat ++ (List.range 63).flatMap fun i => leBytes 8 (tget 0 (i + 1) c.g).toNat

/-- The 576 bytes of a swap record (R168). -/
def Ctx.recordBytes (c : Ctx) : List Byte :=
  c.bytes ++ leBytes 4 c.tid ++ [1, 0, 0, 0] ++ leBytes 2 c.wait.counter ++ [0, 0] ++ leBytes 4 c.wait.threshold ++
    leBytes 8 c.wait.object ++ leBytes 8 c.wait.blockedAt ++ List.replicate 32 0

/-- First address of the scratchpad region (R30, R313). -/
def spBase : Nat := 0x1000000000000
/-- Its size, 64 cores of 4 MiB. -/
def spSize : Nat := 0x10000000
def isScratch (a : Nat) : Bool := decide (spBase ≤ a) && decide (a < spBase + spSize)
/-- The core that owns a scratchpad address (R30). -/
def spCore (a : Nat) : Nat := (a - spBase) / 0x400000
/-- Both DRAM stacks (R313). -/
def dramEnd : Nat := 0x3000000000
/-- The flash tier's logical space, the mooring store of R368 included. -/
def flashBase : Nat := 0x2000000000000
def storeBase : Nat := 0x2068000000000
def flashEnd : Nat := 0x2068000000000
/-- The stack of a DRAM address. -/
def stackOf (a : Nat) : Nat := if a < 0x1800000000 then 0 else 1
/-- The shore of a core (R25). -/
def shoreOf (core : Nat) : Nat := core / 32

end Sys2Proof.Machine
end

