-- ==== Sys2Proof/Machine/Crc.lean ====
section
/-! DEFINITION. CRC-32C (RFC 3720), used by capsules, events, results, logbook copies and Azlink packets, and the IEEE 802.3 frame check
sequence. -/

namespace Sys2Proof.Machine

/-- One bit of the reflected division by the Castagnoli polynomial. -/
def crcBit (c : BitVec 32) : BitVec 32 := if c.getLsbD 0 then (c >>> 1) ^^^ 0x82F63B78 else c >>> 1

/-- One byte. -/
def crcByte (c : BitVec 32) (b : Byte) : BitVec 32 :=
  crcBit (crcBit (crcBit (crcBit (crcBit (crcBit (crcBit (crcBit (c ^^^ b.setWidth 32))))))))

/-- CRC-32C of a byte string. -/
def crc32c (bs : List Byte) : BitVec 32 := ~~~ bs.foldl crcByte 0xFFFFFFFF

/-- One bit of the reflected division by the IEEE 802.3 polynomial. -/
def fcsBit (c : BitVec 32) : BitVec 32 := if c.getLsbD 0 then (c >>> 1) ^^^ 0xEDB88320 else c >>> 1

/-- The frame check sequence of a frame's bytes (IEEE 802.3), in the order of its transmission. -/
def fcs (bs : List Byte) : List Byte :=
  leBytes 4 (~~~ bs.foldl (fun c b => (List.range 8).foldl (fun c _ => fcsBit c) (c ^^^ b.setWidth 32)) (0xFFFFFFFF : BitVec 32)).toNat

end Sys2Proof.Machine
end

