-- ==== Sys2Proof/Machine/Events.lean ====
section
/-! DEFINITION. Event capsules and who receives them (R489 to R497), and the interrupt sources that events fire. -/

namespace Sys2Proof.Machine

/-- A 36-byte body (capsule bytes 24 to 59) from fields (capsule byte, size, value). -/
def evBody (fs : List (Nat × Nat × Nat)) : List Byte :=
  fs.foldl (fun b f => patch b (f.1 - 24) (leBytes f.2.1 f.2.2)) (List.replicate 36 0)

/-- Adds the 2-byte fields at body offsets 6 and 8 of two membership bodies (R494). -/
def sumMembers (old new : List Byte) : List Byte :=
  patch (patch new 6 (leBytes 2 (fld old 6 2 + fld new 6 2))) 8 (leBytes 2 (fld old 8 2 + fld new 8 2))

/-- Queues an event on a port. With fewer than 256 entries free, EV_TIDE and EV_MEMBERSHIP replace a pending one and
EV_CREDIT merges into any pending event (R494). -/
def Port.post (p : Port) (e : Event) : Port :=
  let few := decide (8192 - (p.queue.length + p.reserved) < 256)
  if few && (e.event == 1) && !p.queue.isEmpty then p
  else if few && (e.event == 5 || e.event == 6) && p.queue.any (fun x => x.event == e.event) then
    let old := (p.queue.find? fun x => x.event == e.event).getD e
    let e' := if e.event == 6 then { e with body := sumMembers old.body e.body } else e
    { p with queue := updWhere (fun x => x.event == e.event) (fun _ => e') p.queue }
  else { p with queue := p.queue ++ [e] }

def State.post (s : State) (p : Nat) (e : Event) : State := s.updPort p fun x => x.post e

/-- An event made now (R489). -/
def State.mkEvent (s : State) (event kind : Nat) (code : Code) (body : List Byte) : Event :=
  { event := event, kind := kind, tag := 0, code := code, time := s.aoc, body := body }

/-- To both ports (R497). -/
def State.postBoth (s : State) (e : Event) : State := (s.post 0 e).post 1 e

/-- To the owner of a job, and to the other host while ownership is granted (R497). -/
def State.postOwner (s : State) (pos : Nat) (e : Event) : State :=
  let j := s.job pos
  let s := match j.owner with
    | some o => s.post o e
    | none => s
  j.grants.foldl (fun s g => s.post g e) s

/-- EV_FAULT (R490); a field that does not concern the fault is zero (R489, log 20, DEDUCED, unsafe). -/
structure FaultEv where
  job : Nat := 0xFF
  core : Nat := 0
  berth : Nat := 0
  tid : Nat := 0
  pc : Nat := 0
  opcode : Nat := 0
  group : Nat := 0
  obj : Nat := 0
  obj2 : Nat := 0

def FaultEv.body (f : FaultEv) : List Byte :=
  evBody [(24, 1, f.job), (26, 2, f.core), (28, 2, f.berth), (32, 4, f.tid), (36, 4, f.pc), (40, 2, f.opcode),
    (42, 1, f.group), (44, 4, f.obj), (48, 4, f.obj2)]

/-- A device EV_FAULT goes to both ports, one that concerns a job to its owner (R497). -/
def State.evFault (s : State) (code : Code) (f : FaultEv) : State :=
  let e := s.mkEvent 4 0 code f.body
  if f.job = 0xFF then s.postBoth e else s.postOwner f.job e

/-- EV_DONE of kind JOB (R490, R383). -/
def EndReason.toNat : EndReason → Nat
  | .ended => 0 | .stopped => 1 | .faulted => 2 | .unloaded => 3

def State.evDoneJob (s : State) (pos : Nat) (r : EndReason) (code : Code) (lost : Nat) : State :=
  s.postOwner pos (s.mkEvent 2 2 code (evBody [(24, 1, pos), (25, 1, r.toNat), (28, 4, lost)]))

/-! ### Responses to capsules (R486, R487) -/

def Running.opcode (r : Running) : Nat := fld r.bytes 0 2
def Running.seq (r : Running) : Nat := fld r.bytes 4 4
def Running.tag (r : Running) : Nat := fld r.bytes 8 4
/-- An argument field, by its capsule bytes (R498). -/
def Running.arg (r : Running) (off n : Nat) : Nat := fld r.bytes off n

/-! Opcodes (R498). -/
namespace Cap
def query : Nat := 0x0001
def evqSetup : Nat := 0x0002
def credit : Nat := 0x0003
def jobLoad : Nat := 0x0010
def jobStart : Nat := 0x0011
def jobStop : Nat := 0x0012
def feedOpen : Nat := 0x0020
def feedClose : Nat := 0x0021
def resultRead : Nat := 0x0030
def resultRelease : Nat := 0x0031
def xingBegin : Nat := 0x0040
def xingCommit : Nat := 0x0041
def xingAbort : Nat := 0x0042
def settingsSet : Nat := 0x0050
def settingsStore : Nat := 0x0051
def moorNow : Nat := 0x0060
def restore : Nat := 0x0061
def imageStage : Nat := 0x0070
def attest : Nat := 0x0071
end Cap

/-- Argument fields of each opcode as (capsule byte, size); other argument bytes are reserved (R482, R498). -/
def capFields : List (Nat × List (Nat × Nat)) :=
  [ (Cap.query, [(12, 8)]), (Cap.evqSetup, [(12, 16)]), (Cap.credit, [(12, 4)]), (Cap.jobLoad, [(12, 2), (16, 8)])
  , (Cap.jobStart, [(12, 1)]), (Cap.jobStop, [(12, 1)]), (Cap.feedOpen, [(12, 2), (16, 40)]), (Cap.feedClose, [(12, 2)])
  , (Cap.resultRead, [(12, 2), (16, 24)]), (Cap.resultRelease, [(12, 2)]), (Cap.xingBegin, []), (Cap.xingCommit, [(12, 4)])
  , (Cap.xingAbort, [(12, 4)]), (Cap.settingsSet, [(12, 3), (16, 32)]), (Cap.settingsStore, [(12, 2)]), (Cap.moorNow, [])
  , (Cap.restore, [(12, 2)]), (Cap.imageStage, [(12, 1), (16, 8)]), (Cap.attest, [(12, 44)]) ]

/-- The opcode is defined (R498). -/
def Running.defined (r : Running) : Bool := capFields.any fun f => f.1 == r.opcode

/-- QUERY and CREDIT are immediate (R486). -/
def Running.immediate (r : Running) : Bool := r.opcode == Cap.query || r.opcode == Cap.credit

/-- EV_DONE of kind CAPSULE (R490), which the queue has reserved an entry for (R494). -/
def State.doneEvent (s : State) (r : Running) (code : Code) (data : List Byte) : Event :=
  { s.mkEvent 2 0 code (patch (evBody [(24, 2, r.opcode), (28, 4, r.seq)]) 8 (slice data 0 28)) with tag := r.tag }

/-- The response to a taken capsule (R487); an error is counted (R594). -/
def State.respond (s : State) (p : Nat) (r : Running) (code : Code) (data : List Byte) : State :=
  let e := s.doneEvent r code data
  let s := if code = E.ok then s else s.count (0x10D0 + 8 * p)
  s.updPort p fun q => ({ q with reserved := q.reserved - 1 } : Port).post e

/-- The ordered capsule that would run next on an idle port (R486). -/
def Port.nextOrdered (q : Port) : Option Running :=
  if q.running.isSome then none else q.taken.find? fun r => !r.immediate

def Port.dropTaken (q : Port) (r : Running) : Port := { q with taken := q.taken.erase r }

/-- Capsules of an undefined opcode are answered when their turn comes (R487 check 1). -/
def State.settleTaken (s : State) (p : Nat) : Nat → State
  | 0 => s
  | n + 1 => match (s.port p).nextOrdered with
    | none => s
    | some r =>
      if r.defined then s
      else State.settleTaken ((s.updPort p fun q => q.dropTaken r).respond p r E.capOpcode []) p n

/-- The running ordered capsule is answered, and the port goes on. -/
def State.answer (s : State) (p : Nat) (code : Code) (data : List Byte) : State :=
  match (s.port p).running with
  | none => s
  | some r =>
    let s := (s.respond p r code data).updPort p fun q => { q with running := none }
    s.settleTaken p (s.port p).taken.length

/-- Answers the running capsules of an opcode that name a job. -/
def State.answerJob (s : State) (opcode pos : Nat) (code : Code) : State :=
  [0, 1].foldl (fun s p => match (s.port p).running with
    | some r => if r.opcode == opcode && r.arg 12 1 == pos then s.answer p code [] else s
    | none => s) s

/-- An edge source fires: an ordinary source becomes PENDING, firings merge (R557); while the control domain sleeps its
latch is set (R562); a privileged source that is ACTIVE becomes PENDING too (R559). In ALWAYS-ON the unit has no power, and each boot
finds it at reset (R565). -/
def State.fire (s : State) (n : Nat) : State :=
  if s.dev == .off || s.dev == .alwaysOn then s
  else if s.iu.asleep then
    { s with iu := { s.iu with latches := if s.iu.latches.contains n then s.iu.latches else s.iu.latches ++ [n] } }
  else
    let x := tget IuSrc.reset n s.iu.srcs
    if x.delivering then s
    else { s with iu := { s.iu with srcs := tset IuSrc.reset n { x with pending := true } s.iu.srcs } }

/-- A level source's stored input takes a value (R550). -/
def State.setInput (s : State) (n : Nat) (b : Bool) : State :=
  { s with iu := { s.iu with srcs := tupd IuSrc.reset n (fun x => { x with input := b }) s.iu.srcs } }

end Sys2Proof.Machine
end

