-- ==== Sys2Proof/Machine/Ops.lean ====
section
/-! DEFINITION. Shared operations: waking a context, faults of threads, engines, jobs and the device, counters, and the
ending of a crossing. -/

namespace Sys2Proof.Machine

/-! ### Contexts, wherever they stand -/

/-- The home core of a thread (R151). -/
def coreOfTid (tid : Nat) : Nat := tid / 2 ^ 26

/-- The berth that holds a thread's context, resident or being swapped out (R167). -/
def Core.find (c : Core) (tid : Nat) : Option Nat :=
  (c.berths.find? fun b => match b.2 with
    | .resident x => x.tid == tid
    | .swappingOut x => x.tid == tid
    | _ => false).map Prod.fst

/-- The valid swap record of a thread (R168). Log 98: DESIGN CHOICE, unsafe. -/
def State.record (s : State) (tid : Nat) : Option Ctx :=
  let r := tget SwapRec.empty tid (s.job (s.posOf (coreOfTid tid))).swap
  if r.valid then r.ctx else none

/-- The context of a thread that has not ended: in its berth or in its valid record (R167). -/
def State.thread (s : State) (tid : Nat) : Option Ctx :=
  let c := s.core (coreOfTid tid)
  match c.find tid with
  | some b => match c.berth b with
    | .resident x => some x
    | .swappingOut x => some x
    | _ => none
  | none => s.record tid

/-- Changes a thread's context where it stands. -/
def State.updThread (s : State) (tid : Nat) (f : Ctx → Ctx) : State :=
  let k := coreOfTid tid
  let c := s.core k
  match c.find tid with
  | some b => match c.berth b with
    | .resident x => s.setCore k (c.setBerth b (.resident (f x)))
    | .swappingOut x => s.setCore k (c.setBerth b (.swappingOut (f x)))
    | _ => s
  | none => s.updJob (s.posOf k) fun j =>
      { j with swap := tupd SwapRec.empty tid (fun r => { r with ctx := r.ctx.map f }) j.swap }

/-- An event for a core in SLEEP or DEEP is held until the core reaches RUN (R547). -/
def State.wakeCore (s : State) (core : Nat) : State :=
  s.updCore core fun c => if c.power = .run then { c with idle := 0 } else { c with wakeHeld := true }

/-- The block of a context ends: `f` is what the blocking instruction still does, STATUS becomes RUNNABLE, and a context
in the swap area joins the end of its core's queue (R163, R173); the job's stall clock is zero again (R181). -/
def State.wake (s : State) (tid : Nat) (f : Ctx → Ctx) : State :=
  let k := coreOfTid tid
  let inSwap := ((s.core k).find tid).isNone
  let s := s.updThread tid fun c => { f c with status := .runnable, wait := WaitRec.idle }
  let s := if inSwap then s.updCore k fun c => { c with swapQueue := c.swapQueue ++ [(tid, s.aoc)] } else s
  (s.updJob (s.posOf k) fun j => { j with stall := 0 }).wakeCore k

/-- A berth leaves every pass-over set of its core (R216). -/
def Core.leaveSets (c : Core) (b : Nat) : Core :=
  let ps := c.passes.map fun p => { p with set := p.set.filter (fun x => x != b) }
  { c with passes := ps.filter (fun p => !p.set.isEmpty) }

/-- The instruction count of the code region (R154, R386). -/
def State.codeWords (s : State) (pos : Nat) : Nat := (s.job pos).man.codeWords

/-! ### Device states -/

/-- The device enters a state; STATUS changes with it (R612, R616). -/
def State.setDev (s : State) (d : DevState) : State :=
  if s.dev = d then s else { s with dev := d, pw := { s.pw with statusUnread := true } }

/-- ACTIVE while a position is RUNNING, IDLE when none is any longer (R541, R542). -/
def State.settleDev (s : State) : State :=
  let run := (s.job 0).st = .running ∨ (s.job 1).st = .running
  if s.dev = .idle ∧ run then s.setDev .active
  else if s.dev = .active ∧ ¬ run then s.setDev .idle
  else s

/-! ### The end of a job and of a crossing -/

/-- Offset of the abort counter of a code (R626). -/
def abortCounter (code : Code) : Nat :=
  if code = E.noJob then 0x1070 + 8 * 6 else if code = E.xingAborted then 0x1070 + 8 * 7
  else if 0x0501 ≤ code.toNat ∧ code.toNat ≤ 0x0506 then 0x1070 + 8 * (code.toNat - 0x0501) else 0

/-- Puts a code in the list of a port's last 16 ended groups (R308). -/
def Port.endGroup (p : Port) (handle : Nat) (code : Code) : Port :=
  { p with group := none, ended := ((handle, code) :: p.ended).take 16 }

/-- The abort path of a thread's crossing: XBEGIN's RD gets the code, PC the abort target, a pending context becomes
RUNNABLE and no result of the crossing arrives any more (R214, R305). -/
def Ctx.abortXing (c : Ctx) (code : Code) : Ctx :=
  match c.xing with
  | none => c
  | some x =>
    let st : Status := if c.status = .pending then .runnable else c.status
    let left := c.out.filter (fun o => !o.inXing)
    let c := { c with xing := none, pc := x.target, out := left, status := st }
    c.setReg x.rd (code.setWidth 64)

/-- The crossing timeout in AOC counts, a setting (R293, R534). -/
def State.xingTimeout (s : State) : Nat :=
  let v := match (tget LogRec.empty 0x0011 s.boot.log).payload with
    | some p => fld p 0 2
    | none => 10
  v * 25000

/-- The entry of the epoch table in a state. -/
def Job.epoch (j : Job) (st : EpState) : Option EpEnt := j.epochs.find? fun e => e.st == st

/-- REFS of an epoch-table entry (R350). -/
def EpEnt.refs (e : EpEnt) : Nat :=
  ((List.range 16).filter fun i => e.slots.getLsbD i).length + (if e.moorHold then 1 else 0)

/-- The previous epoch still has references (R360). -/
def Job.pinned (j : Job) : Bool := match j.epoch .previous with
  | some e => decide (0 < e.refs)
  | none => false

/-- Firmware opens a crossing again after a conflict, exclusively on the fourth attempt (R299): a new crossing with the timeout in force
now (R293), which waits when `waits` says so (R302). -/
def XEntry.retry (x : XEntry) (now timeout : Nat) (waits : Bool) : XEntry :=
  { x with
    st := if waits then .waiting else .opened, openedAt := now, timeout := timeout, attempt := x.attempt + 1
    exclusive := decide (4 ≤ x.attempt + 1) }

/-- Ends a crossing without a trace but for its abort counter and its report (R300, R312). A conflict of a step commit
or a map-out is retried (R299); of an eviction the sweep moves on (R337). -/
def State.abortXing (s : State) (k : Nat) (code : Code) : State :=
  match s.xings.find? (fun e => e.1 == k) with
  | none => s
  | some (_, x) =>
    let s := if abortCounter code = 0 then s else s.count (abortCounter code)
    let s := if code = E.xingConflict ∨ code = E.xingTimeout then s.setInput 247 true else s
    let gone := { s with xings := s.xings.filter fun e => e.1 != k }
    match x.opener with
    | .thread _ tid => gone.updThread tid fun c => c.abortXing code
    | .stepCommit pos =>
      if code = E.xingConflict then
        { s with xings := updWhere (fun e => e.1 == k) (fun e => (e.1, e.2.retry s.aoc s.xingTimeout (s.job pos).pinned)) s.xings }
      else gone
    | .rowMapOut _ _ _ =>
      if code = E.xingConflict then
        { s with xings := updWhere (fun e => e.1 == k) (fun e => (e.1, e.2.retry s.aoc s.xingTimeout false)) s.xings }
      else gone
    | .evict _ _ => gone
    | .group p h => gone.updPort p fun q => q.endGroup h code

/-- Aborts every entry that satisfies a test. -/
def State.abortWhere (s : State) (p : XEntry → Bool) (code : Code) : State :=
  ((s.xings.filter fun e => p e.2).map Prod.fst).foldl (fun s k => s.abortXing k code) s

/-- A running job ends: the position enters ENDING and issue stops (R381); the device may become IDLE (R542). -/
def State.endJob (s : State) (pos : Nat) (r : EndReason) (code : Code) : State :=
  if (s.job pos).st = .running then
    (s.updJob pos fun j => { j with st := .ending, reason := r, code := code }).settleDev
  else s

/-- The job faults (R178): EV_FAULT goes to its owner, and the job ends. Only a running job faults. -/
def State.jobFault (s : State) (pos : Nat) (code : Code) (f : FaultEv) : State :=
  if (s.job pos).st = .running then (s.evFault code f).endJob pos .faulted code else s

/-- A thread fault (R178): STATUS FAULTED with the PC of the faulting instruction, its crossing aborts (R303), the job
faults. -/
def State.threadFault (s : State) (tid : Nat) (pc : W32) (code : Code) : State :=
  let k := coreOfTid tid
  let pos := s.posOf k
  let berth := ((s.core k).find tid).getD 0xFFFD
  let s := match (s.thread tid).bind fun c => c.xing with
    | some x => s.abortXing x.entry E.noJob
    | none => s
  let s := s.updThread tid fun c => { c with status := .faulted, pc := pc }
  let s := s.updCore k fun c => c.leaveSets berth
  s.jobFault pos code { job := pos, core := k, berth := berth, tid := tid, pc := pc.toNat }

/-- A lane fault (R179, R550). -/
def State.laneFault (s : State) (core head : Nat) (code : Code) : State :=
  let pos := s.posOf core
  (s.setInput (16 + core) true).jobFault pos code { job := pos, core := core, berth := 0xFFFF, tid := 0xFFFFFFFF, pc := head }

/-- An engine fault (R180, R550). Errors of firmware-issued descriptors never fault a job (R248). -/
def State.engineFault (s : State) (d : Desc) (code : Code) : State :=
  match d.issuer with
  | .firmware => s
  | _ => (s.setInput (80 + d.core) true).jobFault d.pos code
      { job := d.pos, core := d.core, berth := 0xFFFE, opcode := fld d.raw 0 2, group := fld d.raw 2 1 }

/-! ### FAULTED (R585 to R591) -/

/-- The body of R588's EV_FAULT. -/
def fatalBody (core : Nat) (laws : BitVec 11) (loc : Nat) : List Byte :=
  evBody [(24, 1, 0xFF), (26, 2, core), (28, 16, 2 ^ 128 - 1), (44, 4, laws.toNat), (48, 4, loc)]

/-- A position leaves for NONE when the device enters FAULTED (R587 step 5). -/
def State.dropJob (s : State) (pos : Nat) (code : Code) : State :=
  let j := s.job pos
  let s := match j.st with
    | .none => s
    | .running => s.evDoneJob pos .faulted code 0xFFFFFFFF
    | .loaded => s.evDoneJob pos .unloaded code 0xFFFFFFFF
    | .ending => s.evDoneJob pos j.reason j.code 0xFFFFFFFF
  s.updJob pos fun j => { Job.absent with owner := j.owner, grants := j.grants }

/-- Running capsules when the device enters FAULTED (R587, R591): a JOB_STOP has seen its EV_DONE (job), an image stage goes on,
every other is answered E_FAULTED. -/
def State.faultCapsules (s : State) : State :=
  [0, 1].foldl (fun s p => match (s.port p).running with
    | none => s
    | some r =>
      if r.opcode = Cap.jobStop then s.answer p E.ok []
      else if r.opcode = Cap.imageStage ∨ r.opcode = Cap.attest then s
      else s.answer p E.faulted []) s

/-- A window closes as by AZ_WIN_CLOSE (R438, R444). -/
def Win.close (w : Win) : Win := if w.isOpen then { w with isOpen := false, adv := w.adv + 1 } else w

/-- Links go down and nothing of the fabric goes on; peers find out (R421, R543, R587). -/
def Az.linksDown (a : Az) : Az :=
  { a with started := false, links := [], reads := [], rings := [], forms := [], wins := a.wins.map fun w => (w.1, w.2.close)
           peers := a.peers.map fun p => (p.1, { p.2 with vcs := [], links := 0 }) }

/-- Records a fatal detection in the snapshot (R589, R590). -/
def State.snapDetect (s : State) (code : Code) (laws : BitVec 11) (loc : Nat) : State :=
  let n := s.snap
  let n := if n.valid then { n with count := Nat.min 255 (n.count + 1), laws := n.laws ||| laws }
    else { n with valid := true, count := 1, code := code, laws := laws, locator := loc, time := s.aoc }
  { s with snap := n }

/-- A mooring ends ABANDONED (R363): the catalogue is unchanged and the owner gets EV_FAULT; the state is then IDLE. -/
def State.abandon (s : State) (code : Code) : State :=
  let e := s.mkEvent 4 0 code { job := 0 : FaultEv }.body
  let s := match s.moor.owner with
    | some o => s.post o e
    | none => s
  let s := s.updJob 0 fun j => { j with epochs := j.epochs.map fun e => { e with moorHold := false } }
  let s : State := if (s.job 0).st == .none then
      s.updMs fun m => { m with frames := m.frames.filter fun f => f.use != .version 0 }
    else s
  { s with moor := { Moor.closed with gen := s.moor.gen, lastPoint := s.moor.lastPoint } }

/-- Power-down, a power loss and FAULTED abandon a mooring in STAGING or WRITING (R543, R587, R598). -/
def State.abandonMoor (s : State) (code : Code) : State :=
  if s.moor.st = .staging ∨ s.moor.st = .writing then s.abandon code else s

/-- Entry into FAULTED on a lost law or another fatal cause (R585 to R588): the source fires, issue and engines stop,
crossings abort, the snapshot is written, EV_FAULT goes to both ports, every job leaves, links go down, cores go to
DEEP. A detection in FAULTED updates the snapshot and reports each law newly lost once (R590). Log 90: DESIGN CHOICE, safe. -/
def State.enterFaulted (s : State) (source : Nat) (code : Code) (laws : BitVec 11) (loc core : Nat) : State :=
  if s.dev = .off ∨ s.dev = .alwaysOn then s else
  let s := (s.fire source).snapDetect code laws loc
  let s := s.count 0x1048
  let ev (l : BitVec 11) (s : State) : State := s.postBoth (s.mkEvent 4 0 code (fatalBody core l loc))
  if s.dev = .faulted then
    let fresh := laws &&& ~~~ s.snap.lawsReported
    if fresh = 0 then s else ev fresh { s with snap := { s.snap with lawsReported := s.snap.lawsReported ||| laws } }
  else
    let s := s.abortWhere (fun x => x.st != .committing) E.noJob
    let s := s.abandonMoor code
    let s := { s with snap := { s.snap with lawsReported := laws } }
    let s := ev laws s
    let s := ((s.dropJob 0 code).dropJob 1 code).faultCapsules
    let s := s.setDev .faulted
    { s with
      az := s.az.linksDown
      cores := (List.range 64).foldl (fun t c => tupd Core.reset c (fun k =>
        { Core.reset with pllFailed := k.pllFailed }) t) s.cores
      engines := s.engines.map fun e => { e with queue := [], running := none, partner := none }
      spans := [Span.reset, Span.reset]
      ms := { s.ms with stores := [], faultIns := [], writeBacks := [], frames := []
                        flash := { s.ms.flash with powered := false } }
      restore := Restore.closed }

/-- A conservation law can no longer be vouched for (R585): privileged source 8. Log 83: DEDUCED, unsafe. -/
def State.lostLaw (s : State) (law loc core : Nat) : State :=
  s.enterFaulted 8 E.uncorrectable (1#11 <<< law) loc core

/-! ### Counters (R159 to R162) and slot bindings (R352) -/

/-- A PC that advances past the code region faults the thread (R154); otherwise PC rises by 1 (R189). -/
def State.advance (s : State) (tid : Nat) : State :=
  match s.thread tid with
  | none => s
  | some c =>
    if s.codeWords (s.posOf (coreOfTid tid)) ≤ c.pc.toNat + 1 then s.threadFault tid c.pc E.argRange
    else s.updThread tid fun c => { c with pc := c.pc + 1 }

/-- Thread ids of a position whose context satisfies a test, in the order of cores, berths, then swap records. -/
def State.threadsWhere (s : State) (pos : Nat) (p : Ctx → Bool) : List Nat :=
  (s.coresOf pos).flatMap (fun k => (s.core k).berths.filterMap fun b => match b.2 with
    | .resident x => if p x then some x.tid else none
    | .swappingOut x => if p x then some x.tid else none
    | _ => none) ++
  (s.job pos).swap.filterMap fun r => if r.2.valid then (r.2.ctx.bind fun x => if p x then some x.tid else none) else none

/-- Every WAIT whose threshold the counter has reached completes (R162, R163). -/
def State.wakeCounter (s : State) (pos id : Nat) : State :=
  let v := (s.ctr pos id).toNat
  (s.threadsWhere pos fun c => c.status == .blockedCounter && c.wait.counter == id && decide (c.wait.threshold ≤ v)).foldl
    (fun s tid => (s.wake tid (fun c => c)).advance tid) s

/-- A SPAN_MM of the slot accepted before `serial` and not completed (R352). -/
def State.slotBusy (s : State) (pos slot serial : Nat) : Bool :=
  (s.engine 1 pos).queue.any fun d => fld d.raw 19 1 == slot && decide (d.serial < serial)

/-- Sets or clears a slot's bit in the entry of an epoch (R350). -/
def Job.markSlot (j : Job) (slot epoch : Nat) (b : Bool) : Job :=
  { j with epochs := j.epochs.map fun e =>
      if e.st != .free && e.epoch == epoch then
        { e with slots := if b then e.slots ||| (1#16 <<< slot) else e.slots &&& ~~~(1#16 <<< slot) } else e }

/-- Releases whose earlier SPAN_MMs have all completed clear their bit, unless the slot is bound to that epoch again
(R352). -/
def State.settleReleases (s : State) (pos : Nat) : State :=
  (s.job pos).releases.foldl (fun s r =>
    if s.slotBusy pos r.1 r.2.2 then s else s.updJob pos fun j =>
      let j := { j with releases := j.releases.filter (fun q => q != r) }
      if tget 0 r.1 j.bound = r.2.1 + 1 then j else j.markSlot r.1 r.2.1 false) s

/-- A SLOT_CTR became odd: the slot is bound to the current epoch. It became even: the slot is released, and its bit
clears once the slot's earlier SPAN_MMs have completed (R352). -/
def State.bindSlot (s : State) (pos slot : Nat) (odd : Bool) : State :=
  if odd then s.updJob pos fun j => match j.epoch .current with
    | none => j
    | some e => ({ j with bound := tset 0 slot (e.epoch + 1) j.bound }).markSlot slot e.epoch true
  else (s.updJob pos fun j =>
      let e := tget 0 slot j.bound
      if e = 0 then j else
        { j with bound := tset 0 slot 0 j.bound, releases := j.releases ++ [(slot, e - 1, s.ms.serial)] }).settleReleases pos

/-- The slots that a counter binds (R347). -/
def State.slotsOf (s : State) (pos id : Nat) : List Nat :=
  match (s.job pos).man.epochs with
  | none => []
  | some e => (List.range 16).filter fun i => e.slotCtr.getD i 0xFFFF == id

/-- Adds to a counter at its home (R160, R161). A carry leaves it unchanged and answers false. -/
def State.addCtr (s : State) (pos id : Nat) (amt : Nat) : Bool × State :=
  let v := (s.ctr pos id).toNat
  if 2 ^ 32 ≤ v + amt then (false, s)
  else if amt = 0 then (true, s)
  else
    let s := s.updJob pos fun j => { j with counters := tset 0 id (BitVec.ofNat 32 (v + amt)) j.counters }
    let s := if amt % 2 = 1 then
        (s.slotsOf pos id).foldl (fun s i => s.bindSlot pos i ((v + amt) % 2 == 1)) s
      else s
    (true, s.wakeCounter pos id)

/-- A descriptor's DONE_CTR advances by 1 (R83); a carry faults the job (R160), but not for firmware's descriptors (R248). -/
def State.doneCtr (s : State) (d : Desc) : State :=
  let id := fld d.raw 6 2
  if id = 0xFFFF then s else
  match d.issuer with
  | .firmware => if (s.job d.pos).st = .none then s else (s.addCtr d.pos id 1).2
  | _ =>
    match s.addCtr d.pos id 1 with
    | (true, s) => s
    | (false, s) => s.engineFault d E.argRange

/-- A device-made addition of 1 to a job counter (FILL_CTR, ACK_CTR, COMMIT_CTR). -/
def State.bumpCtr (s : State) (pos id : Nat) : State :=
  match s.addCtr pos id 1 with
  | (true, s) => s
  | (false, s) => s.jobFault pos E.argRange { job := pos }

end Sys2Proof.Machine
end

