-- ==== Sys2Proof/Machine/SpanDesc.lean ====
section
/-! DEFINITION. The fields of a descriptor: the header of every engine (R82, R83) and SPAN_MM (R84, R86), the bytes of a Span
operation's operands, and the guard that notes a write to them (R94). -/

namespace Sys2Proof.Machine

/-! ### The header (R82) -/

def Desc.opcode (d : Desc) : Nat := fld d.raw 0 2
def Desc.cls (d : Desc) : Nat := fld d.raw 1 1
def Desc.group (d : Desc) : Nat := fld d.raw 2 1
def Desc.depEn (d : Desc) : Bool := fld d.raw 3 1 % 2 == 1
def Desc.depCtr (d : Desc) : Nat := fld d.raw 4 2
def Desc.depValue (d : Desc) : Nat := fld d.raw 8 4

/-- HFLAGS.HOLD (R82). -/
def Desc.hold (d : Desc) : Bool := bits (fld d.raw 3 1) 1 1 == 1

/-- The descriptor is ready (R83). -/
def State.descReady (s : State) (d : Desc) : Bool :=
  !d.depEn || decide (d.depValue ≤ (s.ctr d.pos d.depCtr).toNat)

/-! ### The descriptor (R84, R86) -/

def Desc.aFmt (d : Desc) : Nat := fld d.raw 16 1 % 16
def Desc.sFmt (d : Desc) : Nat := fld d.raw 16 1 / 16
def Desc.oFmt (d : Desc) : Nat := fld d.raw 17 1 % 16
def Desc.oRnd (d : Desc) : Nat := bits (fld d.raw 17 1) 4 2
def Desc.mode (d : Desc) : Nat := fld d.raw 18 1
def Desc.geom (d : Desc) : Nat := d.mode % 4
def Desc.trans (d : Desc) : Bool := bits d.mode 2 1 == 1
def Desc.maskRows (d : Desc) : Bool := bits d.mode 3 1 == 1
def Desc.pair (d : Desc) : Bool := bits d.mode 4 1 == 1
def Desc.reuse (d : Desc) : Bool := bits d.mode 5 1 == 1
def Desc.tieLast (d : Desc) : Bool := bits d.mode 6 1 == 1
def Desc.slot (d : Desc) : Nat := fld d.raw 19 1
def Desc.m (d : Desc) : Nat := fld d.raw 20 4
def Desc.n (d : Desc) : Nat := fld d.raw 24 4
def Desc.k (d : Desc) : Nat := fld d.raw 28 4
def Desc.aAddr (d : Desc) : Nat := fld d.raw 32 8
def Desc.sAddr (d : Desc) : Nat := fld d.raw 40 8
def Desc.cAddr (d : Desc) : Nat := fld d.raw 48 8
def Desc.aLd (d : Desc) : Nat := if fld d.aux 0 4 = 0 then d.k else fld d.aux 0 4
def Desc.sRows (d : Desc) : Nat := if d.trans then d.n else d.k
def Desc.sCols (d : Desc) : Nat := if d.trans then d.k else d.n
def Desc.sLd (d : Desc) : Nat := if fld d.aux 4 4 = 0 then d.sCols else fld d.aux 4 4
def Desc.cLd (d : Desc) : Nat := if fld d.aux 8 4 = 0 then d.n else fld d.aux 8 4
def Desc.tieId (d : Desc) : Nat := fld d.aux 12 4
def Desc.aScale (d : Desc) : Nat := fld d.aux 16 8
def Desc.sScale (d : Desc) : Nat := fld d.aux 24 8
def Desc.cMask (d : Desc) : Nat := fld d.aux 32 8
def Desc.spanStatus (d : Desc) : Nat := fld d.aux 40 8
def Desc.oF (d : Desc) : Fmt := (fmtOf d.oFmt).getD fp32
def Desc.oMode (d : Desc) : Rnd := (rndOf d.oRnd).getD .rne

/-! ### The bytes of the operands -/

/-- Address `a` holds a byte of an element of a stored array of `rows` rows of `cols` elements (R44, R85). -/
def inElems (code base ld rows cols a : Nat) : Bool :=
  let p := if code = 5 then 2 * (a - base) else (a - base) / ((fmtOf code).getD fp32).bytes
  decide (base ≤ a) && decide (p % Nat.max 1 ld < cols) && decide (p / Nat.max 1 ld < rows)

/-- Address `a` holds a block scale of a stored FP4 array (R44). -/
def inScales (code base ld rows cols a : Nat) : Bool :=
  let p := 32 * (a - base)
  code == 5 && decide (base ≤ a) && decide (p % Nat.max 1 ld < cols) && decide (p / Nat.max 1 ld < rows)

/-- Address `a` holds a byte of A, S, a scale array or the mask (R94). -/
def Desc.operandByte (d : Desc) (a : Nat) : Bool :=
  inElems d.aFmt d.aAddr d.aLd d.m d.k a || inScales d.aFmt d.aScale d.aLd d.m d.k a ||
  inElems d.sFmt d.sAddr d.sLd d.sRows d.sCols a || inScales d.sFmt d.sScale d.sLd d.sRows d.sCols a ||
  (d.cMask != 0 && within a 1 d.cMask (ceilDiv (if d.maskRows then d.m else d.n) 8))

/-- Address `a` may not be written now (R94): the auxiliary record from acceptance on, the other operands from the moment the
operation is ready, since a dependence mark orders the writes before it (R130; log 99, DEDUCED, unsafe). -/
def State.guarded (s : State) (d : Desc) (a : Nat) : Bool :=
  (fld d.raw 56 8 != 0 && within a 1 (fld d.raw 56 8) 64) || (s.descReady d && d.operandByte a)

/-- A write of `n` bytes at `pa` breaks R94 for the Span operations whose operands it reaches: the bytes they held are kept, so that
the status word can be the one without the write. -/
def State.spanGuard (s : State) (pa n : Nat) : State :=
  if !isScratch pa || ((s.engine 1 0).queue.isEmpty && (s.engine 1 1).queue.isEmpty) then s
  else
    let note (d : Desc) : Desc :=
      let hit := ((List.range n).map fun i => pa + i).filter fun a => s.guarded d a && !d.operands.any fun c => c.1 == a
      { d with operands := d.operands ++ hit.map fun a => (a, rd8 s.ms.mem a) }
    [0, 1].foldl (fun s p => s.updEngine 1 p fun e => { e with queue := e.queue.map note }) s

end Sys2Proof.Machine
end

