-- ==== Sys2Proof/Machine/PageTable.lean ====
section
/-! DEFINITION. Page tables in DRAM, their replicas, and the translations that a core holds (R319, R321 to R325). The mapping of a job is
held once, in `Job.pages`; the tables spell it in both replicas. -/

namespace Sys2Proof.Machine

/-! ### Tables (R321, R323) -/

/-- Low bit of the index field of a level, and its index bits (R321). -/
def levelLow (level : Nat) : Nat := match level with
  | 0 => 42 | 1 => 32 | 2 => 21 | _ => 16
def levelBits (level : Nat) : Nat := match level with
  | 0 => 10 | 1 => 10 | 2 => 11 | _ => 5
/-- Bytes of a table, and its alignment. -/
def levelSize (level : Nat) : Nat := 16 * 2 ^ levelBits level
/-- The part of a job address above the index field: which table of its level holds the entry. -/
def levelPre (level va : Nat) : Nat := va / 2 ^ (levelLow level + levelBits level)

/-- The table of a level that an address walks through, on a stack. -/
def Job.table (j : Job) (stack level va : Nat) : Option PTab :=
  j.tables.find? fun t => t.stack == stack && t.level == level && t.pre == levelPre level va

/-- The address of the entry of a level for a job address, in the replica of a stack. -/
def Job.entryAt (j : Job) (stack level va : Nat) : Option Nat :=
  (j.table stack level va).map fun t => t.base + 16 * bits va (levelLow level) (levelBits level)

/-- The level whose entry maps a page (R321). -/
def leafLevel (large : Bool) : Nat := if large then 2 else 3

/-- The entry that maps a page, in the replica of a stack. -/
def Job.leafAt (j : Job) (stack page : Nat) (large : Bool) : Option Nat := j.entryAt stack (leafLevel large) (page * 0x10000)

/-- The page whose entry stands at a physical address (R283). -/
def Job.pageAt (j : Job) (a : Nat) : Option (Nat × Pte) :=
  j.pages.find? fun e => [0, 1].any fun k => j.leafAt k e.1 e.2.large == some a

/-! ### Entries (R322, R323) -/

/-- The 16 bytes of an entry that maps a page. -/
def Pte.bytes (e : Pte) : List Byte :=
  leBytes 8 (2 ^ 63 + (if e.flash then 2 else 1) * 2 ^ 61 + (if e.writable then 2 ^ 60 else 0) + (if e.resident then 2 ^ 59 else 0) +
    (if e.pin then 2 ^ 58 else 0) + (if e.protect then 2 ^ 57 else 0) + e.frame / 0x10000 * 2 ^ 16 + e.dirty.toNat) ++
  leBytes 8 (if e.flash then e.flashPage else 0)

/-- The 16 bytes of a TABLE entry. -/
def tableEntry (next : Nat) : List Byte := leBytes 8 (2 ^ 63 + 3 * 2 ^ 61) ++ leBytes 8 next

/-- An entry of the tables is written where it stands; a table that does not exist has none. -/
def State.putEntry (s : State) (a : Option Nat) (bs : List Byte) : State := match a with
  | none => s
  | some a => { s with ms := { s.ms with mem := wrBytes s.ms.mem a bs } }

/-- A page's entry in both replicas. -/
def State.putLeaf (s : State) (pos : Nat) (x : Nat × Pte) : State :=
  [0, 1].foldl (fun s k => s.putEntry ((s.job pos).leafAt k x.1 x.2.large) x.2.bytes) s

/-- The tables of a loaded job, in both replicas (R324): a TABLE entry for each table below the root, and the entries of its pages. -/
def State.putTables (s : State) (pos : Nat) : State :=
  let j := s.job pos
  let s := (j.tables.filter fun t => t.level != 0).foldl (fun s t =>
    s.putEntry (j.entryAt t.stack (t.level - 1) (t.pre * 2 ^ (levelLow t.level + levelBits t.level))) (tableEntry t.base)) s
  j.pages.foldl (fun s e => s.putLeaf pos e) s

/-- No core of a position holds the translation of a page any more (R297, R325). -/
def Core.dropTlb (k : Core) (page : Nat) : Core :=
  { k with tlb := k.tlb.filter (fun p => p != page), tlbLarge := k.tlbLarge.filter fun p => p != page }

/-- Changes a page's entry: both replicas, and the TLB set of the page (R324, R325). -/
def State.setPte (s : State) (pos page : Nat) (f : Pte → Pte) : State :=
  let s := s.updJob pos fun j => { j with pages := updWhere (fun e => e.1 == page) (fun e => (e.1, f e.2)) j.pages }
  let s := ((s.job pos).pages.filter fun e => e.1 == page).foldl (fun s e => s.putLeaf pos e) s
  (s.coresOf pos).foldl (fun s c => s.updCore c fun k => k.dropTlb page) s

/-! ### Walks (R319, R324, R325) -/

/-- Entries of a core's TLB and walk cache (R325). -/
def tlbSets : Nat := 128
def tlbWays : Nat := 8
def tlbLargeSize : Nat := 64
def walkCacheSize : Nat := 32

/-- A translation enters the TLB: of a full set, the one that entered first leaves (log 94, DESIGN CHOICE, safe). -/
def Core.fillTlb (k : Core) (page : Nat) (large : Bool) : Core :=
  if large then { k with tlbLarge := page :: k.tlbLarge.take (tlbLargeSize - 1) }
  else
    let set := k.tlb.filter fun p => p % tlbSets == page % tlbSets
    let out := set.drop (tlbWays - 1)
    { k with tlb := page :: k.tlb.filter fun p => !out.contains p }

/-- Upper levels of a walk enter the walk cache. -/
def Core.fillWalk (k : Core) (es : List (Nat × Nat)) : Core :=
  { k with walks := (es ++ k.walks.filter fun e => !es.contains e).take walkCacheSize }

/-- The entries that a walk of the replica on a stack reads: level, part of the address that names the entry, physical address. -/
def Job.walkOf (j : Job) (stack va : Nat) (large : Bool) : List (Nat × Nat × Nat) :=
  (List.range (leafLevel large + 1)).filterMap fun l => (j.entryAt stack l va).map fun a => (l, va / 2 ^ levelLow l, a)

/-- A thread's core translates a job address: the TLB, or a walk of the replica on the core's shore, whose upper levels the walk cache may
hold. A poisoned granule of it makes the walker read the other replica, and firmware rewrites it. Answers false when both are poisoned.
Scratchpad and slot views need no entry here (R314, R351). -/
def State.tlbWalk (s : State) (core va : Nat) : Bool × State :=
  let pos := s.posOf core
  let j := s.job pos
  match if isScratch va then none else j.pages.find? fun e => e.1 == va / 0x10000 || (e.2.large && e.1 == va / 0x200000 * 32) with
  | none => (true, s)
  | some (page, e) =>
    let k := s.core core
    if k.tlb.contains page || k.tlbLarge.contains page then (true, s)
    else
      let reads (stack : Nat) := (j.walkOf stack va e.large).filter fun x => x.1 = 3 || !k.walks.contains (x.1, x.2.1)
      let bad (stack : Nat) := (reads stack).filter fun x => s.ms.dramBad.contains (x.2.2 / 64)
      let own := shoreOf core
      if !(bad own).isEmpty && !(bad (1 - own)).isEmpty then (false, s)
      else
        let s := s.updMs fun m => { m with dramBad := m.dramBad.filter fun g => !(bad own).any fun x => x.2.2 / 64 == g }
        let upper := ((reads own).filter fun x => x.1 != 3).map fun x => (x.1, x.2.1)
        (true, s.updCore core fun k =>
          let k := k.fillWalk upper
          if e.flash && !e.resident then k else k.fillTlb page e.large)

end Sys2Proof.Machine
end

