-- ==== Sys2Proof/Machine/Crossing.lean ====
section
/-! DEFINITION. What every crossing shares: its entry of the table, its read and write sets, the accesses that it meets, validation, and
commit (R287 to R301). Poison, which validation looks for, stands here too (R236, R319). -/

namespace Sys2Proof.Machine

/-! ### Poison -/

/-- A byte range holds an uncorrectable scratchpad word, DRAM granule or flash unit (R236, R319, R330). -/
def MemSys.poisoned (m : MemSys) (pa n : Nat) : Bool :=
  if isScratch pa then m.spBad.any fun w => meet (spBase + 4 * w) 4 pa n
  else if pa < dramEnd then m.dramBad.any fun g => meet (64 * g) 64 pa n
  else m.flashBad.any fun u => meet (flashBase + 0x4000 * u) 0x4000 pa n

/-- A write clears the poison of the words and granules it covers whole (R236, R319). -/
def MemSys.cleared (m : MemSys) (pa n : Nat) : MemSys :=
  { m with spBad := m.spBad.filter (fun w => !within (spBase + 4 * w) 4 pa n)
           dramBad := m.dramBad.filter (fun g => !within (64 * g) 64 pa n)
           flashBad := m.flashBad.filter (fun u => !within (flashBase + 0x4000 * u) 0x4000 pa n) }

/-! ### The table (R292, R294) -/

/-- Firmware runs: the switched rails are on (R541). -/
def State.fwUp (s : State) : Bool := s.dev == .idle || s.dev == .active || s.dev == .faulted

/-- Puts an entry into the crossing table (R292). -/
def State.openXing (s : State) (k : Nat) (x : XEntry) : State :=
  { s with xings := (s.xings.filter fun e => e.1 < k) ++ (k, x) :: (s.xings.filter fun e => k < e.1) }

/-- The lowest free firmware entry of a control core other than 1 and 5, whose entries serve capsule groups (R292; which core
runs a firmware crossing is log 47, DESIGN CHOICE, safe). -/
def State.freeFwEntry (s : State) : Option Nat :=
  ([6, 7, 22, 23, 30, 31, 38, 39, 54, 55, 62, 63] : List Nat).find? fun k => !s.xings.any fun e => e.1 == k

/-- The free entry for a capsule group of a port (R292). -/
def State.freeGroupEntry (s : State) (port : Nat) : Option Nat :=
  (if port = 0 then [14, 15] else [46, 47] : List Nat).find? fun k => !s.xings.any fun e => e.1 == k

def State.xing (s : State) (k : Nat) : Option XEntry := (s.xings.find? fun e => e.1 == k).map Prod.snd
def State.dropXing (s : State) (k : Nat) : State := { s with xings := s.xings.filter fun e => e.1 != k }
def State.updXing (s : State) (k : Nat) (f : XEntry → XEntry) : State :=
  { s with xings := updWhere (fun e => e.1 == k) (fun e => (e.1, f e.2)) s.xings }

/-- A crossing opened now (R294). -/
def State.newXing (s : State) (op : XOpener) (pos : Nat) (reads wset : List XEnt) (acts : Nat) : XEntry :=
  { opener := op, pos := pos, st := .opened, reads := reads, wset := wset, writes := [], acts := acts, openedAt := s.aoc
    attempt := 1, exclusive := false, timeout := s.xingTimeout }

/-- A crossing finds no free entry: it aborts at once (R292). -/
def State.xingFull (s : State) : State := s.count (abortCounter E.xingFull)

/-- The crossing has not begun to commit within its timeout (R293). -/
def State.timedOut (s : State) (x : XEntry) : Bool := x.st != .committing && decide (x.openedAt + x.timeout ≤ s.aoc)

/-! ### Crossings that meet an access (R296, R298, R299) -/

/-- The granules of a byte range (R287). -/
def granules (pa n : Nat) : List Nat :=
  if n = 0 then [] else (List.range ((pa + n - 1) / 64 - pa / 64 + 1)).map fun i => pa / 64 + i

/-- An entry's write set or read set holds one of these entries. -/
def XEntry.hits (x : XEntry) (es : List XEnt) : Bool :=
  es.any fun e => x.wset.contains e || x.reads.contains e

/-- The entry is a granule of this byte range. -/
def XEnt.inRange (pa n : Nat) : XEnt → Bool
  | .granule g => decide (0 < n) && meet (64 * g) 64 pa n
  | _ => false

/-- An entry's write set or read set holds a granule of this byte range. -/
def XEntry.hitsRange (x : XEntry) (pa n : Nat) : Bool := (x.wset ++ x.reads).any fun e => e.inRange pa n

/-- The crossing holds its entries at their homes: it is exclusive, or COMMITTING (R296, R299). -/
def XEntry.holds (x : XEntry) : Bool := x.exclusive || x.st == .committing

/-- A crossing holds one of these entries at its home. -/
def State.heldByXing (s : State) (es : List XEnt) : Bool := s.xings.any fun e => e.2.holds && e.2.hits es

/-- A crossing holds a granule of this byte range at its home: a write of it waits. -/
def State.rangeHeld (s : State) (pa n : Nat) : Bool := s.xings.any fun e => e.2.holds && e.2.hitsRange pa n

/-- An exclusive crossing holds a granule of this byte range: a store or engine write that waits for it is outstanding (R181, R299). -/
def State.rangeExclusive (s : State) (pa n : Nat) : Bool := s.xings.any fun e => e.2.exclusive && e.2.hitsRange pa n

/-- A crossing holds the entry of a flash page, whose DIRTY bits a write would set (R296, R335). -/
def State.pageHeld (s : State) (pos : Nat) (page : Option (Nat × Pte)) : Bool := match page with
  | some (k, e) => e.flash && s.heldByXing [.pte pos k]
  | none => false

/-- A COMMITTING crossing is to write a granule of this byte range: a read of it waits (R296). -/
def State.rangeLanding (s : State) (pa n : Nat) : Bool :=
  s.xings.any fun e => e.2.st == .committing && e.2.wset.any fun x => x.inRange pa n

/-- A write from outside any crossing aborts every OPEN or WAITING crossing whose read or write set it reaches
(R298). -/
def State.conflict (s : State) (es : List XEnt) : State :=
  s.abortWhere (fun x => !x.holds && x.hits es) E.xingConflict

/-- A write of this byte range from outside any crossing (R298). -/
def State.conflictRange (s : State) (pa n : Nat) : State :=
  s.abortWhere (fun x => !x.holds && x.hitsRange pa n) E.xingConflict

/-! ### Validation and commit (R296, R298, R301) -/

/-- Validation finds an uncorrectable error in an entry: a granule, or a page-table granule that neither replica delivers (R301, R319). -/
def State.entBad (s : State) : XEnt → Bool
  | .granule g => s.ms.poisoned (64 * g) 64
  | .pte pos page =>
    let j := s.job pos
    [0, 1].all fun k => ([j.leafAt k page false, j.leafAt k page true].filterMap fun a => a).any fun a => s.ms.dramBad.contains (a / 64)
  | _ => false

/-- A crossing that has passed validation first: every other whose sets it meets aborts (R298). -/
def State.beats (s : State) (reads wset : List XEnt) : State :=
  s.abortWhere (fun y => y.st != .committing && (y.hits wset || y.wset.any fun e => reads.contains e)) E.xingConflict

/-- A crossing of firmware or a mooring engine that opens, is validated and commits in one step: its sets, what validation or commit finds
wrong, and the law of its counts (R301, R585). -/
structure Cross where
  reads : List XEnt
  wset : List XEnt
  err : XErr
  laws : BitVec 11
  loc : Nat

/-- Runs such a crossing: with no free entry, or an error in validation, it aborts with its code and `fail` follows; it waits while another
crossing holds one of its entries; an error in its own writes leaves it half landed; otherwise it lands (R292, R296, R298, R301). -/
def State.cross (s : State) (x : Cross) (fail : Code → State → State) (land : State → State) : State :=
  if s.freeFwEntry.isNone then fail E.xingFull s.xingFull
  else if s.heldByXing (x.reads ++ x.wset) then s
  else if x.err = .validation || (x.reads ++ x.wset).any s.entBad then fail E.uncorrectable s
  else if x.err = .commit then s.enterFaulted 8 E.uncorrectable x.laws x.loc 0xFFFF
  else land ((s.beats x.reads x.wset).count 0x1040)

/-- A crossing of page tables: RESIDENCY or PTE_UPDATE of one page (R288). -/
def pageCross (pos page : Nat) (more : List XEnt) : Cross :=
  { reads := [.pte pos page], wset := [.pte pos page, .tlb pos page] ++ more, err := .none, laws := 0, loc := 0xFFFFFFFF }

/-- Commit ends: the entry is free and every crossing that meets its entries has aborted (R296, R298). -/
def State.landXing (s : State) (k : Nat) (x : XEntry) : State := ((s.dropXing k).beats x.reads x.wset).count 0x1040

end Sys2Proof.Machine
end

