-- ==== Sys2Proof/Machine/MemOps.lean ====
section
/-! DEFINITION. Operations on memory: translation and slot views (R314, R321 to R324, R351, R354), poison (R236, R319),
first-write holds (R355), and writes at their homes. -/

namespace Sys2Proof.Machine

/-! ### The mooring set and the version frames -/

/-- Page size in bytes. -/
def pageSize (large : Bool) : Nat := if large then 0x200000 else 0x10000

/-- The region that holds a job address. -/
def Manifest.region (m : Manifest) (va : Nat) : Option Region :=
  m.regions.find? fun r => within va 1 r.va r.length

/-- The pages that one range touches, in ascending address: (job page number, large). -/
def Manifest.rangePages (m : Manifest) (r : Nat × Nat) : List (Nat × Bool) :=
  let large := match m.region r.1 with
    | some g => g.large
    | none => false
  let n := pageSize large
  (List.range (ceilDiv (r.1 % n + r.2) n)).map fun i => ((r.1 / n + i) * n / 0x10000, large)

/-- The mooring set in mooring order (R348, R366): (job page, large, versioned). -/
def Manifest.moorSet (m : Manifest) : List (Nat × Bool × Bool) :=
  (m.versioned.flatMap m.rangePages).map (fun p => (p.1, p.2, true)) ++
  (m.moored.flatMap m.rangePages).map (fun p => (p.1, p.2, false))

/-- The stack that holds a job page (R315). -/
def Manifest.stackOfPage (m : Manifest) (page : Nat) : Nat :=
  match m.region (page * 0x10000) with
  | some g => g.stack
  | none => 0

/-- Offset of a versioned page's two frames in its stack's version area (R348). -/
def Manifest.verOffset (m : Manifest) (page : Nat) : Nat :=
  let st := m.stackOfPage page
  ((m.versioned.flatMap m.rangePages).takeWhile fun p => p.1 != page).foldl
    (fun n p => if m.stackOfPage p.1 = st then n + 2 * pageSize p.2 else n) 0

/-- The position of a page in a list of the mooring set. -/
def moorIndex (page : Nat) : Nat → List (Nat × Bool × Bool) → Option (Nat × Bool × Bool)
  | _, [] => none
  | i, p :: r => if p.1 = page then some (i, p.2) else moorIndex page (i + 1) r

/-- Frame j of a versioned page (R348). -/
def Job.verFrame (j : Job) (page : Nat) (large : Bool) (f : Nat) : Nat :=
  j.verBase.getD (j.man.stackOfPage page) 0 + j.man.verOffset page + f * pageSize large

/-- The current epoch E (R349). -/
def Job.current (j : Job) : Nat := match j.epoch .current with
  | some e => e.epoch
  | none => 0

/-- The oldest live epoch (R349): E - 1 while it holds references. -/
def Job.oldestLive (j : Job) : Nat :=
  match j.epoch .previous with
  | some e => if e.slots = 0 ∧ !e.moorHold then j.current else e.epoch
  | none => j.current

/-! ### Translation -/

/-- The page-table entry of a job address with its key (R321): a 64 KiB page, or the 2 MiB page around it. -/
def Job.pte (j : Job) (va : Nat) : Option (Nat × Pte) :=
  let k := va / 0x10000
  match j.pages.find? fun e => e.1 == k with
  | some e => some e
  | none => match j.pages.find? fun e => e.1 == k / 32 * 32 with
    | some e => if e.2.large then some e else none
    | none => none

/-- Where a job address leads: a physical address (with the page, for DRAM), a flash page that is not resident, or
nowhere the accessor may reach (R196). -/
inductive Xl where
  | phys (pa : Nat) (page : Option (Nat × Pte))
  | absent (page : Nat) (e : Pte)
  | bad
deriving DecidableEq, Repr

/-- VSPAN (R347): the versioned LENGTHs rounded up to 2 MiB. -/
def Manifest.vspan (m : Manifest) : Nat := roundUp (m.versioned.foldl (fun n r => n + r.2) 0) 0x200000

/-- The job address of byte x of the concatenated versioned ranges (R351). -/
def verAddr : List (Nat × Nat) → Nat → Option Nat
  | [], _ => none
  | (va, n) :: r, x => if x < n then some (va + x) else verAddr r (x - n)

/-- The slot and byte of a view address (R347). -/
def Manifest.viewOf (m : Manifest) (va : Nat) : Option (Nat × Nat) :=
  match m.epochs with
  | none => none
  | some e =>
    if m.vspan = 0 then none
    else if within va 1 e.viewVa (16 * m.vspan) then some ((va - e.viewVa) / m.vspan, (va - e.viewVa) % m.vspan)
    else none

/-- The physical address of a view byte (R351, R354). -/
def Job.viewAddr (j : Job) (slot x : Nat) : Xl :=
  let b := tget 0 slot j.bound
  if b = 0 then .bad else
  match verAddr j.man.versioned x with
  | none => .bad
  | some va => match j.pte va with
    | none => .bad
    | some (k, e) =>
      let p := tget Prot.reset k j.prot
      let off := va - k * 0x10000
      let ep := b - 1
      if p.holds 0 ep then .phys (j.verFrame k e.large 0 + off) none
      else if p.holds 1 ep then .phys (j.verFrame k e.large 1 + off) none
      else .phys (e.frame + off) none

/-- Translation of a job address for a read or a write (R196, R314, R351). Log 94: DESIGN CHOICE, safe. -/
def State.xlate (s : State) (pos va : Nat) (write : Bool) : Xl :=
  let j := s.job pos
  if isScratch va then (if s.posOf (spCore va) = pos then .phys va none else .bad)
  else if 2 ^ 52 ≤ va then .bad
  else match j.man.viewOf va with
    | some (slot, x) => if write then .bad else j.viewAddr slot x
    | none => match j.pte va with
      | none => .bad
      | some (k, e) =>
        if write && !e.writable then .bad
        else if e.flash && !e.resident then .absent k e
        else .phys (e.frame + (va - k * 0x10000)) (some (k, e))

/-! ### Errors that reads find -/

/-- The physical row of a bank (core * 64 + bank) that answers for a ROW: 0 to 511, or 512 and a spare. The field map is applied after the
fuse map, and its newest entry counts (R239, R244). -/
def State.bankRow (s : State) (b row : Nat) : Nat :=
  match s.ms.remaps.reverse.find? fun r => r.core * 64 + r.bank == b && r.row == row with
  | some r => 512 + r.spare
  | none => match (fusedRows (b / 64) (b % 64)).idxOf? row with
    | some i => 512 + i
    | none => row

/-- The ROW that a physical row of a bank answers for, none when the row is out of use (R239). -/
def State.answers (s : State) (b phys : Nat) : Option Nat :=
  ((if phys < 512 then [phys] else []) ++ fusedRows (b / 64) (b % 64) ++ s.ms.remaps.map fun r => r.row).find? fun row => s.bankRow b row == phys

/-- Rows of a bank, spares included. -/
def bankRows : Nat := 520

/-- The physical row that answers for a scratchpad address: bank (core * 64 + bank) times 520 plus the row (R220, R239, R240). -/
def State.rowOf (s : State) (pa : Nat) : Nat :=
  let w := (pa - spBase) / 4
  let b := bits w 20 6 * 64 + bits w 0 6
  b * bankRows + s.bankRow b (bits w 11 9)

/-- A row is marked for map-out, once (R240); the tide counts it (R369). -/
def State.markRow (s : State) (row : Nat) : State :=
  if s.ms.marked.contains row then s
  else { s with ms := { s.ms with marked := s.ms.marked ++ [row] }, tide := { s.tide with rowMarks := s.aoc :: s.tide.rowMarks } }

/-- A correctable error of a row enters its tally (R240): errors of one word within 1,024 fabric cycles count as one,
and the third within 2,160,000,000,000 AOC counts of the first of three marks the row. -/
def State.tallyRow (s : State) (row word : Nat) : State :=
  let near := match s.ms.lastErr.find? fun e => e.1 == word with
    | some e => decide (s.fabric ≤ e.2 + 1024)
    | none => false
  let s := s.updMs fun m => { m with lastErr := tset 0 word s.fabric m.lastErr }
  if near then s else
  let t := (s.aoc :: tget [] row s.ms.tallies).take 3
  let s := s.updMs fun m => { m with tallies := tset [] row t m.tallies }
  if t.length = 3 ∧ s.aoc ≤ t.getD 2 0 + 2160000000000 then s.markRow row else s

/-- The outcome of reading `n` bytes at `pa` (R236, R319): an error found now is counted, and an uncorrectable one
poisons the word or granule. Answers false when no data is delivered. -/
def State.checkRead (s : State) (pa n : Nat) (ecc : Ecc) : Bool × State :=
  let s := match ecc with
    | .clean => s
    | .single =>
      if isScratch pa then
        ((s.count (0x1300 + 8 * spCore pa)).tallyRow (s.rowOf pa) ((pa - spBase) / 4)).fire 246
      else if pa < dramEnd then
        let s := (s.count (0x1050 + 8 * stackOf pa)).fire (244 + stackOf pa)
        { s with tide := { s.tide with dramErrs := s.aoc :: s.tide.dramErrs } }
      else s
    | .double =>
      if isScratch pa then
        ((s.count (0x1500 + 8 * spCore pa)).updMs fun m => { m with spBad := (pa - spBase) / 4 :: m.spBad }).markRow (s.rowOf pa)
      else if pa < dramEnd then
        (s.count (0x1060 + 8 * stackOf pa)).updMs fun m => { m with dramBad := pa / 64 :: m.dramBad }
      else s
  (!s.ms.poisoned pa n, s)

/-! ### Writes at their homes -/

/-- The write is held for a first-write copy (R355): a versioned page not yet written in this build, or another page of
the mooring set not yet copied for the open mooring. -/
def State.needsCopy (s : State) (pos : Nat) (page : Option (Nat × Pte)) : Bool :=
  match page with
  | none => false
  | some (k, e) =>
    if !e.protect then false else
    let j := s.job pos
    match moorIndex k 0 j.man.moorSet with
    | none => false
    | some (_, _, true) => (tget Prot.reset k j.prot).lastw != (j.current + 1) % 2 ^ 32
    | some (_, _, false) => s.moor.st = .staging ∧ (tget Prot.reset k j.prot).mgen ≠ s.moor.gen

/-- A write reaches a resident flash page: the sub-pages it touches become DIRTY (R335); the pool's reference bit is set
(R334). -/
def State.dirty (s : State) (pos : Nat) (page : Option (Nat × Pte)) (va n : Nat) : State :=
  match page with
  | none => s
  | some (k, e) =>
    if !e.flash then s else
    let off := va - k * 0x10000
    let sub := (List.range 16).foldl (fun (b : BitVec 16) i => if meet (0x1000 * i) 0x1000 off n then b ||| (1#16 <<< i) else b) 0
    if e.dirty ||| sub = e.dirty then s
    else
      let s := s.abortWhere (fun x => x.st != .committing && x.reads.contains (.pte pos k)) E.xingConflict
      s.setPte pos k fun q => { q with dirty := q.dirty ||| sub }

/-- Sets a pool frame's reference bit (R334). -/
def State.touch (s : State) (page : Option (Nat × Pte)) : State :=
  match page with
  | some (_, e) => if e.flash && !s.ms.refBits.contains e.frame then s.updMs fun m => { m with refBits := e.frame :: m.refBits }
      else s
  | none => s

/-- Bytes are written at a physical address: crossings that hold the granules abort (R298), poison is cleared, and Span operations
whose operands are written take note (R94). -/
def State.poke (s : State) (pa : Nat) (bs : List Byte) : State :=
  let s := (s.conflictRange pa bs.length).spanGuard pa bs.length
  { s with ms := { (s.ms.cleared pa bs.length) with mem := wrBytes s.ms.mem pa bs } }

/-- Ages return to zero when a page is read or written (R340). -/
def State.youngPage (s : State) (flashPage : Nat) : State :=
  s.updMs fun m => { m with flash := { m.flash with ages := tset 0 flashPage m.flash.ageTicks m.flash.ages } }

/-- Firmware starts a fault-in for a page that is not resident, or joins the one under way (R333). The frame is taken
when the flash read completes (log 15, DEDUCED, unsafe). -/
def State.faultIn (s : State) (pos page stack acct : Nat) : State :=
  if s.ms.faultIns.any fun f => f.pos == pos && f.page == page then s
  else s.updMs fun m =>
    { m with faultIns := m.faultIns ++ [{ pos := pos, page := page, stack := stack, acct := acct, serial := m.serial }], serial := m.serial + 1 }

/-- One contiguous run of a job's bytes at one place. -/
structure Run where
  va : Nat
  pa : Nat
  n : Nat
  page : Option (Nat × Pte)
deriving DecidableEq, Repr

/-- What an engine finds at a job range (R269, R343): runs of bytes, pages that are not resident, or an address it may
not reach. -/
inductive Span2 where
  | runs (rs : List Run)
  | absent (pages : List Nat)
  | bad
deriving DecidableEq, Repr

/-- Splits a job range at 64 KiB boundaries and translates each part. -/
def State.parts (s : State) (pos va : Nat) (write : Bool) : Nat → Nat → List (Nat × Nat × Xl)
  | 0, _ => []
  | _, 0 => []
  | fuel + 1, n =>
    let k := Nat.min n (0x10000 - va % 0x10000)
    (va, k, s.xlate pos va write) :: State.parts s pos (va + k) write fuel (n - k)

/-- Translates a job range. -/
def State.spanOf (s : State) (pos va n : Nat) (write : Bool) : Span2 :=
  let ps := s.parts pos va write (n / 0x10000 + 2) n
  if ps.any fun p => match p.2.2 with
    | .bad => true
    | _ => false
  then .bad
  else
    let ab := ps.filterMap fun p => match p.2.2 with
      | .absent k _ => some k
      | _ => none
    if ab.isEmpty then .runs (ps.filterMap fun p => match p.2.2 with
      | .phys pa pg => some { va := p.1, pa := pa, n := p.2.1, page := pg }
      | _ => none)
    else .absent ab

/-- The cells listed in a job range, at their job addresses. -/
def State.cellsAt (s : State) (rs : List Run) : List Host.Cell :=
  rs.flatMap fun r => (s.ms.mem.filter fun c => decide (r.pa ≤ c.1) && decide (c.1 < r.pa + r.n)).map
    fun c => (c.1 - r.pa + r.va, c.2)

/-- Reads a job range as bytes; bytes of an address that leads nowhere read zero. -/
def State.readJob (s : State) (pos va n : Nat) : List Byte :=
  match s.spanOf pos va n false with
  | .runs rs => rs.flatMap fun r => rdBytes s.ms.mem r.pa r.n
  | _ => List.replicate n 0

/-- A run of a job's bytes is poisoned. -/
def State.badRange (s : State) (pos va n : Nat) : Bool :=
  match s.spanOf pos va n false with
  | .runs rs => rs.any fun r => s.ms.poisoned r.pa r.n
  | _ => false

/-! ### Swap records (R168) -/

/-- The job address of a thread's swap record: base + 576 × index. -/
def State.recordVa (s : State) (tid : Nat) : Option Nat :=
  ((s.job (s.posOf (coreOfTid tid))).man.cores.find? fun d => d.core == coreOfTid tid).map fun d => d.swapBase + 576 * (tid % 2 ^ 26)

/-- Where `n` bytes of a thread's swap record lie, from byte `off` on. -/
def State.recordAt (s : State) (tid off n : Nat) : List Run :=
  match s.recordVa tid with
  | none => []
  | some va => match s.spanOf (s.posOf (coreOfTid tid)) (va + off) n false with
    | .runs rs => rs
    | _ => []

/-- The device writes bytes into a thread's swap record, from byte `off` on. -/
def State.putRecord (s : State) (tid off : Nat) (bs : List Byte) : State :=
  match s.recordVa tid with
  | none => s
  | some va => (s.recordAt tid off bs.length).foldl (fun s r => s.poke r.pa ((bs.drop (r.va - (va + off))).take r.n)) s

/-- The device reads a thread's whole swap record; answers false when a granule of it is uncorrectable (R319). -/
def State.readRecord (s : State) (tid : Nat) (ecc : Ecc) : Bool × State :=
  match s.recordAt tid 0 576 with
  | [] => (true, s)
  | r :: rs =>
    let (ok, s) := s.checkRead r.pa r.n ecc
    (ok && rs.all fun r => !s.ms.poisoned r.pa r.n, s)

/-! ### Engine writes -/

/-- An engine or a device transfer writes bytes at a job address whose pages are resident (R253, R335). -/
def State.writeJob (s : State) (pos va : Nat) (bs : List Byte) : State :=
  match s.spanOf pos va bs.length true with
  | .runs rs => rs.foldl (fun s r =>
      (((s.dirty pos r.page r.va r.n).touch r.page).poke r.pa ((bs.drop (r.va - va)).take r.n))) s
  | _ => s

/-- An engine's write reaches a poisoned granule of DRAM that it does not cover whole: it writes nothing there (R237, R319). -/
def State.partBad (s : State) (pos va n : Nat) : Bool :=
  match s.spanOf pos va n true with
  | .runs rs => rs.any fun r => !isScratch r.pa && s.ms.dramBad.any fun g => meet (64 * g) 64 r.pa r.n && !within (64 * g) 64 r.pa r.n
  | _ => false

/-- A write by an engine must wait: a first-write copy is due on its page (R355), or a crossing holds a granule
(R296, R299). -/
def State.mustHold (s : State) (pos va n : Nat) : Bool :=
  match s.spanOf pos va n true with
  | .runs rs => rs.any fun r => s.needsCopy pos r.page || s.rangeHeld r.pa r.n || s.pageHeld pos r.page
  | _ => false

end Sys2Proof.Machine
end

