-- ==== Sys2Proof/Machine/EngineOps.lean ====
section
/-! DEFINITION. What every engine shares: the descriptor header, readiness, queues, status records, completion and errors
(R82, R83, R180, R247 to R252), tolls, choice and slices (R399 to R408). -/

namespace Sys2Proof.Machine

/-! ### Queues and readiness -/

/-- Queue entries per instance (R247). -/
def queueCap (cls : Nat) : Nat :=
  match cls with
  | 1 => 64 | 2 => 32 | 3 => 32 | 4 => 64 | 5 => 16 | 6 => 64 | 7 => 64 | 8 => 256 | 9 => 64 | 10 => 256 | _ => 0

/-- A shared engine (R32, R402). -/
def isShared (cls : Nat) : Bool := decide (6 ≤ cls)

/-- An engine starts no further unit of a job that has ended or faulted (R178, R286); firmware's own work belongs to none. -/
def State.descLives (s : State) (d : Desc) : Bool := d.issuer == .firmware || decide ((s.job d.pos).st = .running)

/-- The descriptor may be chosen: its job runs, it is ready and is not suspended for pages, which a gather operation never is (R286,
R343). -/
def State.descEligible (s : State) (d : Desc) : Bool := s.descLives d && s.descReady d && (d.waiting.isEmpty || d.cls == 4)

/-! ### Tolls and choice -/

/-- Party of an account: 0 main, 1 standing, 2 device (R398, R401). -/
def partyOf (account : Nat) : Nat := if account < 256 then 0 else if account < 512 then 1 else 2

/-- S of an account: its group's share (R397), DEVICE_SHARE for the device account (log 21, DEDUCED, safe). -/
def State.shareOf (s : State) (account : Nat) : Nat :=
  if account < 512 then Nat.max 1 ((s.job (account / 256)).man.groups.getD (account % 256) 1) else s.cfg.deviceShare

/-- S_party (R392, R401). -/
def State.partyShare (s : State) (party : Nat) : Nat :=
  match party with
  | 0 => s.cfg.mainShare | 1 => s.cfg.standingShare | _ => s.cfg.deviceShare

def Engine.toll (e : Engine) (a : Nat) : Toll := tget Toll.zero a e.tolls
def Engine.setToll (e : Engine) (a : Nat) (t : Toll) : Engine := { e with tolls := tset Toll.zero a t e.tolls }

/-- Accounts with an eligible descriptor, ascending and without repeats. -/
def State.readyAccounts (s : State) (e : Engine) : List Nat :=
  (List.range 513).filter fun a => e.queue.any fun d => d.account == a && !d.started && s.descEligible d

/-- The lowest of a list of numbers. -/
def lowest : List Nat → Nat
  | [] => 0
  | [x] => x
  | x :: r => Nat.min x (lowest r)

/-- An account, or a party, that gains a ready descriptor starts at the lowest VT among those ready (R403). -/
def State.refresh (s : State) (e : Engine) : Engine :=
  let now := s.readyAccounts e
  let old := now.filter fun a => (e.toll a).ready
  let low := lowest (old.map fun a => (e.toll a).vt.toNat)
  let newParty (p : Nat) : Bool := (now.any fun a => partyOf a == p) && !old.any fun a => partyOf a == p
  let oldParties := (List.range 3).filter fun p => old.any fun a => partyOf a == p
  let lowP := lowest (oldParties.map fun p => (e.parties.getD p 0).toNat)
  let e := now.foldl (fun e a =>
    let t := e.toll a
    if t.ready then e else e.setToll a { t with ready := true, vt := BitVec.ofNat 64 (Nat.max t.vt.toNat low) }) e
  let gone := (e.tolls.map Prod.fst).filter fun a => !now.contains a
  let e := gone.foldl (fun e a => e.setToll a { e.toll a with ready := false }) e
  { e with parties := (List.range 3).map fun p =>
      if newParty p && !oldParties.isEmpty then BitVec.ofNat 64 (Nat.max (e.parties.getD p 0).toNat lowP) else e.parties.getD p 0 }

/-- The account with the lowest VT, and on a tie the lower number; at a shared engine within the party of lowest VT
(R402). -/
def Engine.pick (e : Engine) (accounts : List Nat) : Option Nat :=
  let inParty : List Nat :=
    if isShared e.cls then
      match minBy (fun p => (e.parties.getD p 0).toNat) ((List.range 3).filter fun p => accounts.any fun a => partyOf a == p) with
      | some p => accounts.filter fun a => partyOf a == p
      | none => []
    else accounts
  minBy (fun a => (e.toll a).vt.toNat) inParty

/-- Choice with debts (R404): an account whose debt is a whole slice gives up the turn. Answers the instance, and the account with its
slice; none when every account gave up (log 120, DEDUCED, unsafe). -/
def Engine.turn (e : Engine) : Nat → List Nat → Engine × Option (Nat × Nat)
  | 0, _ => (e, none)
  | fuel + 1, accounts =>
    match e.pick accounts with
    | none => (e, none)
    | some a =>
      let t := e.toll a
      if 65536 ≤ t.debt then
        Engine.turn (e.setToll a { t with debt := t.debt - 65536 }) fuel (accounts.filter fun b => b != a)
      else (e.setToll a { t with debt := 0 }, some (a, 65536 - t.debt))

/-- The choice of an account among those ready: the only one has its debt cleared and takes a full slice (R402, R404). -/
def Engine.choose (e : Engine) (accounts : List Nat) : Engine × Option (Nat × Nat) := match accounts with
  | [a] => (e.setToll a { e.toll a with debt := 0 }, some (a, 65536))
  | _ => e.turn accounts.length accounts

/-- Charges `c` cycles of an instance to an account: VT and party VT rise, and the charged count and the toll total of
the class (R400, R401). -/
def State.charge (s : State) (cls num a c : Nat) : State :=
  let inc (v : W64) (share : Nat) : W64 := v + BitVec.ofNat 64 (ceilDiv (c * 65536) share)
  let s := s.updEngine cls num fun e =>
    let t := e.toll a
    let e := e.setToll a { t with vt := inc t.vt (s.shareOf a) }
    let e := { e with charged := e.charged + BitVec.ofNat 64 c, slice := e.slice - c }
    if isShared cls then { e with parties := lset e.parties (partyOf a) (inc (e.parties.getD (partyOf a) 0) (s.partyShare (partyOf a))) } else e
  let k := a * 16 + cls
  { s with totals := tset 0 k (tget 0 k s.totals + BitVec.ofNat 64 c) s.totals }

/-! ### Queues -/

/-- The running descriptor of an instance. -/
def Engine.current (e : Engine) : Option Desc :=
  match e.running with
  | none => none
  | some n => e.queue.find? fun d => d.serial == n

/-- The running descriptor of an instance, when it has this opcode and its job still runs (R286). -/
def State.runningOp (s : State) (cls num op : Nat) : Option Desc :=
  match (s.engine cls num).current with
  | some d => if d.opcode = op ∧ s.descLives d then some d else none
  | none => none

/-- Contexts in BLOCKED_ENGINE at this instance, or at any instance of its class, execute their ISSUE again (R163, R249). -/
def State.wakeEngine (s : State) (cls num : Nat) : State :=
  let waits (c : Ctx) : Bool :=
    c.status == .blockedEngine && (c.wait.object == cls * 256 + num || (cls == 8 && c.wait.object == 0x8FF))
  (s.threadsWhere 0 waits ++ s.threadsWhere 1 waits).foldl (fun s tid => s.wake tid fun c => c) s

/-- Changes a queued descriptor. -/
def Engine.updDesc (e : Engine) (serial : Nat) (f : Desc → Desc) : Engine :=
  { e with queue := updWhere (fun d => d.serial == serial) f e.queue }

/-- The entry of a descriptor frees (R249). -/
def State.freeEntry (s : State) (cls num serial : Nat) : State :=
  (s.updEngine cls num fun e =>
    { e with queue := e.queue.filter (fun d => d.serial != serial)
             running := if e.running = some serial then none else e.running
             partner := if e.partner = some serial then none else e.partner }).wakeEngine cls num

/-! ### Completion -/

/-- How an operation of classes 0x02 to 0x08 ends (R251): DETAIL is all ones where the operation gives none. -/
structure Ending where
  err : Code := 0
  count : Nat := 0
  missed : Bool := false
  special : Bool := false
  sat : Bool := false
  detail : Nat := 2 ^ 64 - 1
deriving DecidableEq, Repr

/-- The 16-byte status record (R251). -/
def Ending.bytes (e : Ending) : List Byte :=
  leBytes 8 (e.err.toNat * 2 ^ 48 + Nat.min e.count 0xFFFF * 2 ^ 16 + (if e.missed then 4 else 0) +
    (if e.special then 2 else 0) + (if e.sat then 1 else 0)) ++ leBytes 8 e.detail

/-- Saves how far an unfinished operation has come. -/
def State.saveDesc (s : State) (cls num serial : Nat) (f : Desc → Desc) : State :=
  s.updEngine cls num fun e => e.updDesc serial f

/-- The status of a finished operation: DETAIL names the first row or element that it counts (R257). -/
def Part.ending (p : Part) : Ending :=
  { err := p.err, count := p.count, missed := p.missed, special := p.special, sat := p.sat
    detail := p.first.getD (2 ^ 64 - 1) }

/-- The status with the checksum in DETAIL (R265). -/
def Part.sumEnding (p : Part) : Ending := { p.ending with detail := p.sum }

/-- STATUS_ADDR of the auxiliary record, 0 when none (R251). -/
def Desc.statusAddr (d : Desc) : Nat := fld d.aux 0 8

/-- An operation completes: status record, then DONE_CTR, then the entry frees; an error then faults the job (R180, R251,
R252). -/
def State.complete (s : State) (cls num : Nat) (d : Desc) (e : Ending) : State :=
  let s := if d.statusAddr = 0 then s else s.writeJob d.pos d.statusAddr e.bytes
  let s := (s.freeEntry cls num d.serial).doneCtr d
  if e.err = E.ok then s else s.engineFault d e.err

/-- The running operation waits for pages: its fault-ins start, and the instance runs others; a layout engine with 4 suspended
operations waits with it (R343). -/
def State.suspend (s : State) (cls num : Nat) (d : Desc) (shore : Nat) (pages : List Nat) : State :=
  let s := pages.foldl (fun s p => s.faultIn d.pos p shore d.account) s
  if cls = 3 ∧ 4 ≤ ((s.engine 3 num).queue.filter fun q => !q.waiting.isEmpty).length then s
  else (s.saveDesc cls num d.serial fun d => { d with waiting := pages }).updEngine cls num fun e =>
    if e.running = some d.serial then { e with running := none } else e

/-- `go`, once the operation's status record, which may stand anywhere in the job's address space, can be written or never will be: it
waits for its page and for a hold of its home (R251, R269, R299, R355). -/
def State.atStatus (s : State) (cls num : Nat) (d : Desc) (shore : Nat) (go : State) : State :=
  if d.statusAddr = 0 then go
  else match s.spanOf d.pos d.statusAddr 16 true with
    | .runs _ => if s.mustHold d.pos d.statusAddr 16 then s else go
    | .absent ps => s.suspend cls num d shore ps
    | .bad => go

/-- The status record has no place: its address has no translation, or its page is not writable (R269). -/
def State.statusLost (s : State) (d : Desc) : Bool := d.statusAddr != 0 && s.spanOf d.pos d.statusAddr 16 true == .bad

/-- The status record waits for its page or for a hold of its home. -/
def State.statusWaits (s : State) (d : Desc) : Bool :=
  d.statusAddr != 0 && match s.spanOf d.pos d.statusAddr 16 true with
    | .runs _ => s.mustHold d.pos d.statusAddr 16
    | .absent _ => true
    | .bad => false

/-- An operation of the layout engine or an Azlink port engine ends; a record with no place ends it with E_ARG_RANGE (R269). -/
def State.finish (s : State) (cls num : Nat) (d : Desc) (shore : Nat) (e : Ending) : State :=
  s.atStatus cls num d shore (s.complete cls num d { e with err := if e.err = E.ok ∧ s.statusLost d then E.argRange else e.err })

/-- An operation's writes must wait at their homes (R299, R355). -/
def State.writesHeld (s : State) (pos : Nat) (ranges : List (Nat × Nat)) : Bool :=
  ranges.any fun r => decide (0 < r.2) && s.mustHold pos r.1 r.2

/-- The engine reads `n` bytes of operands that hold an uncorrectable word (R237, R319). -/
def State.readsBad (s : State) (pos : Nat) (ranges : List (Nat × Nat)) : Bool :=
  ranges.any fun r => s.badRange pos r.1 r.2

/-- The runs of a job range that can be read now. -/
def State.runsOf (s : State) (pos va n : Nat) : List Run :=
  match s.spanOf pos va n false with
  | .runs rs => rs
  | _ => []

/-- The finds that a read of these physical ranges meets, and the others. -/
def splitFinds (fs : Finds) (runs : List (Nat × Nat)) : Finds × Finds := fs.partition fun f => runs.any fun r => within f.1 1 r.1 r.2

/-- Errors found in words, granules and units are counted, tallied and poison them (R236, R319). -/
def State.meetFinds (s : State) (fs : Finds) : State := fs.foldl (fun s f => (s.checkRead f.1 1 f.2).2) s

/-- An engine reads job ranges: pool frames are referenced (R334) and the errors found take effect (R236, R319). Answers false when a
range delivers no data, and the finds that this read did not meet. -/
def State.sees (s : State) (pos : Nat) (ranges : List (Nat × Nat)) (fs : Finds) : Bool × State × Finds :=
  let runs := ranges.flatMap fun r => s.runsOf pos r.1 r.2
  let f := splitFinds fs (runs.map fun r => (r.pa, r.n))
  let s := (runs.foldl (fun s r => s.touch r.page) s).meetFinds f.1
  (!s.readsBad pos ranges, s, f.2)

/-- An engine reads job ranges once. -/
def State.readSees (s : State) (pos : Nat) (ranges : List (Nat × Nat)) (fs : Finds) : Bool × State :=
  ((s.sees pos ranges fs).1, (s.sees pos ranges fs).2.1)

/-! ### Random draws (R57 to R62) -/

/-- Blocks reserved for `n` elements (R59). -/
def drawBlocks (n : Nat) : Nat := ceilDiv n 32

/-- The counter of a stream-table entry (R58). -/
def State.streamCtr (s : State) (pos i : Nat) : Nat := ((s.job pos).streams.getD i (0, 0)).2.toNat

/-- A reservation of `k` blocks fits (R58, R62). -/
def State.drawFits (s : State) (pos i k : Nat) : Bool :=
  decide (i < (s.job pos).streams.length) && decide (s.streamCtr pos i + k ≤ 2 ^ 64 - 1)

/-- Sets the counter of a stream (R59, R279). -/
def State.setStream (s : State) (pos i v : Nat) : State :=
  s.updJob pos fun j => { j with streams := lset j.streams i ((j.streams.getD i (0, 0)).1, BitVec.ofNat 64 v) }

end Sys2Proof.Machine
end

