-- ==== Sys2Proof/Machine/Random.lean ====
section
/-! DEFINITION. Random streams: ChaCha20 blocks and the bits of an element (R56, R57, R61). -/

namespace Sys2Proof.Machine

/-- The quarter round of RFC 8439 on four words. -/
def quarter (a b c d : W32) : W32 × W32 × W32 × W32 :=
  let a := a + b
  let d := (d ^^^ a).rotateLeft 16
  let c := c + d
  let b := (b ^^^ c).rotateLeft 12
  let a := a + b
  let d := (d ^^^ a).rotateLeft 8
  let c := c + d
  let b := (b ^^^ c).rotateLeft 7
  (a, b, c, d)

/-- Applies a quarter round to four places of the state. -/
def quarterAt (st : List W32) (i j k l : Nat) : List W32 :=
  match quarter (st.getD i 0) (st.getD j 0) (st.getD k 0) (st.getD l 0) with
  | (a, b, c, d) => lset (lset (lset (lset st i a) j b) k c) l d

/-- Two rounds: a column round and a diagonal round. -/
def doubleRound (s : List W32) : List W32 :=
  let s := quarterAt s 0 4 8 12
  let s := quarterAt s 1 5 9 13
  let s := quarterAt s 2 6 10 14
  let s := quarterAt s 3 7 11 15
  let s := quarterAt s 0 5 10 15
  let s := quarterAt s 1 6 11 12
  let s := quarterAt s 2 7 8 13
  quarterAt s 3 4 9 14

def rounds : Nat → List W32 → List W32
  | 0, s => s
  | n + 1, s => rounds n (doubleRound s)

/-- The input state of block `n` of stream `id` (R57). -/
def chachaInput (key : List Byte) (n : Nat) (id : W64) : List W32 :=
  ([0x61707865, 0x3320646E, 0x79622D32, 0x6B206574] : List W32) ++
  (List.range 8).map (fun i => BitVec.ofNat 32 (fld key (4 * i) 4)) ++
  [BitVec.ofNat 32 n, BitVec.ofNat 32 (n / 2 ^ 32), id.setWidth 32, (id >>> 32).setWidth 32]

/-- The 64 bytes of block `n` of stream `id` under the job key (R57). -/
def chachaBlock (key : List Byte) (n : Nat) (id : W64) : List Byte :=
  let x := chachaInput key n id
  let y := rounds 10 x
  (List.range 16).flatMap fun i => leBytes 4 ((x.getD i 0) + (y.getD i 0)).toNat

/-- The 16 bits of element `i` of an output whose reservation starts at `c0` (R61). -/
def elementBits (key : List Byte) (id : W64) (c0 i : Nat) : Nat :=
  fld (chachaBlock key (c0 + i / 32) id) (2 * (i % 32)) 2

/-- The 16 bits of element `i` of a descriptor's output (R59, R61). -/
def State.drawBits (s : State) (d : Desc) (i : Nat) : Nat :=
  elementBits (s.job d.pos).key ((s.job d.pos).streams.getD d.stream (0, 0)).1 d.draw i

end Sys2Proof.Machine
end

