-- ==== Sys2Proof/Machine/Transc.lean ====
section
/-! DEFINITION. Correctly rounded exponential, logarithm, tanh, sigmoid and reciprocal square root (R257): each value is
formed in fixed point with 512 fraction bits and a sticky bit below them, so that one rounding to any format of R41 is
correct (log 22, DESIGN CHOICE, unsafe). -/

namespace Sys2Proof.Machine

/-- Fraction bits of the fixed point. -/
def fxBits : Nat := 512
def fxOne : Nat := 2 ^ fxBits

/-- x^1 + x^3/3 + x^5/5 + ... in fixed point (atanh), `n` terms; `p` is the running odd power. -/
def atanhSum (x2 : Nat) : Nat → Nat → Nat → Nat
  | 0, _, _ => 0
  | n + 1, k, p => p / (2 * k + 1) + atanhSum x2 n (k + 1) (p * x2 / fxOne)

/-- atanh of a fixed-point number below 1/2. -/
def atanhFx (x : Nat) : Nat := atanhSum (x * x / fxOne) 260 0 x

/-- ln 2 = 2 atanh(1/3). -/
def ln2Fx : Nat := 2 * atanhFx (fxOne / 3)

/-- 1 + x + x^2/2 + ... in fixed point, `n` terms from term `k`; `p` is term `k`. -/
def expSum (x : Nat) : Nat → Nat → Nat → Nat
  | 0, _, _ => 0
  | n + 1, k, p => p + expSum x n (k + 1) (p * x / fxOne / (k + 1))

/-- e^x for a fixed-point x in [0, 1). -/
def expFx (x : Nat) : Nat := expSum x 120 0 fxOne

/-- A magnitude m * 2^e in fixed point, truncated. -/
def toFx (m : Nat) (e : Int) : Nat :=
  let k := e + fxBits
  if 0 ≤ k then m * pow2 k else m / pow2 (-k)

/-- A fixed-point magnitude times 2^k with the sticky bit set: the exact value lies strictly above. -/
def sticky (neg : Bool) (x : Nat) (k : Int) : Val := .fin neg (2 * x + 1) (k - fxBits - 1)

/-- A value that lies strictly below the magnitude m * 2^e, by less than any rounding sees. -/
def justBelow (neg : Bool) (m : Nat) (e : Int) : Val := .fin neg (m * 2 ^ 600 - 1) (e - 600)

/-- The magnitude lies at or above 2^k. -/
def atLeast (m : Nat) (e k : Int) : Bool := m != 0 && decide (k ≤ (m.log2 : Int) + e)

/-- e^x for x = -(m * 2^e), at most 256, as (fixed point f in (1/2, 1], k) with e^x = f * 2^-k. -/
def expNegFx (m : Nat) (e : Int) : Nat × Nat :=
  let x := toFx m e
  let k := x / ln2Fx
  let r := x - k * ln2Fx
  -- e^-r = 1 / e^r
  (fxOne * fxOne / expFx r, k)

def Val.exp : Val → Val
  | .nan => .nan
  | .inf neg => if neg then .fin false 0 0 else .inf false
  | .fin neg m e =>
    if m = 0 then .fin false 1 0
    else if atLeast m e 8 then (if neg then .fin false 1 (-400) else .fin false 1 400)
    else
      if neg then match expNegFx m e with
        | (f, k) => if atLeast m e (-500) then sticky false f (-(k : Int)) else justBelow false 1 0
      else
        let x := toFx m e
        let k := x / ln2Fx
        if atLeast m e (-500) then sticky false (expFx (x - k * ln2Fx)) k else sticky false fxOne 0

/-- ln x; -Inf for zeros, NaN below 0 (R257). -/
def Val.log : Val → Val
  | .nan => .nan
  | .inf neg => if neg then .nan else .inf false
  | .fin neg m e =>
    if m = 0 then .inf true
    else if neg then .nan
    else
      let l := m.log2
      -- x = z * 2^k with z in [3/4, 3/2)
      let k0 : Int := (l : Int) + e
      let big := decide (3 * 2 ^ l ≤ 2 * m)
      let k : Int := if big then k0 + 1 else k0
      let z := toFx m (e - k)
      if z = fxOne ∧ k = 0 then .fin false 0 0
      else
        let up := decide (fxOne ≤ z)
        let y := (if up then z - fxOne else fxOne - z) * fxOne / (z + fxOne)
        let lz : Int := (if up then 1 else -1) * ((2 * atanhFx y : Nat) : Int)
        let r : Int := lz + k * ln2Fx
        sticky (decide (r < 0)) r.natAbs 0

/-- 1 / (1 + e^-x). -/
def Val.sigmoid : Val → Val
  | .nan => .nan
  | .inf neg => if neg then .fin false 0 0 else .fin false 1 0
  | .fin neg m e =>
    if m = 0 then .fin false 1 (-1)
    else if atLeast m e 8 then (if neg then .fin false 1 (-400) else justBelow false 1 0)
    else match expNegFx m e with
      | (f, k) =>
        if neg then
          -- f 2^-k / (1 + f 2^-k)
          sticky false (f * fxOne / (fxOne + f / 2 ^ k)) (-(k : Int))
        else sticky false (fxOne * fxOne / (fxOne + f / 2 ^ k)) 0

def Val.tanh : Val → Val
  | .nan => .nan
  | .inf neg => .fin neg 1 0
  | .fin neg m e =>
    if m = 0 then .fin neg 0 0
    else if atLeast m e 7 then justBelow neg 1 0
    else if !atLeast m e (-60) then justBelow neg m e
    else match expNegFx m (e + 1) with
      | (f, k) => let q := f / 2 ^ k
                  sticky neg ((fxOne - q) * fxOne / (fxOne + q)) 0

/-- 1 / sqrt x, exact where it is representable; an infinity of the zero's sign for zeros (IEEE 754). -/
def Val.rsqrt : Val → Val
  | .nan => .nan
  | .inf neg => if neg then .nan else .fin false 0 0
  | .fin neg m e =>
    if m = 0 then .inf neg
    else if neg then .nan
    else
      let m' := if e % 2 = 0 then m else 2 * m
      let e' := if e % 2 = 0 then e else e - 1
      let k := 256 + m'.log2
      let n := 2 ^ (2 * k) / m'
      let r := isqrt n
      .fin false (2 * r + (if 2 ^ (2 * k) % m' = 0 ∧ r * r = n then 0 else 1)) (-(e' / 2) - k - 1)

def Val.one : Val := .fin false 1 0
def Val.recip (x : Val) : Val := Val.one.div x

end Sys2Proof.Machine
end

