-- ==== Sys2Proof/Machine/VecOps.lean ====
section
/-! DEFINITION. What the vector, Keel, layout, gather and random-stream operations share: operand extents and their checks
(R250), elements, bitmaps, and the running of an operation row by row (R251, R252). -/

namespace Sys2Proof.Machine

/-! ### Extents and acceptance checks -/

/-- An operand of a descriptor: its byte range, alignment, whether it is read and written, and whether it is the output
that may equal another operand exactly (`z`), or such an operand (`zOk`) (R250, R256). -/
structure Ext where
  addr : Nat
  n : Nat
  align : Nat
  rd : Bool := false
  wr : Bool := false
  z : Bool := false
  zOk : Bool := false
deriving DecidableEq, Repr

/-- The code of the first failing check (R250). -/
def firstBad : List (Bool × Code) → Code
  | [] => E.ok
  | (b, c) :: r => if b then c else firstBad r

/-- A range lies in the scratchpad region of the job's cores (R250, R256). -/
def State.inScratch (s : State) (pos a n : Nat) : Bool :=
  isScratch a && isScratch (a + n - 1) && s.posOf (spCore a) == pos && s.posOf (spCore (a + n - 1)) == pos

/-- A range lies in the job's address space below 2^52 outside the scratchpad of other jobs (R250). -/
def State.inSpace (s : State) (pos a n : Nat) : Bool :=
  decide (a + n ≤ 2 ^ 52) &&
  ((List.range 64).all fun c => s.posOf c == pos || !meet a n (spBase + c * 0x400000) 0x400000)

/-- Two operands overlap where they may not (R250): one of them is an output, and they are not the pair that may be
equal. -/
def Ext.clash (a b : Ext) : Bool :=
  (a.wr || b.wr) && meet a.addr a.n b.addr b.n &&
  !(((a.z && b.zOk) || (b.z && a.zOk)) && a.addr == b.addr && a.n == b.n)

def clashes : List Ext → Bool
  | [] => false
  | a :: r => (r.any fun b => a.clash b) || clashes r

/-- STATUS_ADDR as an output, when there is one (R251). -/
def Desc.statusExt (d : Desc) : List Ext :=
  if d.statusAddr = 0 then [] else [{ addr := d.statusAddr, n := 16, align := 8, wr := true }]

/-- Address, draw and alignment checks of R250 in order, after an engine's format and range checks. `auxOk` says that
the auxiliary record could be read; `region` is the region test; `draw` the blocks that SR reserves. -/
def State.commonChecks (s : State) (d : Desc) (auxOk : Bool) (region : Nat → Nat → Bool) (es : List Ext)
    (draw : Option Nat) : List (Bool × Code) :=
  let es := es ++ d.statusExt
  [ (!auxOk || (es.any fun e => !region e.addr e.n) || clashes es, E.argRange)
  , (match draw with
     | none => false
     | some k => !s.drawFits d.pos d.stream k, E.argRange)
  , (fld d.raw 56 8 % 64 != 0 || es.any fun e => e.addr % e.align != 0, E.argAlign) ]

/-! ### Elements and bitmaps -/

/-- `n` consecutive elements of a format at an address (R41). -/
def State.elems (s : State) (pos : Nat) (f : Fmt) (a n : Nat) : List Val :=
  let bs := s.readJob pos a (n * f.bytes)
  (List.range n).map fun i => f.decode (fld bs (i * f.bytes) f.bytes)

/-- Bit `i` of a bitmap; every element when there is none (R256). -/
def State.bitAt (s : State) (pos a i : Nat) : Bool :=
  a == 0 || ((s.readJob pos (a + i / 8) 1).getD 0 0).getLsbD (i % 8)

/-- One FP32 step with RNE (R257). -/
def r32 (v : Val) : Val := fp32.decode (fp32.encode true .rne 0 v).code

/-- fma(a, b, c), exact; `r32` of it is the single rounding. -/
def Val.fma (a b c : Val) : Val := (a.mul b).add c

/-- Whether overflow in a format follows IEEE 754: FP32 arithmetic (R54). -/
def Fmt.arith (f : Fmt) : Bool := f.bytes == 4

/-- The last step of a result (R257): its exact value rounded to the output format. -/
def Fmt.last (f : Fmt) (mode : Rnd) (r : Nat) (v : Val) : Rounded := f.encode f.arith mode r v

/-- A conversion to a format: overflow saturates, in FP32 too (R54, R55, R285; log 104, DEDUCED, unsafe). -/
def Fmt.conv (f : Fmt) (mode : Rnd) (r : Nat) (v : Val) : Rounded := f.encode false mode r v

/-- An integer as a value. -/
def Val.ofNat (n : Nat) : Val := .fin false n 0

/-! ### Row statistics (R259) -/

/-- The lanes: lane l takes elements l, l + 256, ... in ascending order. -/
def lanesFrom (init : Val → Val) (step : Val → Val → Val) (xs : List Val) : List Val :=
  (List.range (Nat.min 256 xs.length)).map fun l =>
    ((List.range ((xs.length - l - 1) / 256)).foldl (fun p k => step p (xs.getD (l + 256 * (k + 1)) .nan))
      (init (xs.getD l .nan)))

/-- One level: partial 2j with partial 2j + 1. -/
def combineLevel (f : Val → Val → Val) : List Val → List Val
  | a :: b :: r => f a b :: combineLevel f r
  | l => l

/-- Levels until at most two partials are left. -/
def combineTo2 (f : Val → Val → Val) : Nat → List Val → List Val
  | 0, l => l
  | k + 1, l => if l.length ≤ 2 then l else combineTo2 f k (combineLevel f l)

/-- A statistic whose last combination is left exact: `fx` is the exact combination, `f` the rounded one. -/
def statExact (init : Val → Val) (step f fx : Val → Val → Val) (xs : List Val) : Val :=
  match combineTo2 f 8 (lanesFrom init step xs) with
  | [a, b] => fx a b
  | [a] => a
  | _ => .fin false 0 0

def addR (a b : Val) : Val := r32 (a.add b)
/-- Magnitude; NaN stays NaN. -/
def Val.abs : Val → Val
  | .fin _ m e => .fin false m e
  | .inf _ => .inf false
  | .nan => .nan

/-- SUM, exact in its last combination. -/
def sumX (xs : List Val) : Val := statExact (fun x => x) addR addR Val.add xs
/-- SUMSQ, exact in its last combination; a single element is the exact square. -/
def sumsqX (xs : List Val) : Val :=
  match xs with
  | [x] => x.mul x
  | _ => statExact (fun x => r32 (x.mul x)) (fun p x => r32 (Val.fma x x p)) addR Val.add xs
def maxX (xs : List Val) : Val := statExact (fun x => x) Val.fmax Val.fmax Val.fmax xs
def minX (xs : List Val) : Val := statExact (fun x => x) Val.fmin Val.fmin Val.fmin xs
/-- SUM as an intermediate step. -/
def sumR (xs : List Val) : Val := r32 (sumX xs)
/-- A mean is the SUM divided by n (R259). -/
def meanR (xs : List Val) : Val := r32 ((sumR xs).div (Val.ofNat xs.length))

/-! ### Running an operation row by row -/

/-- What one row (or block, bag, index) of an operation does: an error, or bytes written and what it adds to the
status. -/
structure RowOut where
  err : Code := E.ok
  writes : List (Nat × List Byte) := []
  sat : Bool := false
  special : Bool := false
  missed : Bool := false
  count : Nat := 0
  first : Option Nat := none
  sum : Nat := 0

/-- The status so far with a row's. -/
def Part.add (p : Part) (r : RowOut) : Part :=
  { p with
    count := p.count + r.count, first := p.first <|> r.first, sat := p.sat || r.sat, special := p.special || r.special
    missed := p.missed || r.missed, sum := (p.sum + r.sum) % 2 ^ 64 }

/-- The bytes of a write at `a`: those of its whole words, and those of words that it does not fill. -/
def splitWords (a : Nat) (bs : List Byte) : (Nat × List Byte) × List Host.Cell :=
  let h := Nat.min bs.length ((4 - a % 4) % 4)
  let n := (bs.length - h) / 4 * 4
  let cell (i : Nat) : Host.Cell := (a + i, bs.getD i 0)
  ((a + h, (bs.drop h).take n), (List.range h).map cell ++ (List.range (bs.length - h - n)).map fun i => cell (h + n + i))

/-- The words that cells fill, and the cells of the others. -/
def fullWords (cs : List Host.Cell) : List (Nat × List Byte) × List Host.Cell :=
  let full (c : Host.Cell) : Bool := (List.range 4).all fun i => cs.any fun x => x.1 == c.1 / 4 * 4 + i
  ((cs.filter fun c => c.1 % 4 == 0 && full c).map fun c =>
    (c.1, (List.range 4).map fun i => ((cs.find? fun x => x.1 == c.1 + i).map Prod.snd).getD 0), cs.filter fun c => !full c)

/-- An operation writes bytes. A word shows them once the operation has written all of it, so that no reader finds a mixture (R200);
`held` are the bytes that wait. -/
def State.putOp (s : State) (pos : Nat) (held : List Host.Cell) (w : Nat × List Byte) : State × List Host.Cell :=
  let x := splitWords w.1 w.2
  let f := fullWords (x.2 ++ held.filter fun c => !x.2.any fun y => y.1 == c.1)
  (f.1.foldl (fun s w => s.writeJob pos w.1 w.2) (if x.1.2.isEmpty then s else s.writeJob pos x.1.1 x.1.2), f.2)

/-- The bytes that still wait are written: the operation ends. -/
def State.flush (s : State) (pos : Nat) (held : List Host.Cell) : State := held.foldl (fun s c => s.writeJob pos c.1 [c.2]) s

/-- The state, the status so far and the errors that its reads have still to find. -/
structure Acc where
  s : State
  part : Part
  finds : Finds

/-- What a row writes is written, and its status added. -/
def Acc.take (pos : Nat) (a : Acc) (r : RowOut) : Acc :=
  let w := r.writes.foldl (fun (x : State × List Host.Cell) w => x.1.putOp pos x.2 w) (a.s, a.part.held)
  { a with s := w.1, part := { a.part.add r with held := w.2 } }

/-- What a row writes reaches a poisoned granule that it does not cover (R319). -/
def State.rowBad (s : State) (pos : Nat) (r : RowOut) : Bool := r.writes.any fun w => s.partBad pos w.1 w.2.length

/-- One row: an uncorrectable operand, or an error, ends the operation and writes nothing further (R95, R237, R252, R319). -/
def Acc.row (pos : Nat) (reads : Nat → State → List (Nat × Nat)) (body : Nat → State → RowOut) (a : Acc) (i : Nat) : Acc :=
  if a.part.err ≠ E.ok then a
  else
    let u := a.s.sees pos (reads i a.s) a.finds
    let a : Acc := { a with s := u.2.1, finds := u.2.2 }
    if !u.1 then { a with part := { a.part with err := E.uncorrectable } }
    else
      let r := body i a.s
      if r.err ≠ E.ok then { a with part := { a.part with err := r.err } }
      else if a.s.rowBad pos r then { a with part := { a.part with err := E.uncorrectable } }
      else a.take pos r

/-- Rows `i` to `i + n - 1` in ascending order, after the status `p`. -/
def State.rows (s : State) (pos i n : Nat) (reads : Nat → State → List (Nat × Nat)) (body : Nat → State → RowOut) (p : Part)
    (fs : Finds) : Acc :=
  ((List.range n).map fun k => i + k).foldl (Acc.row pos reads body) { s := s, part := p, finds := fs }

/-- How an operation runs: its rows, the rows of a non-preemptible unit (R254), what a row reads and does, and how it ends. -/
structure RowOp where
  rows : Desc → State → Nat
  unit : Desc → Nat
  reads : Desc → Nat → State → List (Nat × Nat)
  body : Desc → Nat → State → RowOut
  ending : Desc → State → Part → Ending

/-- The rows that a run of the engine covers: those of its units, at most the operation's rest (R254). -/
def RowOp.span (o : RowOp) (d : Desc) (s : State) (r : EngRun) : Nat := Nat.min (o.rows d s - d.progress) (r.units * o.unit d)

/-- The operation ends: what it wrote stands, and it completes (R251, R252). -/
def Acc.done (a : Acc) (cls num : Nat) (d : Desc) (e : Ending) : State := (a.s.flush d.pos a.part.held).complete cls num d e

/-- Runs the running descriptor of an operation on its instance: nothing when it does not run, or while one of its writes must wait at
its home (R299, R355); otherwise its next units, and its completion after the last row or at an error. It keeps its progress and its
status so far (R254; log 93, DESIGN CHOICE, safe). -/
def State.runOp (s : State) (cls op : Nat) (r : EngRun) (outs : Desc → List (Nat × Nat)) (o : RowOp) : State :=
  match s.runningOp cls r.num op with
  | none => s
  | some d =>
    if s.writesHeld d.pos (outs d) then s
    else
      let n := o.span d s r
      let a := s.rows d.pos d.progress n (o.reads d) (o.body d) d.part r.finds
      if a.part.err = E.ok ∧ d.progress + n < o.rows d s then
        a.s.saveDesc cls r.num d.serial fun d => { d with progress := d.progress + n, part := a.part }
      else a.done cls r.num d (o.ending d a.s a.part)

end Sys2Proof.Machine
end

