-- ==== Sys2Proof/Machine/AzNet.lean ====
section
/-! DEFINITION. Settings of the logbook (R534), and the Azlink transport: headers and CHECK (R414 to R416), links, PFC and
link credits (R418 to R421), sending in sequence and acknowledging (R422 to R426). -/

namespace Sys2Proof.Machine

/-! ### Settings (R529, R534) -/

/-- A settings-record field: id, byte offset in its record's payload (log 41, DESIGN CHOICE, unsafe), length, range, default. -/
structure SettingDef where
  id : Nat
  off : Nat
  len : Nat
  lo : Nat
  hi : Nat
  dflt : Nat
deriving DecidableEq, Repr

/-- The settings (R534). -/
def settingDefs : List SettingDef :=
  [ { id := 0x1001, off := 0, len := 1, lo := 1, hi := 8, dflt := 4 }
  , { id := 0x1002, off := 4, len := 4, lo := 10, hi := 86400, dflt := 60 }
  , { id := 0x1101, off := 0, len := 2, lo := 1, hi := 1000, dflt := 10 }
  , { id := 0x1201, off := 0, len := 2, lo := 10, hi := 1000, dflt := 50 }
  , { id := 0x1202, off := 2, len := 2, lo := 10, hi := 10000, dflt := 100 }
  , { id := 0x1203, off := 4, len := 2, lo := 20, hi := 1000, dflt := 50 } ]

def settingDef (id : Nat) : Option SettingDef := settingDefs.find? fun d => d.id == id

def State.logRec (s : State) (r : Nat) : LogRec := tget LogRec.empty r s.boot.log

/-- The stored value of a setting, its default when its record has no valid copy (R531, R534). -/
def State.setting (s : State) (id : Nat) : Nat :=
  match settingDef id with
  | none => 0
  | some d => match (s.logRec (id / 256)).payload with
    | some p => fld p d.off d.len
    | none => d.dflt

/-! ### Packets -/

/-- Serial comparison: a follows b (R422). -/
def follows (a b : W32) : Bool := let d := (a - b).toNat; decide (1 ≤ d) && decide (d < 2 ^ 31)

namespace Wire
def winWrite : Byte := 1
def winRead : Byte := 2
def winReadResp : Byte := 3
def keelExp : Byte := 4
def keelLanes : Byte := 5
def fpRing : Byte := 6
def member : Byte := 7
def ctrl : Byte := 8
def nack : Byte := 9
end Wire

end Sys2Proof.Machine

namespace Sys2Proof

def Pkt.vc (p : Pkt) : Nat := p.vcLen.toNat / 8192
def Pkt.len (p : Pkt) : Nat := p.vcLen.toNat % 8192
/-- Bytes of SPEC, named by their header offset 20 to 31 (R415). -/
def Pkt.spec' (p : Pkt) (off n : Nat) : Nat := Machine.fld p.spec (off - 20) n
def Pkt.ackValid (p : Pkt) : Bool := p.flags.getLsbD 3
/-- Credits of 256 B (R419). -/
def Pkt.cost (p : Pkt) : Nat := Machine.ceilDiv (36 + p.payload.length) 256
/-- The 32 header bytes (R415). -/
def Pkt.header (p : Pkt) : List Byte :=
  [p.type, p.flags] ++ Machine.leBytes 2 p.vcLen.toNat ++ Machine.leBytes 2 p.src.toNat ++ Machine.leBytes 2 p.dst.toNat ++
  Machine.leBytes 4 p.psn.toNat ++ Machine.leBytes 4 p.ackPsn.toNat ++ Machine.leBytes 4 p.mepoch.toNat ++ p.spec
/-- CHECK (R414). -/
def Pkt.check (p : Pkt) : W32 := Machine.crc32c (p.header ++ p.payload)
/-- The packet travels in sequence (R416). -/
def Pkt.sequenced (p : Pkt) : Bool :=
  (decide (1 ≤ p.type.toNat) && decide (p.type.toNat ≤ 6)) || (p.type == Machine.Wire.member && p.spec' 20 1 == 2)
/-- The packet is charged end-to-end credits (R416). -/
def Pkt.charged (p : Pkt) : Bool := [1, 2, 4, 5, 6].contains p.type.toNat
/-- The packet is charged link credits (R419). -/
def Pkt.linkCharged (p : Pkt) : Bool := p.sequenced

end Sys2Proof

namespace Sys2Proof.Machine

/-- SPEC bytes from fields (header offset, size, value). -/
def specOf (fs : List (Nat × Nat × Nat)) : List Byte :=
  fs.foldl (fun b f => patch b (f.1 - 20) (leBytes f.2.1 f.2.2)) (List.replicate 12 0)

/-- A packet made here; SEQ is set on sequenced types. -/
def State.mkPkt (s : State) (type : Byte) (vc dst : Nat) (spec payload : List Byte) : Pkt :=
  let p : Pkt := { type := type, flags := 0x40, vcLen := BitVec.ofNat 16 (vc * 8192 + payload.length)
                   src := BitVec.ofNat 16 (s.cfg.peerId.getD 0xFFFF), dst := BitVec.ofNat 16 dst, psn := 0, ackPsn := 0
                   mepoch := s.az.epoch, spec := spec, payload := payload }
  if p.sequenced then { p with flags := 0x44 } else p

/-! ### Accessors -/

def State.peer (s : State) (p : Nat) : Peer := tget Peer.absent p s.az.peers
def State.updPeer (s : State) (p : Nat) (f : Peer → Peer) : State :=
  { s with az := { s.az with peers := tupd Peer.absent p f s.az.peers } }
def State.link (s : State) (l : Nat) : Link := tget Link.down l s.az.links
def State.updLink (s : State) (l : Nat) (f : Link → Link) : State :=
  { s with az := { s.az with links := tupd Link.down l f s.az.links } }
def Peer.vc (p : Peer) (v : Nat) : Vc := tget Vc.fresh v p.vcs
def State.vc (s : State) (p v : Nat) : Vc := (s.peer p).vc v
def State.updVc (s : State) (p v : Nat) (f : Vc → Vc) : State :=
  s.updPeer p fun x => { x with vcs := tupd Vc.fresh v f x.vcs }

/-- This module's peer id, when the fabric is up (R445). -/
def State.ownId (s : State) : Option Nat := if s.az.started then s.cfg.peerId else none

/-- The port of a link is SWITCHED (R411). -/
def State.switched (s : State) (l : Nat) : Bool := bits s.cfg.portKind (l / 4) 1 == 1

/-- The link exists in its port's mode (R410). -/
def State.linkExists (s : State) (l : Nat) : Bool :=
  decide (l < 64) && (match s.cfg.portMode.getD (l / 4) 0 with
    | 0 => l % 4 == 0 | 1 => decide (l % 4 < 2) | 2 => true | _ => false)

/-- A member of the adopted view other than this module (R435). -/
def State.isMember (s : State) (p : Nat) : Bool := (s.peer p).st == .member

/-! ### Links -/

/-- The bytes of a frame from DA to FCS (R414): the fields of IEEE 802.3 and 802.1Q in network order, those of Azlink little-endian (R11),
padding to the Ethernet minimum. -/
def State.frameBytes (s : State) (l : Nat) (da : BitVec 48) (p : Pkt) : List Byte :=
  let tag := if s.switched l then beBytes 2 0x8100 ++ beBytes 2 (p.vc * 2 ^ 13 + s.cfg.vlan) else []
  let b := beBytes 6 da.toNat ++ beBytes 6 (macOf l).toNat ++ tag ++ beBytes 2 s.cfg.etherType ++ p.header ++ p.payload ++
    leBytes 4 p.check.toNat
  let b := b ++ List.replicate (60 - b.length) 0
  b ++ fcs b

/-- A frame leaves on a link (R414). -/
def State.emit (s : State) (l : Nat) (da : BitVec 48) (p : Pkt) : State := s.out (.frame l da p (s.frameBytes l da p))

/-- A frame is offered to a link: it leaves at once, or waits for link credits (R419) or for PFC (R420); a link that is
down passes nothing (R421). -/
def State.linkTx (s : State) (l : Nat) (da : BitVec 48) (p : Pkt) : State :=
  let k := s.link l
  if !k.up then s
  else if s.switched l then
    (if s.aoc < k.paused.getD p.vc 0 then s.updLink l fun k => { k with txq := k.txq ++ [(da, p)] } else s.emit l da p)
  else if !p.linkCharged then s.emit l da p
  else if k.txq.any (fun q => q.2.vc == p.vc) || decide (k.credits.getD p.vc 0 < p.cost) then
    s.updLink l fun k => { k with txq := k.txq ++ [(da, p)] }
  else (s.updLink l fun k => { k with credits := lset k.credits p.vc (k.credits.getD p.vc 0 - p.cost) }).emit l da p

/-- Inserts a frame by the round of 256 B units in which it ends, then by VC. -/
def insertTurn (k : Nat) (x : BitVec 48 × Pkt) : List (Nat × BitVec 48 × Pkt) → List (Nat × BitVec 48 × Pkt)
  | [] => [(k, x)]
  | y :: r => if k < y.1 ∨ (k = y.1 ∧ x.2.vc < y.2.2.vc) then (k, x) :: y :: r else y :: insertTurn k x r

/-- VCs 1 to 6 in turn, one unit of 256 B each: a frame's last unit goes in the round that counts the units of its VC up to it (R418). -/
def roundRobin : List (BitVec 48 × Pkt) → List Nat → List (Nat × BitVec 48 × Pkt) → List (BitVec 48 × Pkt)
  | [], _, out => out.map fun y => y.2
  | x :: r, units, out =>
    let k := units.getD x.2.vc 0 + x.2.cost
    roundRobin r (lset units x.2.vc k) (insertTurn k x out)

/-- Frames that wait are offered again: VC 0 and VC 7 ahead of the others, which take turns (R418). -/
def State.drainLink (s : State) (l : Nat) : State :=
  let q := (s.link l).txq
  let first := q.filter fun x => x.2.vc == 0 || x.2.vc == 7
  let rest := q.filter fun x => x.2.vc != 0 && x.2.vc != 7
  (first ++ roundRobin rest (List.replicate 8 0) []).foldl (fun s x => s.linkTx l x.1 x.2) (s.updLink l fun k => { k with txq := [] })

/-- The set bits of LINKS, upward (R425). -/
def linksOf (m : BitVec 64) : List Nat := (List.range 64).filter fun i => m.getLsbD i

/-- The link of traffic to a peer on a VC (R425). -/
def Peer.linkFor (p : Peer) (id v : Nat) : Option Nat :=
  let ls := linksOf p.links
  if ls.isEmpty then none else ls[(id + v) % ls.length]?

/-- A packet to a peer leaves on the link that R425 selects, under the sender's present epoch. -/
def State.transmit (s : State) (p : Nat) (k : Pkt) : State :=
  match (s.peer p).linkFor p k.vc with
  | none => s
  | some l =>
    let da := if s.switched l then (s.peer p).mac + BitVec.ofNat 48 l else (s.link l).partner.getD 0
    s.linkTx l da { k with mepoch := s.az.epoch }

/-! ### Sending in sequence -/

/-- Sends what waits on a channel while fewer than 64 packets are unacknowledged and credits cover the next (R422,
R426). -/
def State.azPump (s : State) (p v : Nat) : Nat → State
  | 0 => s
  | n + 1 =>
    let c := s.vc p v
    match c.waiting with
    | [] => s
    | t :: r =>
      if 64 ≤ c.unacked.length ∨ (s.peer p).tx < t.cost then s
      else
        let k := { t.pkt with psn := c.txNext }
        let s := s.updPeer p fun x => { x with tx := x.tx - t.cost }
        let s := s.updVc p v fun c => { c with txNext := c.txNext + 1, waiting := r, unacked := c.unacked ++ [{ t with pkt := k }] }
        State.azPump (s.transmit p k) p v n

def State.azPumpAll (s : State) (p v : Nat) : State := s.azPump p v (s.vc p v).waiting.length

/-- Queues a sequenced packet to a peer. -/
def State.azSend (s : State) (p : Nat) (k : Pkt) (o : Owner) : State :=
  (s.updVc p k.vc fun c => { c with waiting := c.waiting ++ [{ pkt := k, owner := o, cost := if k.charged then k.cost else 0 }] }).azPumpAll p k.vc

/-- Packets that may still be queued on a channel: a sender keeps at most 64 unacknowledged (R422), and a WIN_READ needs room for a full
response in this module's own pool (R426; taken from the reserve, log 121, DEDUCED, unsafe). -/
def State.azRoom (s : State) (p v : Nat) : Nat :=
  let n := 64 - ((s.vc p v).unacked.length + (s.vc p v).waiting.length)
  if v = 1 then Nat.min n (s.az.reserve / 17) else n

/-- Every unacknowledged packet is sent again, from a PSN on (R423, R425). -/
def State.resendFrom (s : State) (p v : Nat) (psn : W32) : State :=
  ((s.vc p v).unacked.filter fun t => t.pkt.psn == psn || follows t.pkt.psn psn).foldl (fun s t => s.transmit p t.pkt) s

/-! ### Acknowledging -/

/-- Credits to return now, and the state that has given them up: below 196,608 in the reserve, a peer allotted more than
17 shrinks toward 17 (R426). -/
def State.takeGrant (s : State) (p v : Nat) : Nat × State :=
  let g := (s.vc p v).owed
  let x := s.peer p
  let w := if s.az.reserve < 196608 then Nat.min (Nat.min g (x.allot - 17)) (196608 - s.az.reserve) else 0
  let s := s.updVc p v fun c => { c with owed := 0 }
  (g - w, { (s.updPeer p fun x => { x with allot := x.allot - w }) with az := { (s.updPeer p fun x => { x with allot := x.allot - w }).az with reserve := s.az.reserve + w } })

/-- OUTCOME: two bits per packet, the last accepted first (R424). -/
def outcomeBytes (os : List Nat) : List Byte :=
  leBytes 16 ((List.range 64).foldl (fun n k => n + os.getD k 0 * 4 ^ k) 0)

/-- An ACK on a channel (R424): ACK_PSN is the last packet accepted whose action is done. -/
def State.sendAck (s : State) (p v : Nat) : State :=
  let c := s.vc p v
  let (g, s) := s.takeGrant p v
  let k := s.mkPkt Wire.ctrl v p (specOf [(20, 1, 1), (22, 2, g)]) (if v = 3 then outcomeBytes c.outcomes else [])
  let k := { k with flags := 0x48, ackPsn := c.rxExpected - 1 - BitVec.ofNat 32 c.held.length }
  (s.updVc p v fun c => { c with due := 0 }).transmit p k

/-- A NACK (R423, R439). -/
def State.sendNack (s : State) (p v : Nat) (code : Code) (psn : W32) (winref : Nat) : State :=
  s.transmit p (s.mkPkt Wire.nack v p (specOf [(20, 2, code.toNat), (24, 4, psn.toNat), (28, 4, winref)]) [])

end Sys2Proof.Machine
end

