-- ==== Sys2Proof/Machine/FlashOps.lean ====
section
/-! DEFINITION. Reads of the flash tier (R326 to R332): logical units of 16 KiB, pages of 64 KiB, the outcome of a read, and
where a row's bytes stand. -/

namespace Sys2Proof.Machine

/-- The logical unit of a flash page's 16 KiB unit `u` (R323, R326). -/
def unitOf (flashPage u : Nat) : Nat := 4 * flashPage + u
/-- The logical byte address of a flash page (R323). -/
def flashAddr (flashPage : Nat) : Nat := flashBase + 0x10000 * flashPage

/-- The NAND block that holds a mapped logical unit (R326). -/
def State.nandBlock (s : State) (unit : Nat) : Option Nat :=
  let p := tget 0 unit s.ms.flash.map
  if p = 0 then none else some ((p - 1) / 1024)

def Flash.updBlk (f : Flash) (b : Nat) (g : Blk → Blk) : Flash := { f with blocks := tupd Blk.fresh b g f.blocks }
def State.updFlash (s : State) (g : Flash → Flash) : State := s.updMs fun m => { m with flash := g m.flash }

/-- Maps a logical unit to a NAND page number plus one, 0 for none: the change goes to the journal in flash first (R326). -/
def Flash.setMap (f : Flash) (u v : Nat) : Flash := { f with map := tset 0 u v f.map, journal := f.journal ++ [(u, v)] }

/-- The map that a boot reads: the last checkpoint with the journal's changes (R326, R344). -/
def Flash.replay (f : Flash) : Tbl Nat := f.journal.foldl (fun m e => tset 0 e.1 e.2 m) f.root

/-- The page is stored as a compressed frame (R341). -/
def Flash.packed (f : Flash) (page : Nat) : Bool := f.sizes.any fun e => e.1 == page

/-- Units become uncorrectable (R330). -/
def State.spoil (s : State) (us : List Nat) : State :=
  s.updMs fun m => { m with flashBad := (us.filter fun u => !m.flashBad.contains u) ++ m.flashBad }

/-- One read of a logical unit (R329, R330): retries are counted and marked on the block, the age of the page returns to
zero (R340), an uncorrectable read poisons the unit. Answers whether data is delivered. A unit that was never written reads as zeros
(R344). -/
def State.flashRead (s : State) (unit : Nat) (r : FlashRead) : Bool × State :=
  let s := s.youngPage (unit / 4)
  match s.nandBlock unit with
  | none => (!s.ms.flashBad.contains unit, s)
  | some b =>
    let s := s.countBy 0x1020 r.retries
    let s := { s with tide := { s.tide with flashReads := (s.aoc, 1, r.retries) :: s.tide.flashReads } }
    let s := s.updFlash fun f => f.updBlk b fun k => { k with reads := k.reads + 1, retry := k.retry || decide (0 < r.retries) }
    if r.ok && !s.ms.flashBad.contains unit then (true, s) else (false, (s.count 0x1028).spoil [unit])

/-- Read `i` of a page. -/
def readOf (r : PageRead) (i : Nat) : FlashRead := r.reads.getD i { retries := 0, ok := true }

/-- A whole page is read: its four units, or the NAND pages of its compressed frame until one fails; a failed frame leaves all four units
uncorrectable (R330, R341). -/
def State.readPage (s : State) (page : Nat) (r : PageRead) : Bool × State :=
  if s.ms.flash.packed page then
    let n := ceilDiv (tget 0 page s.ms.flash.sizes) 0x4000
    let x := (List.range n).foldl (fun (a : Bool × State) i => if a.1 then a.2.flashRead (unitOf page 0) (readOf r i) else a) (true, s)
    if x.1 then x else (false, x.2.spoil ((List.range 4).map (unitOf page)))
  else (List.range 4).foldl (fun (a : Bool × State) i =>
    let x := a.2.flashRead (unitOf page i) (readOf r i)
    (a.1 && x.1, x.2)) (true, s)

/-- Whole pages are read, each with a key that names its outcome; a page with no outcome listed is read clean. Answers whether all came. -/
def State.readPages (s : State) (pages : List (Nat × Nat)) (reads : List (Nat × PageRead)) : Bool × State :=
  pages.foldl (fun (a : Bool × State) e =>
    let r := match reads.find? fun x => x.1 == e.1 with
      | some x => x.2
      | none => { reads := [] }
    let x := a.2.readPage e.2 r
    (a.1 && x.1, x.2)) (true, s)

/-- A gather operation's direct read of a unit: of a compressed page, the whole frame (R341). -/
def State.readUnit (s : State) (unit : Nat) (r : FlashRead) : Bool × State :=
  if s.ms.flash.packed (unit / 4) then s.readPage (unit / 4) { reads := [r] } else s.flashRead unit r

/-- The flash controller reports a completion or an error to firmware (R550). -/
def State.flashReport (s : State) (ok : Bool) : State := s.setInput (if ok then 230 else 231) true

/-- Bytes of a job range where they stand: a resident or DRAM page in DRAM, a non-resident flash page in flash (R332).
None where an address leads nowhere. -/
def State.readThrough (s : State) (pos va n : Nat) : Option (List Byte) :=
  (s.parts pos va false (n / 0x10000 + 2) n).foldl (fun o p => match o, p.2.2 with
    | some bs, .phys pa _ => some (bs ++ rdBytes s.ms.mem pa p.2.1)
    | some bs, .absent _ e => some (bs ++ rdBytes s.ms.mem (flashAddr e.flashPage + p.1 % 0x10000) p.2.1)
    | _, _ => none) (some [])

/-- The physical ranges of a job range, flash included. -/
def State.placesOf (s : State) (pos va n : Nat) : List (Nat × Nat) :=
  (s.parts pos va false (n / 0x10000 + 2) n).filterMap fun p => match p.2.2 with
    | .phys pa _ => some (pa, p.2.1)
    | .absent _ e => some (flashAddr e.flashPage + p.1 % 0x10000, p.2.1)
    | .bad => none

/-- The flash units that a read of a job range must fetch: those of non-resident pages (R277). -/
def State.flashUnits (s : State) (pos va n : Nat) : List Nat :=
  (s.parts pos va false (n / 0x10000 + 2) n).flatMap fun p => match p.2.2 with
    | .absent _ e =>
      let a := p.1 % 0x10000
      (List.range ((a + p.2.1 - 1) / 0x4000 - a / 0x4000 + 1)).map fun i => unitOf e.flashPage (a / 0x4000 + i)
    | _ => []

end Sys2Proof.Machine
end

