-- ==== Sys2Proof/Machine/Logbook.lean ====
section
/-! DEFINITION. The logbook (R529 to R533): stores of a record, and the records that firmware stores on its own. -/

namespace Sys2Proof.Machine

/-! Record ids (R529). -/
namespace Rec
def identity : Nat := 0x0001
def rollback : Nat := 0x0002
def repairMap : Nat := 0x0003
def flashRoot : Nat := 0x0004
def moorCatalogue : Nat := 0x0005
def lifetime : Nat := 0x0006
def windowGen : Nat := 0x0007
end Rec

/-- The host-settable records (R529). -/
def settingsRecords : List Nat := [0x0010, 0x0011, 0x0012]

/-- Payload bytes of a record (R529). -/
def recSize (id : Nat) : Nat :=
  match id with
  | 0x0001 => 96 | 0x0002 => 4 | 0x0003 => 4096 | 0x0004 => 96 | 0x0005 => 32 | 0x0006 => 128 | 0x0007 => 4
  | 0x0010 => 8 | 0x0011 => 4 | 0x0012 => 8 | _ => 0

/-- A record's value, zeros when it has no valid copy. -/
def State.logValue (s : State) (id : Nat) : List Byte := (s.logRec id).payload.getD (List.replicate (recSize id) 0)

/-- A committed store began within the last second (R533). -/
def State.logBusy (s : State) (id : Nat) : Bool :=
  match (s.logRec id).last with
  | none => false
  | some t => decide (s.aoc < t + 25000000)

/-- Copy slots below the endurance limit (R532). -/
def LogRec.usable (r : LogRec) : List Nat := (List.range 4).filter fun i => decide ((r.slots.getD i LogCopy.blank).stores < 1000000)

/-- SEQ of the newest valid copy. -/
def LogRec.seq (r : LogRec) : Nat := match newestOf r.slots with
  | some c => c.seq
  | none => 0

/-- SEQ of a slot; a slot without a valid copy comes before every other. -/
def LogRec.seqAt (r : LogRec) (i : Nat) : Nat :=
  let c := r.slots.getD i LogCopy.blank
  if c.data.isSome then c.seq else 0

/-- The 32-byte copy header and the payload, as they stand in a slot (R530). -/
def copyBytes (id seq : Nat) (bs : List Byte) : List Byte :=
  let h := leBytes 2 id ++ leBytes 2 bs.length ++ leBytes 4 0 ++ leBytes 8 seq
  h ++ leBytes 4 (crc32c (h ++ bs)).toNat ++ List.replicate 12 0 ++ bs

/-- A store into one copy slot: SEQ + 1 (R530). -/
def LogRec.putSlot (r : LogRec) (i now : Nat) (bs : List Byte) : LogRec :=
  { slots := lset r.slots i { seq := r.seq + 1, stores := (r.slots.getD i LogCopy.blank).stores + 1, data := some bs }, last := some now }

/-- A store into the usable slot of lowest SEQ; refused with fewer than two usable slots (R530, R532). -/
def LogRec.store (r : LogRec) (now : Nat) (bs : List Byte) : Code × LogRec :=
  if r.usable.length < 2 then (E.flashWorn, r)
  else match minBy (fun i => r.seqAt i) r.usable with
    | none => (E.flashWorn, r)
    | some i => (E.ok, r.putSlot i now bs)

/-- A record after a store; source 264 fires (R550). -/
def State.setLog (s : State) (id : Nat) (r : LogRec) : State :=
  ({ s with boot := { s.boot with log := tset LogRec.empty id r s.boot.log } } : State).fire 264

/-- A LOGBOOK_STORE crossing of one record opens and commits (R288, R292, R298, R533): other crossings that hold the record abort. -/
def State.logStore (s : State) (id : Nat) (bs : List Byte) : Code × State :=
  if s.freeFwEntry.isNone then (E.xingFull, s.xingFull)
  else match (s.logRec id).store s.aoc bs with
    | (c, r) => if c = E.ok then (E.ok, ((s.beats [] [.logbook id]).setLog id r).count 0x1040) else (c, s)

/-- A firmware store: it waits within a second of the last one (R533), and a refused one leaves the value in force. Log 82: DEDUCED,
unsafe. -/
def State.logFirmware (s : State) (id : Nat) (bs : List Byte) : State :=
  if s.logBusy id then s else (s.logStore id bs).2

/-! ### FLASH_ROOT and LIFETIME (R328, R529; payload layouts log 41, DESIGN CHOICE, unsafe) -/

/-- FLASH_ROOT: map root and journal head, whose values the manual leaves open, and the wrapped key (R331, R529). -/
def flashRootBytes (root head : W64) (key : List Byte) : List Byte :=
  leBytes 8 root.toNat ++ leBytes 8 head.toNat ++ slice key 0 72 ++ List.replicate 8 0

/-- The wrapped key that FLASH_ROOT holds. -/
def State.wrappedKey (s : State) : List Byte := slice (s.logValue Rec.flashRoot) 16 72

/-- MAP_CHECKPOINT: at most once per 60 s the translation-map root is stored, and the journal starts anew (R326, R529). -/
def execMapCheckpoint (s : State) : Outc :=
  .next (
    let early := match s.ms.flash.lastCheckpoint with
      | some t => decide (s.aoc < t + 1500000000)
      | none => false
    if !s.live || !s.ms.flash.powered || early || s.logBusy Rec.flashRoot then s
    else
      let (a, s) := s.takeFree
      let (b, s) := s.takeFree
      match s.logStore Rec.flashRoot (flashRootBytes a b s.wrappedKey) with
      | (c, t) =>
        if c ≠ E.ok then t
        else t.updFlash fun f => { f with root := f.map, journal := [], lastCheckpoint := some s.aoc })

/-- LIFETIME: bytes written to flash and the largest erase count (R328). -/
def State.lifetimeBytes (s : State) : List Byte :=
  let f := s.ms.flash
  leBytes 8 f.lifetimeBytes ++ leBytes 8 (f.blocks.foldl (fun n e => Nat.max n e.2.erases) 0) ++ List.replicate 112 0

/-- LIFETIME_STORE (R529). -/
def execLifetimeStore (s : State) : Outc :=
  .next (if s.live then s.logFirmware Rec.lifetime s.lifetimeBytes else s)

end Sys2Proof.Machine
end

