-- ==== Sys2Proof/Machine/Zstd.lean ====
section
/-! DEFINITION. Zstandard frames (RFC 8878, which R281 names): the decoder of the frames that R281 allows, and the frame that a
compression engine writes. -/

namespace Sys2Proof.Machine

/-! ### Bits -/

/-- Bits of bytes, the lowest bit of the first byte first. -/
def bitsUp (bs : List Byte) : List Bool := bs.flatMap fun b => (List.range 8).map b.getLsbD

/-- Bits of a backward stream, in the order they are read: from the last byte's highest bit down, after the marker bit. -/
def bitsDown (bs : List Byte) : Option (List Bool) :=
  match (bitsUp bs).reverse.dropWhile (fun b => !b) with
  | true :: r => if bs.getLast? = some 0 then none else some r
  | _ => none

/-- A number whose highest bit comes first. -/
def natDown (l : List Bool) : Nat := l.foldl (fun n b => 2 * n + b.toNat) 0
/-- A number whose lowest bit comes first. -/
def natUp (l : List Bool) : Nat := natDown l.reverse

/-- Takes `n` bits of a backward stream; past its end they are zero. -/
def padTake (n : Nat) (l : List Bool) : Nat := natDown (l.take n ++ List.replicate (n - l.length) false)

/-- Takes `n` bits of a backward stream, or none when it has fewer. -/
def takeDown (n : Nat) (l : List Bool) : Option (Nat × List Bool) :=
  if l.length < n then none else some (natDown (l.take n), l.drop n)

/-! ### Entropy tables -/

/-- An entry of a finite-state table: symbol, bits to read, base of the next state. -/
abbrev FseCell := Nat × Nat × Nat

/-- A finite-state table: its accuracy and its cells. -/
structure Fse where
  log : Nat
  cells : List FseCell
deriving DecidableEq, Repr

/-- The places that symbols take in turn, those of the "less than 1" symbols left out. -/
def fseSpots (log high : Nat) : List Nat :=
  let size := 2 ^ log
  let step := size / 2 + size / 8 + 3
  ((List.range size).map fun i => i * step % size).filter fun p => p < high

/-- A table from normalised counts; -1 stands for "less than 1". -/
def Fse.build (log : Nat) (counts : List Int) : Fse :=
  let size := 2 ^ log
  let syms := counts.zip (List.range counts.length)
  let low := (syms.filter fun x => x.1 == -1).map Prod.snd
  let high := size - low.length
  let spread := (syms.flatMap fun x => List.replicate x.1.toNat x.2).zip (fseSpots log high)
  let symbol (i : Nat) : Nat :=
    if high ≤ i then low.getD (size - 1 - i) 0 else ((spread.find? fun x => x.2 == i).map Prod.fst).getD 0
  let walk := (List.range size).foldl (fun (acc : List FseCell × List (Nat × Nat)) i =>
    let sym := symbol i
    let c := counts.getD sym 0
    let next := (tget (if c = -1 then 1 else c.toNat) sym acc.2)
    let nb := log - Nat.log2 next
    (acc.1 ++ [(sym, nb, next * 2 ^ nb - size)], tset 0 sym (next + 1) acc.2)) ([], [])
  { log := log, cells := walk.1 }

/-- A table with one symbol. -/
def Fse.one (sym : Nat) : Fse := { log := 0, cells := [(sym, 0, 0)] }

def Fse.cell (f : Fse) (state : Nat) : FseCell := f.cells.getD state (0, 0, 0)

/-- Symbols of probability zero that the 2-bit flags repeat. -/
def fseZeros : Nat → List Bool → Nat × List Bool
  | 0, l => (0, l)
  | k + 1, l =>
    let n := natUp (l.take 2)
    if n = 3 then let r := fseZeros k (l.drop 2); (3 + r.1, r.2) else (n, l.drop 2)

/-- Normalised counts, until their sum reaches the size of the table. -/
def fseCounts : Nat → Nat → List Int → List Bool → Option (List Int × List Bool)
  | _, 0, acc, l => some (acc, l)
  | 0, _, _, _ => none
  | k + 1, left, acc, l =>
    let nb := Nat.log2 (left + 1) + 1
    let v := natUp (l.take nb)
    let thr := 2 ^ nb - 1 - (left + 1)
    let short := decide (v % 2 ^ (nb - 1) < thr)
    let val := if short then v % 2 ^ (nb - 1) else if 2 ^ (nb - 1) ≤ v then v - thr else v
    let l' := l.drop (if short then nb - 1 else nb)
    if l.length < nb - 1 then none
    else if val = 0 then fseCounts k (left - 1) (acc ++ [-1]) l'
    else if left < val - 1 then none
    else if val = 1 then
      let z := fseZeros 256 l'
      fseCounts k left (acc ++ List.replicate (1 + z.1) 0) z.2
    else fseCounts k (left - (val - 1)) (acc ++ [(val : Int) - 1]) l'

/-- A table description, and the bytes that follow it. -/
def Fse.read (maxLog maxSyms : Nat) (bs : List Byte) : Option (Fse × List Byte) :=
  let l := bitsUp bs
  let log := natUp (l.take 4) + 5
  if bs.isEmpty || maxLog < log then none
  else match fseCounts 256 (2 ^ log) [] (l.drop 4) with
    | none => none
    | some (cs, r) => if maxSyms < cs.length then none else some (Fse.build log cs, bs.drop ((l.length - r.length + 7) / 8))

/-! ### Huffman codes -/

/-- Symbols of two interleaved states, until the stream is used up. -/
def fsePair (f : Fse) : Nat → Nat → Nat → List Bool → List Nat → List Nat
  | 0, _, _, _, acc => acc.reverse
  | k + 1, a, b, l, acc =>
    let c := f.cell a
    if l.length < c.2.1 then (f.cell b).1 :: c.1 :: acc |>.reverse
    else fsePair f k b (c.2.2 + natDown (l.take c.2.1)) (l.drop c.2.1) (c.1 :: acc)

/-- The weights of a Huffman tree description, and the bytes that follow it. -/
def hufWeights (bs : List Byte) : Option (List Nat × List Byte) :=
  match bs with
  | [] => none
  | h :: r =>
    let h := h.toNat
    if 128 ≤ h then
      let n := h - 127
      let m := (n + 1) / 2
      if r.length < m then none
      else some (((r.take m).flatMap fun b => [b.toNat / 16, b.toNat % 16]).take n, r.drop m)
    else if r.length < h then none
    else match Fse.read 6 256 (r.take h) with
      | none => none
      | some (f, rest) => match bitsDown rest with
        | none => none
        | some l =>
          let ws := fsePair f 255 (padTake f.log l) (padTake f.log (l.drop f.log)) (l.drop (2 * f.log)) []
          if l.length < 2 * f.log then none else some (ws, r.drop h)

/-- A Huffman code: its longest length, and for each symbol with a code its length and its first place in a table of that many bits. -/
structure Huf where
  bits : Nat
  codes : List (Nat × Nat × Nat)
deriving DecidableEq, Repr

/-- The code of a list of weights, the last of which is not written. -/
def Huf.build (ws : List Nat) : Option Huf :=
  let sum := ws.foldl (fun n w => if w = 0 then n else n + 2 ^ (w - 1)) 0
  let max := Nat.log2 sum + 1
  let left := 2 ^ max - sum
  if sum = 0 || 11 < max || left != 2 ^ Nat.log2 left then none
  else
    let ws := ws ++ [Nat.log2 left + 1]
    let order := (List.range max).flatMap fun i => (ws.zip (List.range ws.length)).filter fun x => x.1 == i + 1
    some { bits := max, codes := (order.foldl (fun (a : List (Nat × Nat × Nat) × Nat) x =>
      ((x.2, max + 1 - x.1, a.2) :: a.1, a.2 + 2 ^ (x.1 - 1))) ([], 0)).1.reverse }

/-- `n` symbols of a backward stream, which they use up. -/
def Huf.decode (h : Huf) : Nat → List Bool → List Byte → Option (List Byte)
  | 0, l, acc => if l.isEmpty then some acc.reverse else none
  | n + 1, l, acc =>
    let v := padTake h.bits l
    match h.codes.find? fun c => decide (c.2.2 ≤ v ∧ v < c.2.2 + 2 ^ (h.bits - c.2.1)) with
    | none => none
    | some c => if l.length < c.2.1 then none else h.decode n (l.drop c.2.1) (BitVec.ofNat 8 c.1 :: acc)

def Huf.stream (h : Huf) (n : Nat) (bs : List Byte) : Option (List Byte) :=
  match bitsDown bs with
  | none => none
  | some l => h.decode n l []

/-- Literals of four streams behind a jump table. -/
def Huf.four (h : Huf) (n : Nat) (bs : List Byte) : Option (List Byte) :=
  let a := fld bs 0 2
  let b := fld bs 2 2
  let c := fld bs 4 2
  let q := (n + 3) / 4
  let r := bs.drop 6
  if r.length < a + b + c + 1 || n < 3 * q then none
  else match h.stream q (r.take a), h.stream q ((r.drop a).take b), h.stream q ((r.drop (a + b)).take c),
      h.stream (n - 3 * q) (r.drop (a + b + c)) with
    | some w, some x, some y, some z => some (w ++ x ++ y ++ z)
    | _, _, _, _ => none

/-! ### Blocks -/

/-- What a frame carries from block to block: the output with its newest byte first, the last Huffman code, the last tables of literal
lengths, offsets and match lengths, and the three repeated offsets. -/
structure ZState where
  out : List Byte
  huf : Option Huf
  tables : List (Option Fse)
  reps : List Nat

def ZState.start : ZState := { out := [], huf := none, tables := [none, none, none], reps := [1, 4, 8] }

/-- The literals section: the literals and the bytes that follow it. -/
def ZState.literals (z : ZState) (bs : List Byte) : Option (List Byte × ZState × List Byte) :=
  let b0 := fld bs 0 1
  let ty := b0 % 4
  let sf := b0 / 4 % 4
  if bs.isEmpty then none
  else if ty < 2 then
    let x := if sf = 1 then (2, fld bs 0 2 / 16) else if sf = 3 then (3, fld bs 0 3 / 16) else (1, b0 / 8)
    let r := bs.drop x.1
    if ty = 0 then if r.length < x.2 then none else some (r.take x.2, z, r.drop x.2)
    else match r with
      | [] => none
      | b :: r => some (List.replicate x.2 b, z, r)
  else
    let x := if sf < 2 then (3, 10) else if sf = 2 then (4, 14) else (5, 18)
    let h := fld bs 0 x.1 / 16
    let size := h % 2 ^ x.2
    let comp := h / 2 ^ x.2 % 2 ^ x.2
    let body := (bs.drop x.1).take comp
    if bs.length < x.1 + comp then none
    else
      let code := if ty = 3 then z.huf.map fun h => (h, body)
        else match hufWeights body with
          | none => none
          | some (ws, r) => (Huf.build ws).map fun h => (h, r)
      match code with
      | none => none
      | some (h, r) =>
        (if sf = 0 then h.stream size r else h.four size r).map fun ls => (ls, { z with huf := some h }, bs.drop (x.1 + comp))

/-- The predefined distributions of literal lengths, offsets and match lengths. -/
def zDefault : Nat → Fse
  | 0 => Fse.build 6 ([4, 3, 2, 2, 2, 2, 2, 2, 2, 2, 2, 2, 2, 1, 1, 1] ++ List.replicate 9 2 ++ [3, 2, 1, 1, 1, 1, 1, -1, -1, -1, -1])
  | 1 => Fse.build 5 ([1, 1, 1, 1, 1, 1, 2, 2, 2] ++ List.replicate 15 1 ++ List.replicate 5 (-1))
  | _ => Fse.build 6 ([1, 4, 3, 2, 2, 2, 2, 2, 2] ++ List.replicate 37 1 ++ List.replicate 7 (-1))

/-- Greatest accuracy and symbols of each table. -/
def zLimits : Nat → Nat × Nat
  | 0 => (9, 36) | 1 => (8, 32) | _ => (9, 53)

/-- A table of the sequences section: predefined, one symbol, described, or that of the block before. -/
def zTable (i mode : Nat) (old : Option Fse) (bs : List Byte) : Option (Fse × List Byte) :=
  match mode with
  | 0 => some (zDefault i, bs)
  | 1 => match bs with
    | [] => none
    | b :: r => if b.toNat < (zLimits i).2 then some (Fse.one b.toNat, r) else none
  | 2 => Fse.read (zLimits i).1 (zLimits i).2 bs
  | _ => old.map fun f => (f, bs)

/-- Base and extra bits of a literal-length code. -/
def llCode (c : Nat) : Nat × Nat :=
  if c < 16 then (c, 0) else if c < 20 then (16 + 2 * (c - 16), 1) else if c < 22 then (24 + 4 * (c - 20), 2)
  else if c < 24 then (32 + 8 * (c - 22), 3) else if c = 24 then (48, 4) else (2 ^ (c - 19), c - 19)

/-- Base and extra bits of a match-length code. -/
def mlCode (c : Nat) : Nat × Nat :=
  if c < 32 then (c + 3, 0) else if c < 36 then (35 + 2 * (c - 32), 1) else if c < 38 then (43 + 4 * (c - 36), 2)
  else if c < 40 then (51 + 8 * (c - 38), 3) else if c < 42 then (67 + 16 * (c - 40), 4) else if c = 42 then (99, 5)
  else (2 ^ (c - 36) + 3, c - 36)

/-- The offset of a match, and the repeated offsets after it; none for an offset of zero. -/
def zOffset (reps : List Nat) (v : Nat) (noLits : Bool) : Option (Nat × List Nat) :=
  let a := reps.getD 0 0
  let b := reps.getD 1 0
  let c := reps.getD 2 0
  if 3 < v then some (v - 3, [v - 3, a, b])
  else match v - 1 + noLits.toNat with
    | 0 => some (a, [a, b, c])
    | 1 => some (b, [b, a, c])
    | 2 => some (c, [c, a, b])
    | _ => if a ≤ 1 then none else some (a - 1, [a - 1, a, b])

/-- `n` bytes of a match are copied one by one from `off` bytes back. -/
def zCopy (off : Nat) : Nat → List Byte → List Byte
  | 0, out => out
  | n + 1, out => zCopy off n (out.getD (off - 1) 0 :: out)

/-- Sequences are decoded and run: `n` are left, with the states of the three tables. -/
def zRun (ll of ml : Fse) : Nat → Nat × Nat × Nat → List Bool → List Byte → ZState → Option (List Byte × ZState)
  | 0, _, l, lits, z => if l.isEmpty then some (lits, z) else none
  | n + 1, st, l, lits, z =>
    let cl := ll.cell st.1
    let co := of.cell st.2.1
    let cm := ml.cell st.2.2
    match takeDown co.1 l with
    | none => none
    | some (ob, l) => match takeDown (mlCode cm.1).2 l with
      | none => none
      | some (mb, l) => match takeDown (llCode cl.1).2 l with
        | none => none
        | some (lb, l) =>
          let nl := (llCode cl.1).1 + lb
          match zOffset z.reps (2 ^ co.1 + ob) (nl == 0) with
          | none => none
          | some (off, reps) =>
            if lits.length < nl then none
            else
              let out := (lits.take nl).reverse ++ z.out
              if out.length < off then none
              else
                let z := { z with out := zCopy off ((mlCode cm.1).1 + mb) out, reps := reps }
                if n = 0 then zRun ll of ml n st l (lits.drop nl) z
                else match takeDown cl.2.1 l with
                  | none => none
                  | some (a, l) => match takeDown cm.2.1 l with
                    | none => none
                    | some (c, l) => match takeDown co.2.1 l with
                      | none => none
                      | some (b, l) => zRun ll of ml n (cl.2.2 + a, co.2.2 + b, cm.2.2 + c) l (lits.drop nl) z

/-- The number of sequences, and the bytes that follow it. -/
def zCount (bs : List Byte) : Option (Nat × List Byte) :=
  let b0 := fld bs 0 1
  if bs.isEmpty then none
  else if b0 < 128 then some (b0, bs.drop 1)
  else if b0 < 255 then if bs.length < 2 then none else some ((b0 - 128) * 256 + fld bs 1 1, bs.drop 2)
  else if bs.length < 3 then none else some (fld bs 1 2 + 0x7F00, bs.drop 3)

/-- The sequences section of a block, run over its literals. -/
def ZState.sequences (z : ZState) (lits bs : List Byte) : Option ZState :=
  match zCount bs with
  | none => none
  | some (0, r) => if r.isEmpty then some { z with out := lits.reverse ++ z.out } else none
  | some (n, []) => if n = 0 then none else none
  | some (n, mode :: r) =>
    let m := mode.toNat
    if m % 4 ≠ 0 then none
    else match zTable 0 (m / 64) (z.tables.getD 0 none) r with
      | none => none
      | some (ll, r) => match zTable 1 (m / 16 % 4) (z.tables.getD 1 none) r with
        | none => none
        | some (of, r) => match zTable 2 (m / 4 % 4) (z.tables.getD 2 none) r with
          | none => none
          | some (ml, r) => match bitsDown r with
            | none => none
            | some l => match takeDown ll.log l with
              | none => none
              | some (a, l) => match takeDown of.log l with
                | none => none
                | some (b, l) => match takeDown ml.log l with
                  | none => none
                  | some (c, l) =>
                    (zRun ll of ml n (a, b, c) l lits { z with tables := [some ll, some of, some ml] }).map fun x =>
                      { x.2 with out := x.1.reverse ++ x.2.out }

/-- A block's output in a frame of `size` bytes: at most 128 KiB, and never past the frame's content. -/
def ZState.block (z : ZState) (ty n size : Nat) (bs : List Byte) : Option (ZState × List Byte) :=
  let limit := Nat.min size 0x20000
  let fits (x : ZState) := decide (x.out.length ≤ z.out.length + limit ∧ x.out.length ≤ size)
  if limit < n then none
  else match ty with
    | 0 =>
      let x := { z with out := (bs.take n).reverse ++ z.out }
      if bs.length < n || !fits x then none else some (x, bs.drop n)
    | 1 => match bs with
      | [] => none
      | b :: r =>
        let x := { z with out := List.replicate n b ++ z.out }
        if fits x then some (x, r) else none
    | 2 =>
      if bs.length < n then none
      else match z.literals (bs.take n) with
        | none => none
        | some (lits, z', r) => match z'.sequences lits r with
          | none => none
          | some x => if fits x then some (x, bs.drop n) else none
    | _ => none

/-- The blocks of a frame, until the last; answers the content and the bytes that follow. -/
def zBlocks (size : Nat) : Nat → ZState → List Byte → Option (List Byte × List Byte)
  | 0, _, _ => none
  | k + 1, z, bs =>
    let h := fld bs 0 3
    if bs.length < 3 then none
    else match z.block (h / 2 % 4) (h / 8) size (bs.drop 3) with
      | none => none
      | some (z, r) => if h % 2 = 1 then some (z.out.reverse, r) else zBlocks size k z r

/-! ### The content checksum: XXH64 with seed 0 -/

def xxP1 : W64 := 0x9E3779B185EBCA87
def xxP2 : W64 := 0xC2B2AE3D27D4EB4F
def xxP3 : W64 := 0x165667B19E3779F9
def xxP4 : W64 := 0x85EBCA77C2B2AE63
def xxP5 : W64 := 0x27D4EB2F165667C5

def xxRound (acc w : W64) : W64 := (acc + w * xxP2).rotateLeft 31 * xxP1
def xxMerge (h acc : W64) : W64 := (h ^^^ xxRound 0 acc) * xxP1 + xxP4

/-- The four lanes over whole 32-byte stripes; answers them and the bytes left. -/
def xxStripes : Nat → List W64 → List Byte → List W64 × List Byte
  | 0, v, bs => (v, bs)
  | k + 1, v, bs =>
    xxStripes k ((List.range 4).map fun i => xxRound (v.getD i 0) (BitVec.ofNat 64 (fld bs (8 * i) 8))) (bs.drop 32)

/-- The bytes after the stripes: words of eight, of four, then single bytes. -/
def xxTail : Nat → W64 → List Byte → W64
  | 0, h, _ => h
  | k + 1, h, bs =>
    if 8 ≤ bs.length then
      xxTail k ((h ^^^ xxRound 0 (BitVec.ofNat 64 (fld bs 0 8))).rotateLeft 27 * xxP1 + xxP4) (bs.drop 8)
    else if 4 ≤ bs.length then
      xxTail k ((h ^^^ BitVec.ofNat 64 (fld bs 0 4) * xxP1).rotateLeft 23 * xxP2 + xxP3) (bs.drop 4)
    else match bs with
      | [] => h
      | b :: r => xxTail k ((h ^^^ b.setWidth 64 * xxP5).rotateLeft 11 * xxP1) r

def xxh64 (bs : List Byte) : W64 :=
  let x := xxStripes (bs.length / 32) [xxP1 + xxP2, xxP2, 0, 0 - xxP1] bs
  let v (i : Nat) : W64 := x.1.getD i 0
  let h := if bs.length < 32 then xxP5
    else
      let h := (v 0).rotateLeft 1 + (v 1).rotateLeft 7 + (v 2).rotateLeft 12 + (v 3).rotateLeft 18
      xxMerge (xxMerge (xxMerge (xxMerge h (v 0)) (v 1)) (v 2)) (v 3)
  let h := xxTail 31 (h + BitVec.ofNat 64 bs.length) x.2
  let h := (h ^^^ h >>> 33) * xxP2
  let h := (h ^^^ h >>> 29) * xxP3
  h ^^^ h >>> 32

/-! ### Frames (R281, R282) -/

def zMagic : Nat := 0xFD2FB528

/-- Bytes of Frame_Content_Size, with what it adds. -/
def zSizeField (desc : Nat) : Nat × Nat := match desc / 64 with
  | 0 => (1, 0) | 1 => (2, 256) | 2 => (4, 0) | _ => (8, 0)

/-- The frame descriptor has the properties of R281: a single segment, with its size and a checksum, and no dictionary; its reserved bit is
zero. -/
def zProps (desc : Nat) : Bool := desc / 32 % 2 == 1 && desc / 8 % 2 == 0 && desc / 4 % 2 == 1 && desc % 4 == 0

/-- The content of a frame, or none when it is not one that R281 describes, is malformed or fails its checksum (R282; log 112, DESIGN
CHOICE, safe). -/
def zstdPage (bs : List Byte) : Option (List Byte) :=
  let desc := fld bs 4 1
  let f := zSizeField desc
  let size := fld bs 5 f.1 + f.2
  if bs.length < 5 + f.1 || fld bs 0 4 != zMagic || !zProps desc || 2097152 < size then none
  else match zBlocks size bs.length ZState.start (bs.drop (5 + f.1)) with
    | none => none
    | some (page, r) =>
      if page.length = size ∧ r.length = 4 ∧ fld r 0 4 = (xxh64 page).toNat % 2 ^ 32 then some page else none

/-- A frame of raw blocks. -/
def zRawBlocks : Nat → List Byte → List Byte
  | 0, _ => []
  | k + 1, bs =>
    let n := Nat.min bs.length 0x20000
    let last := decide (bs.length ≤ 0x20000)
    leBytes 3 (8 * n + last.toNat) ++ bs.take n ++ (if last then [] else zRawBlocks k (bs.drop n))

def zRawFrame (bs : List Byte) : List Byte :=
  leBytes 4 zMagic ++ [0xA4] ++ leBytes 4 bs.length ++ zRawBlocks (bs.length + 1) bs ++ leBytes 4 (xxh64 bs).toNat

/-- The frame that a compression engine writes: the device's own compressed bytes, which the manual does not define, so long as they are a
frame of R281 that holds the page (log 112, DESIGN CHOICE, safe). -/
def zstdFrame (bs : List Byte) : List Byte := if zstdPage (zstdBytes bs) = some bs then zstdBytes bs else zRawFrame bs

end Sys2Proof.Machine
end

