-- ==== Sys2Proof/Machine/Identity.lean ====
section
/-! DEFINITION. Keys, the IDENTITY record (R566 to R570) and the verification of images and configuration records (R514 to R517,
R525). -/

namespace Sys2Proof.Machine

/-! ### Keys (R566, R567) -/

def asciiBytes (s : String) : List Byte := s.toList.map fun c => BitVec.ofNat 8 c.toNat
def seedBytes : List Byte := (List.range 32).map fusedSeed
/-- The private identity key (R566). -/
def identityPriv : List Byte := slice (sha512 (asciiBytes "MBF-AZ-ID" ++ seedBytes)) 0 32
/-- The identity public key. -/
def identityKey : List Byte := Ed.publicKey identityPriv
/-- The wrapping key (R566). -/
def wrappingKey : List Byte := slice (sha512 (asciiBytes "MBF-AZ-WRAP" ++ seedBytes)) 0 32
/-- The vendor key in the boot ROM. -/
def vendorPub : List Byte := (List.range 32).map vendorKey

/-! ### The flash XTS key (R331, R566) -/

/-- The flash XTS key's 72 wrapped bytes: a fresh key from the random source. -/
def State.freshKey (s : State) : List Byte × State :=
  let (k, s) := s.takeRandom 64
  (Aes.wrap wrappingKey k, s)

/-- The XTS key in force, which the identity unit unwraps (R567). -/
def State.xtsKey (s : State) : Option (List Byte) := Aes.unwrap wrappingKey s.wrappedKey

/-- Data unit `n` of the tier as the flash holds it: its 4,096 bytes encrypted, with the logical unit number as tweak. -/
def State.cipherUnit (s : State) (n : Nat) : List Byte :=
  Aes.xtsEncrypt (s.xtsKey.getD []) n (rdBytes s.ms.mem (flashBase + 4096 * n) 4096)

/-- Data unit `i` of a compressed page: the frame padded with zeros, under the tweak of the page's first unit + i. -/
def State.cipherFrame (s : State) (page i : Nat) : List Byte :=
  Aes.xtsEncrypt (s.xtsKey.getD []) (16 * page + i) (slice (zstdFrame (rdBytes s.ms.mem (flashAddr page) 0x10000)) (4096 * i) 4096)

/-- Every logical unit reads as zeros and every block that held data counts as invalid until it is erased (R575, R583). -/
def State.eraseTier (s : State) : State :=
  let s := s.updMs fun m => { m with mem := m.mem.filter fun c => decide (c.1 < flashBase), flashBad := [] }
  s.updFlash fun f =>
    { f with map := [], root := [], journal := [], sizes := [], skip := [], openBlock := none
             blocks := f.blocks.map fun b => (b.1, if b.2.st = .valid then { b.2 with st := .invalid } else b.2) }

/-! ### The IDENTITY record (R569) -/

/-- The stored owner key, none when none is enrolled. -/
def State.storedOwner (s : State) : Option (List Byte) :=
  match (s.logRec Rec.identity).payload with
  | none => none
  | some p => if bits (fld p 64 4) 0 1 = 1 then some (slice p 32 32) else none

def State.enrolCount (s : State) : Nat := fld (s.logValue Rec.identity) 68 4

/-- The IDENTITY payload with an owner. -/
def identityBytes (owner : List Byte) (count : Nat) : List Byte :=
  identityKey ++ slice owner 0 32 ++ leBytes 4 1 ++ leBytes 4 count ++ List.replicate 24 0

/-- The rollback counter (R531). -/
def State.rollback (s : State) : Nat :=
  match (s.logRec Rec.rollback).payload with
  | none => 0xFFFFFFFF
  | some p => fld p 0 4

/-! ### The image header (R514, R515) -/

def imageMagic : List Byte := [0x4D, 0x42, 0x46, 0x2D, 0x49, 0x4D, 0x47, 0x31]

def zerosIn (b : List Byte) (i n : Nat) : Bool := (slice b i n).all fun x => x == 0

/-- A component entry. -/
structure Comp where
  type : Nat
  build : Nat
  off : Nat
  size : Nat
  digest : List Byte
  raw : List Byte
deriving DecidableEq, Repr

def compOf (h : List Byte) (k : Nat) : Comp :=
  let e := slice h (64 + 80 * k) 80
  { type := fld e 0 1, build := fld e 4 4, off := fld e 8 4, size := fld e 12 4, digest := slice e 16 64, raw := e }

def imgVersion (h : List Byte) : Nat := fld h 12 4
def imgFloor (h : List Byte) : Nat := fld h 16 4
def imgLength (h : List Byte) : Nat := fld h 20 4
def imgComponents (h : List Byte) : Nat := fld h 24 2
def imgPairs (h : List Byte) : Nat := fld h 26 2
def imgConfigOff (h : List Byte) : Nat := fld h 28 4
def imgConfigLen (h : List Byte) : Nat := fld h 32 4

def compsOf (h : List Byte) : List Comp := (List.range (imgComponents h)).map (compOf h)

/-- Numbers, counts and reserved bytes of a header. -/
def headerNumbersOk (h : List Byte) : Bool :=
  slice h 0 8 == imageMagic && fld h 8 4 == 1 && decide (8192 ≤ imgLength h) && decide (imgLength h ≤ 33554432) &&
  decide (4 ≤ imgComponents h) && decide (imgComponents h ≤ 16) && decide (1 ≤ imgPairs h) && decide (imgPairs h ≤ 64) &&
  decide (imgConfigLen h ≤ 65536) && imgConfigLen h % 4 == 0 && imgConfigOff h % 4096 == 0 && zerosIn h 36 28 &&
  zerosIn h (64 + 80 * imgComponents h) (1280 - 80 * imgComponents h) &&
  zerosIn h (1344 + 24 * imgPairs h) (1536 - 24 * imgPairs h) && zerosIn h 2880 1088 &&
  (List.range (imgPairs h)).all fun t => zerosIn h (1344 + 24 * t + 18) 6

/-- No two ranges of a list meet. -/
def rangesApart : List (Nat × Nat) → Bool
  | [] => true
  | r :: rs => rs.all (fun q => !meet r.1 r.2 q.1 q.2) && rangesApart rs

/-- Component entries and where everything lies. -/
def componentsOk (h : List Byte) : Bool :=
  let cs := compsOf h
  cs.all (fun c => decide (1 ≤ c.type) && decide (c.type ≤ 5) && zerosIn c.raw 1 3 && c.off % 4096 == 0 && decide (1 ≤ c.size)) &&
  ([1, 2, 3, 4] : List Nat).all (fun t => (cs.filter fun c => c.type == t).length == 1) &&
  (let rs := (0, 4096) :: (imgConfigOff h, imgConfigLen h) :: cs.map fun c => (c.off, c.size)
   rs.all (fun r => decide (r.1 + r.2 ≤ imgLength h)) && rangesApart rs)

/-- Builds of the own tuple: CF, SQ, LK, FT (R515). -/
def imgBuilds (h : List Byte) : List Nat :=
  ([1, 2, 3, 4] : List Nat).map fun t => (((compsOf h).find? fun c => c.type == t).map Comp.build).getD 0

/-- The image pairs (R515). -/
def imgPairsOk (h : List Byte) : Bool :=
  (List.range (imgPairs h)).any fun t =>
    let e := slice h (1344 + 24 * t) 24
    (List.range 4).map (fun i => fld e (4 * i) 4) == imgBuilds h && fld e 16 2 == 0x00B0

def imgConfig (b : List Byte) : List Byte := slice b (imgConfigOff b) (imgConfigLen b)

def imgDigestsOk (b : List Byte) : Bool := (compsOf b).all fun c => sha512 (slice b c.off c.size) == c.digest
def imgVendorOk (b : List Byte) : Bool := Ed.verify vendorPub (slice b 0 3968) (slice b 3968 64)
def imgOwnerOk (b owner : List Byte) : Bool := Ed.verify owner (imgConfig b) (slice b 4032 64)

/-! ### The configuration record (R525) -/

/-- Entries as (TYPE, value); none when they do not end exactly at the record's end or padding is not zero. -/
def tlvEntries : Nat → List Byte → Option (List (Nat × List Byte))
  | _, [] => some []
  | 0, _ => none
  | n + 1, b =>
    let len := fld b 2 2
    let whole := 4 + roundUp len 4
    if b.length < 4 ∨ b.length < whole ∨ !zerosIn b (4 + len) (roundUp len 4 - len) then none
    else (tlvEntries n (b.drop whole)).map fun r => (fld b 0 2, slice b 4 len) :: r

/-- Listed types with their lengths. -/
def tlvTypes : List (Nat × Nat) :=
  [ (0x0001, 1), (0x0002, 1), (0x0003, 1), (0x0004, 1), (0x0005, 1), (0x0010, 2), (0x0011, 16), (0x0012, 2), (0x0013, 2)
  , (0x0014, 2), (0x0015, 6), (0x0020, 1) ]

def tlvTypeOk (e : Nat × List Byte) : Bool :=
  match tlvTypes.find? fun t => t.1 == e.1 with
  | some t => e.2.length == t.2
  | none => decide (0x8000 ≤ e.1)

def noRepeats : List Nat → Bool
  | [] => true
  | x :: r => !r.contains x && noRepeats r

/-- Entries of a well-formed record. -/
def configEntries (rec_ : List Byte) : Option (List (Nat × List Byte)) :=
  match tlvEntries rec_.length rec_ with
  | none => none
  | some es => if es.all tlvTypeOk && noRepeats (es.map Prod.fst) then some es else none

/-- A value lies in its range. -/
def tlvInRange (e : Nat × List Byte) : Bool :=
  let v := leNat e.2
  match e.1 with
  | 0x0001 => decide (v ≤ 16)
  | 0x0002 => decide (v ≤ 1)
  | 0x0003 => decide (1 ≤ v)
  | 0x0004 => decide (1 ≤ v)
  | 0x0005 => decide (1 ≤ v)
  | 0x0010 => decide (v ≤ 32767)
  | 0x0011 => e.2.all fun b => decide (b.toNat ≤ 3)
  | 0x0013 => decide (0x0600 ≤ v)
  | 0x0014 => decide (v ≤ 4094)
  | 0x0015 => bits v 0 1 == 1
  | 0x0020 => decide (v ≤ 32)
  | _ => true

/-- One entry takes effect. -/
def ConfigRec.put (c : ConfigRec) (e : Nat × List Byte) : ConfigRec :=
  let v := leNat e.2
  match e.1 with
  | 0x0001 => { c with reservedCores := v }
  | 0x0002 => { c with standingHost := v }
  | 0x0003 => { c with mainShare := v }
  | 0x0004 => { c with standingShare := v }
  | 0x0005 => { c with deviceShare := v }
  | 0x0010 => { c with peerId := some v }
  | 0x0011 => { c with portMode := e.2.map fun b => b.toNat }
  | 0x0012 => { c with portKind := v }
  | 0x0013 => { c with etherType := v }
  | 0x0014 => { c with vlan := v }
  | 0x0015 => { c with discoveryMac := BitVec.ofNat 48 (leNat e.2.reverse) }
  | 0x0020 => { c with moorStaging := v }
  | _ => c

/-- The settings of a boot: defaults with no owner enrolled (R517, R525). -/
def configFor (owner : Option (List Byte)) (config : List Byte) : ConfigRec :=
  match owner, configEntries config with
  | some _, some es => es.foldl ConfigRec.put ConfigRec.default
  | _, _ => ConfigRec.default

/-! ### Verification (R516) -/

/-- The checks of R516 after the reads. -/
def imageCode (b : List Byte) (rollback : Nat) (owner : Option (List Byte)) : Code :=
  if !headerNumbersOk b || !componentsOk b then E.argFormat
  else if !imgDigestsOk b then E.sigBad
  else if !imgVendorOk b then E.sigBad
  else if imgVersion b < rollback ∨ imgVersion b < imgFloor b then E.rollback
  else if !imgPairsOk b then E.unpaired
  else match owner with
    | none => E.ok
    | some k =>
      if !imgOwnerOk b k then E.sigBad
      else match configEntries (imgConfig b) with
        | none => E.argFormat
        | some es => if es.all tlvInRange then E.ok else E.argRange

/-- What the boot keeps of the image (R515, R520). -/
def imageOf (b : List Byte) : Image :=
  { version := imgVersion b, floor := imgFloor b, builds := imgBuilds b
    components := (compsOf b).map fun c => (c.type, c.build, c.raw), config := imgConfig b }

/-- First byte of a bank in the boot flash (R513). -/
def bankBase (bank : Nat) : Nat := bank * 0x2000000

/-- The bytes of a bank that verification reads: the header, then IMAGE_LENGTH bytes (R519). A length past the bank reads no
further than the bank. -/
def bankBytes (flash : List Host.Cell) (bank : Nat) : List Byte :=
  let n := rdNat flash (bankBase bank + 20) 4
  rdBytes flash (bankBase bank) (Nat.max 4096 (Nat.min n 0x2000000))

/-- The code of a bank (R516). A bank whose programming did not complete fails; with which code the manual leaves open (R528,
log 53, DESIGN CHOICE, safe). -/
def State.bankCode (s : State) (bank : Nat) (readOk : Bool) (owner : Option (List Byte)) : Code × State :=
  if !readOk then (E.uncorrectable, s)
  else if s.boot.torn.contains bank then
    let (v, s) := s.takeFree
    (if v.getLsbD 0 then E.sigBad else E.argFormat, s)
  else (imageCode (bankBytes s.boot.flash bank) s.rollback owner, s)

end Sys2Proof.Machine
end

