-- ==== Sys2Proof/Machine/BootDone.lean ====
section
/-! DEFINITION. The end of a boot (R518, R519 step 9). -/

namespace Sys2Proof.Machine

/-- The rollback counter rises to the booted image's floor; a store that meets the second after the last one waits (R518, R533). -/
def State.raiseRollback (s : State) (floor : Nat) : State :=
  if floor ≤ s.rollback then { s with boot := { s.boot with rollbackRaise := none } }
  else if s.logBusy Rec.rollback then { s with boot := { s.boot with rollbackRaise := some floor } }
  else (({ s with boot := { s.boot with rollbackRaise := none } } : State).logFirmware Rec.rollback (leBytes 4 floor))

/-- A boot is between its configuration and EV_DONE (boot). -/
def State.bootPending (s : State) : Bool := s.live && !s.boot.done && !s.boot.holding && !s.boot.booting

/-- EV_DONE (boot) to both ports (R490, R497, R519), then the rollback counter (R518). -/
def State.bootDone (s : State) : State :=
  if !s.bootPending then s
  else
    let s := { s with boot := { s.boot with done := true } }
    let s := s.postBoth (s.mkEvent 2 1 E.ok (evBody [(24, 1, s.boot.bank), (28, 2, s.cfg.peerId.getD 0xFFFF), (32, 4, s.az.epoch.toNat)]))
    match s.boot.image with
    | some i => s.raiseRollback i.floor
    | none => s

end Sys2Proof.Machine
end

