-- ==== Sys2Proof/Machine/AzEngine.lean ====
section
/-! DEFINITION. The window operations of the Azlink port engines (R436 to R441) and the fate of their packets. -/

namespace Sys2Proof.Machine

/-! ### Windows -/

def State.win (s : State) (w : Nat) : Win := tget Win.closed w s.az.wins
def State.setWin (s : State) (w : Nat) (x : Win) : State :=
  { s with az := { s.az with wins := tset Win.closed w x s.az.wins } }

/-- GENERATION (R437). -/
def State.winGen (s : State) (w : Nat) : Nat := (s.az.genBase + (s.win w).adv) % 2 ^ 20

/-- The shard-map entry of a window of this module (R271, R438). -/
def State.winRef (s : State) (w : Nat) : Nat := s.cfg.peerId.getD 0 * 2 ^ 48 + w * 2 ^ 32 + s.winGen w

/-! ### The descriptor (R438) -/

def Desc.azInst (d : Desc) : Nat := fld d.raw 16 1
def Desc.azCtl (d : Desc) : Nat := fld d.raw 17 1
def Desc.azTol (d : Desc) : Bool := d.azCtl % 2 == 1
def Desc.azPeer (d : Desc) : Nat := fld d.raw 18 2
def Desc.azWin (d : Desc) : Nat := fld d.raw 20 2
def Desc.azGen (d : Desc) : Nat := fld d.raw 24 4
def Desc.azOff (d : Desc) : Nat := fld d.raw 32 8
def Desc.azLocal (d : Desc) : Nat := fld d.raw 40 8
def Desc.azLen (d : Desc) : Nat := fld d.raw 48 8

/-- A range lies in one region of the job or in its scratchpad (R438). -/
def State.inRegions (s : State) (pos a n : Nat) : Bool :=
  s.inScratch pos a n || (s.job pos).man.regions.any fun r => within a n r.va r.length

/-- Acceptance checks of the window operations (R250, R438). -/
def State.azCheck (s : State) (d : Desc) (auxOk : Bool) : Code :=
  let sized := d.opcode != 0x0802
  let local_ : List Ext := if sized then [{ addr := d.azLocal, n := d.azLen, align := 1 }] else []
  firstBad ([(decide (7 < d.azCtl) || decide (4095 < d.azWin) || fld d.raw 22 2 != 0 || decide (2 ^ 20 ≤ d.azGen) ||
      fld d.raw 28 4 != 0 || fld d.aux 8 56 != 0, E.argFormat),
    ((15 < d.azInst && d.azInst != 0xFF) || (sized && (d.azLen == 0 || decide (2 ^ 40 < d.azLen))), E.argRange)] ++
    s.commonChecks d auxOk (fun a n => s.inRegions d.pos a n) local_ none)

/-! ### Descriptors in progress -/

/-- The engine of class 0x08 that holds a started descriptor. -/
def State.azFind (s : State) (serial : Nat) : Option (Nat × Desc) :=
  s.engines.findSome? fun e =>
    if e.cls == 8 then (e.queue.find? fun d => d.serial == serial && s.descLives d).map fun d => (e.num, d) else none

/-- Packets of an operation that has ended report to nobody. -/
def Owner.of (serial : Nat) : Owner → Bool
  | .put n _ _ => n == serial
  | .get n _ _ => n == serial
  | .row _ n _ _ _ => n == serial
  | .none => false

def Vc.dropOwner (serial : Nat) (c : Vc) : Vc :=
  let f (t : TxPkt) : TxPkt := if t.owner.of serial then { t with owner := .none } else t
  { c with unacked := c.unacked.map f, waiting := c.waiting.filter fun t => !t.owner.of serial }

def State.dropOwner (s : State) (serial : Nat) : State :=
  { s with az := { s.az with
      peers := s.az.peers.map fun e => (e.1, { e.2 with vcs := e.2.vcs.map fun v => (v.1, v.2.dropOwner serial) })
      reads := s.az.reads.map fun r => if r.owner.of serial then { r with owner := .none } else r } }

/-- The operation leaves the engine's turn and goes on as packets come and go. -/
def State.azStart (s : State) (num serial : Nat) : State :=
  s.updEngine 8 num fun e =>
    { (e.updDesc serial fun d => { d with started := true }) with running := if e.running = some serial then none else e.running }

/-- OFFSET on the wire has 48 bits (R416), and no window is longer than 2^40: a larger offset stays past every window. -/
def wireOffset (n : Nat) : Nat := Nat.min n (2 ^ 48 - 1)

/-- A packet of AZ_PUT (R438): at most 4,096 bytes from the operation's next byte. -/
def State.putOne (s : State) (num : Nat) (d : Desc) (fs : Finds) : Bool × State × Finds :=
  let n := Nat.min 4096 (d.azLen - d.progress)
  let stop (c : Code) (s : State) : Bool × State × Finds :=
    (false, s.saveDesc 8 num d.serial fun d => { d with part := { d.part with err := c } }, fs)
  match s.spanOf d.pos (d.azLocal + d.progress) n false with
  | .bad => stop E.argRange s
  | .absent ps => (false, ps.foldl (fun s p => s.faultIn d.pos p (num / 8) d.account) s, fs)
  | .runs rs =>
    match s.sees d.pos [(d.azLocal + d.progress, n)] fs with
    | (false, s, _) => stop E.uncorrectable s
    | (true, s, fs) =>
      let k := s.mkPkt Wire.winWrite 3 d.azPeer
        (specOf [(20, 4, d.azWin * 2 ^ 20 + d.azGen), (24, 6, wireOffset (d.azOff + d.progress))])
        (rs.flatMap fun r => rdBytes s.ms.mem r.pa r.n)
      let s := s.saveDesc 8 num d.serial fun d =>
        { d with progress := d.progress + n, part := { d.part with flying := d.part.flying + 1 } }
      (true, s.azSend d.azPeer k (.put d.serial d.progress n), fs)

/-- A WIN_READ of `n` bytes at a window offset (R416, R443): the requester keeps room for the response (R426) and names it by TAG. -/
def State.sendRead (s : State) (peer winref off n : Nat) (o : Owner) : State :=
  let tag := s.az.nextTag
  let room := ceilDiv (36 + n) 256
  let s := { s with az := { s.az with nextTag := (tag + 1) % 2 ^ 32, reserve := s.az.reserve - room
                                      reads := s.az.reads ++ [({ tag := tag, peer := peer, owner := o, room := room } : ReadReq)] } }
  s.azSend peer (s.mkPkt Wire.winRead 1 peer (specOf [(20, 4, winref), (24, 6, wireOffset off)]) (leBytes 4 tag ++ leBytes 4 n)) o

/-- Reads that are over give their room back (R426). -/
def State.endReads (s : State) (p : ReadReq → Bool) : State :=
  { s with az := { s.az with reads := s.az.reads.filter fun r => !p r
                             reserve := (s.az.reads.filter p).foldl (fun n r => n + r.room) s.az.reserve } }

/-- A packet of AZ_GET (R438). -/
def State.getOne (s : State) (num : Nat) (d : Desc) : Bool × State :=
  let n := Nat.min 4096 (d.azLen - d.progress)
  match s.spanOf d.pos (d.azLocal + d.progress) n true with
  | .bad => (false, s.saveDesc 8 num d.serial fun d => { d with part := { d.part with err := E.argRange } })
  | .absent ps => (false, ps.foldl (fun s p => s.faultIn d.pos p (num / 8) d.account) s)
  | .runs _ =>
    let s := s.saveDesc 8 num d.serial fun d =>
      { d with progress := d.progress + n, part := { d.part with flying := d.part.flying + 1 } }
    (true, s.sendRead d.azPeer (d.azWin * 2 ^ 20 + d.azGen) (d.azOff + d.progress) n (.get d.serial d.progress n))

/-- Sends what the operation may send now. -/
def State.azFill (s : State) (serial : Nat) : Nat → Finds → State
  | 0, _ => s
  | k + 1, fs =>
    match s.azFind serial with
    | none => s
    | some (num, d) =>
      let v := if d.opcode = 0x0803 then 3 else 1
      if d.part.err ≠ E.ok ∨ d.azLen ≤ d.progress ∨ s.azRoom d.azPeer v = 0 then s
      else match (if d.opcode = 0x0803 then s.putOne num d fs else let r := s.getOne num d; (r.1, r.2, fs)) with
        | (true, s, fs) => State.azFill s serial k fs
        | (false, s, _) => s

/-- AZ_PUT and AZ_GET end when every fate is known, or at once on an error (R438). -/
def State.azEnd (s : State) (serial : Nat) : State :=
  match s.azFind serial with
  | none => s
  | some (num, d) =>
    if !d.started then s
    else if d.part.err = E.ok ∧ (d.progress < d.azLen ∨ 0 < d.part.flying) then s
    else s.atStatus 8 num d (num / 8) ((s.dropOwner serial).finish 8 num d (num / 8) d.part.ending)

/-- AZ_PUT and AZ_GET go on: packets while there is room, then the end. -/
def State.azStep (s : State) (serial : Nat) (fs : Finds) : State := (s.azFill serial 64 fs).azEnd serial

/-- The fate of one packet of AZ_PUT or AZ_GET: without TOLERATE the first failure gives the operation its code, with
TOLERATE it is counted; a peer that is gone ends the operation either way (R425, R438). -/
def Part.packet (p : Part) (tol : Bool) (off : Nat) (code : Code) : Part :=
  let p := { p with flying := p.flying - 1 }
  if code = E.ok then p
  else
    let first := match p.first with
      | none => some off
      | some f => some (Nat.min f off)
    { p with count := p.count + 1, first := first, missed := tol
             err := if tol ∧ code ≠ E.peerGone then p.err else if p.err = E.ok then code else p.err }

/-- Bytes gathered for a row, by their offsets. -/
def joinParts (got : List (Nat × List Byte)) : List Byte :=
  let rec go : Nat → Nat → List Byte
    | 0, _ => []
    | k + 1, off => match got.find? fun g => g.1 == off with
      | some g => g.2 ++ go k (off + g.2.length)
      | none => []
  go got.length 0

/-- A packet of a gather row comes back (R275, R441). -/
def Fetch.packet (f : Fetch) (off : Nat) (code : Code) (data : List Byte) : Fetch :=
  match f with
  | .remote left got =>
    if code ≠ E.ok then .failed code
    else if left ≤ 1 then .ready (joinParts (got ++ [(off, data)]))
    else .remote (left - 1) (got ++ [(off, data)])
  | x => x

/-- The fate of a packet reaches its operation; none when its action must wait (an AZ_GET whose local page is not
resident, or held at its home). -/
def State.fate (s : State) (o : Owner) (code : Code) (data : List Byte) : Option State :=
  match o with
  | .none => some s
  | .put serial off _ =>
    match s.azFind serial with
    | none => some s
    | some (num, _) => some ((s.saveDesc 8 num serial fun d => { d with part := d.part.packet d.azTol off code }).azEnd serial)
  | .get serial off n =>
    match s.azFind serial with
    | none => some s
    | some (num, d) =>
      let a := d.azLocal + off
      let done (c : Code) (s : State) : Option State :=
        some ((s.saveDesc 8 num serial fun d => { d with part := d.part.packet d.azTol off c }).azEnd serial)
      if code ≠ E.ok then done code s
      else match s.spanOf d.pos a n true with
        | .bad => done E.argRange s
        | .absent _ => none
        | .runs _ => if s.partBad d.pos a n then done E.uncorrectable s
          else if s.mustHold d.pos a n then none else done E.ok (s.writeJob d.pos a data)
  | .row core serial k off _ =>
    some (s.saveDesc 4 core serial fun d => { d with fetch := tupd Fetch.none k (fun f => f.packet off code data) d.fetch })

/-- Fates that never wait: failures. -/
def State.fail (s : State) (o : Owner) (code : Code) : State := (s.fate o code []).getD s

/-- Every operation that waits on a peer ends with E_PEER_GONE (R425, R432): the packets in flight report to nobody any
more, and packets not yet sent are dropped. -/
def State.peerGone (s : State) (p : Nat) : State :=
  let vs := (s.peer p).vcs.map Prod.snd
  let os := (vs.flatMap fun c => (c.unacked ++ c.waiting).map fun t => t.owner) ++
    ((s.az.reads.filter fun r => r.peer == p).map fun r => r.owner)
  let clear (c : Vc) : Vc := { c with unacked := c.unacked.map (fun t => { t with owner := .none }), waiting := [] }
  let s := s.updPeer p fun x => { x with vcs := x.vcs.map fun v => (v.1, clear v.2) }
  let s := s.endReads fun r => r.peer == p
  os.foldl (fun s o => s.fail o E.peerGone) s

/-! ### The operations -/

/-- A WINDOW_CHANGE crossing; the law of its entry is law 10 (R288, R301, R585). -/
def windowCross (w : Nat) (err : XErr) : Cross :=
  { reads := [], wset := [.window w], err := err, laws := 1#11 <<< 10, loc := w }

/-- A window operation that writes its entry in a WINDOW_CHANGE crossing (R439, R440), then completes. With no free entry the crossing
aborts and firmware opens it again at the engine's next command (R292). -/
def State.azWindow (s : State) (r : EngRun) (op : Nat) (ok : Desc → Bool) (f : Desc → Win → Win) (detail : Desc → State → Nat) : State :=
  match s.runningOp 8 r.num op with
  | none => s
  | some d => s.atStatus 8 r.num d (r.num / 8) (
    let done (s : State) (e : Ending) : State := s.finish 8 r.num d (r.num / 8) e
    if s.ownId.isNone then done s { err := E.peerGone }
    else if !ok d then done s { err := E.noWindow }
    else s.cross (windowCross d.azWin r.xing) (fun c s => if c = E.xingFull then s else done s { err := c }) fun s =>
      let s := s.setWin d.azWin (f d (s.win d.azWin))
      done s { detail := detail d s })

/-- AZ_WIN_OPEN (R438). -/
def execAzWinOpen (r : EngRun) (s : State) : Outc :=
  .next (s.azWindow r 0x0801 (fun d => !(s.win d.azWin).isOpen && decide ((s.win d.azWin).adv + 1 ≤ 0x3FFFF))
    (fun d w => { w with isOpen := true, base := d.azLocal, length := d.azLen, adv := w.adv + 1, job := d.pos
                         read := bits d.azCtl 1 1 == 1, write := bits d.azCtl 2 1 == 1 })
    fun d s => s.winRef d.azWin)

/-- AZ_WIN_CLOSE (R438). -/
def execAzWinClose (r : EngRun) (s : State) : Outc :=
  .next (s.azWindow r 0x0802 (fun d => (s.win d.azWin).isOpen && (s.win d.azWin).job == d.pos)
    (fun _ w => { w with isOpen := false, adv := w.adv + 1 }) fun d s => s.winGen d.azWin)

/-- AZ_PUT and AZ_GET begin, or go on: to a peer that is no other member they end with E_PEER_GONE (R425, R445). -/
def State.azTransfer (s : State) (r : EngRun) (op : Nat) : State :=
  match s.runningOp 8 r.num op with
  | none => (((s.engine 8 r.num).queue.filter fun d => d.started && d.opcode == op).map fun d => d.serial).foldl
      (fun s n => s.azStep n r.finds) s
  | some d =>
    if s.ownId.isNone || !s.isMember d.azPeer then
      s.finish 8 r.num d (r.num / 8) { err := E.peerGone }
    else (s.azStart r.num d.serial).azStep d.serial r.finds

/-- AZ_PUT (R438). -/
def execAzPut (r : EngRun) (s : State) : Outc := .next (s.azTransfer r 0x0803)

/-- AZ_GET (R438). -/
def execAzGet (r : EngRun) (s : State) : Outc := .next (s.azTransfer r 0x0804)

end Sys2Proof.Machine
end

