-- ==== Sys2Proof/Machine/Vector.lean ====
section
/-! DEFINITION. The vector engine (R255 to R262, R630, R139). -/

namespace Sys2Proof.Machine

/-! ### The descriptor (R256) -/

def Desc.vInCode (d : Desc) : Nat := fld d.raw 16 1 % 16
def Desc.vOutCode (d : Desc) : Nat := fld d.raw 16 1 / 16
def Desc.vIn (d : Desc) : Fmt := (fmtOf d.vInCode).getD fp32
def Desc.vOut (d : Desc) : Fmt := (fmtOf d.vOutCode).getD fp32
def Desc.rnd (d : Desc) : Rnd := (rndOf (fld d.raw 17 1 % 4)).getD .rne
def Desc.vBcast (d : Desc) : Bool := bits (fld d.raw 17 1) 2 1 == 1
def Desc.vFunc (d : Desc) : Nat := fld d.raw 18 2
def Desc.vRows (d : Desc) : Nat := fld d.raw 20 4
def Desc.vCols (d : Desc) : Nat := fld d.raw 24 4
def Desc.vLd (d : Desc) : Nat := if fld d.raw 28 4 = 0 then d.vCols else fld d.raw 28 4
def Desc.vX (d : Desc) : Nat := fld d.raw 32 8
def Desc.vY (d : Desc) : Nat := fld d.raw 40 8
def Desc.vZ (d : Desc) : Nat := fld d.raw 48 8
def Desc.vW (d : Desc) : Nat := fld d.aux 8 8
def Desc.vMask (d : Desc) : Nat := fld d.aux 16 8
def Desc.vOut2 (d : Desc) : Nat := fld d.aux 24 8
def Desc.vOut3 (d : Desc) : Nat := fld d.aux 56 8
/-- Scalar Sk as FP32. -/
def Desc.vS (d : Desc) (k : Nat) : Val := fp32.decode (fld d.aux (32 + 4 * k) 4)

/-- VEC_MAP functions that read y, and those that read w. -/
def mapReadsY (f : Nat) : Bool := [1, 2, 3, 4, 5, 6, 7, 0xA, 0xC, 0xE].contains f
def mapReadsW (f : Nat) : Bool := f == 4 || f == 0x15

/-- Y is an operand (R630): beta of an RMS normalisation is optional (log 30, DEDUCED, unsafe). -/
def Desc.usesY (d : Desc) : Bool :=
  match d.opcode with
  | 0x0201 => mapReadsY d.vFunc
  | 0x0203 => d.vFunc == 0 || d.vY != 0
  | 0x0204 | 0x0206 | 0x0207 => true
  | _ => false
def Desc.usesW (d : Desc) : Bool :=
  match d.opcode with
  | 0x0201 => mapReadsW d.vFunc
  | 0x0203 | 0x0204 => true
  | 0x0207 => d.vFunc != 2
  | _ => false
def Desc.usesOut2 (d : Desc) : Bool := d.opcode == 0x0204 || (d.opcode == 0x0207 && d.vFunc != 0)
/-- OUT3 may be 0 in VEC_OPT. -/
def Desc.usesOut3 (d : Desc) : Bool := d.opcode == 0x0204 || (d.opcode == 0x0207 && d.vOut3 != 0)

/-- Bytes of a full operand (R630). -/
def Desc.fullBytes (d : Desc) (size : Nat) : Nat := ((d.vRows - 1) * d.vLd + d.vCols) * size
def Desc.bitmapBytes (d : Desc) : Nat := ceilDiv (d.vRows * d.vCols) 8

/-- The operand extents of R630. -/
def Desc.vecExts (d : Desc) : List Ext :=
  let full (a size : Nat) : Ext := { addr := a, n := d.fullBytes size, align := size }
  let row (a size : Nat) : Ext := { addr := a, n := d.vCols * size, align := size }
  let isz := d.vIn.bytes
  let osz := d.vOut.bytes
  let opt := d.opcode == 0x0207
  [{ full d.vX isz with rd := true, zOk := true }] ++
  (if d.usesY then [{ (if d.vBcast then row d.vY isz else full d.vY isz) with rd := true, zOk := !opt }] else []) ++
  (if !d.usesW then [] else
   if d.opcode = 0x0201 then
     (if d.vFunc = 4 then [{ (if d.vBcast then row d.vW 4 else full d.vW 4) with rd := true }]
      else [{ addr := d.vW, n := d.bitmapBytes, align := 1, rd := true }])
   else if opt then [{ full d.vW 4 with rd := true, wr := true }]
   else [{ row d.vW 4 with rd := true }]) ++
  [if d.opcode = 0x0202 then { addr := d.vZ, n := 4 * d.vRows, align := 4, wr := true, z := true }
   else { full d.vZ (if opt then 4 else osz) with wr := true, z := true }] ++
  (if d.vMask = 0 then [] else [{ addr := d.vMask, n := d.bitmapBytes, align := 1, rd := true }]) ++
  (if !d.usesOut2 then [] else
   if opt then [{ (if d.vFunc = 2 then ({ addr := d.vOut2, n := 4 * d.vRows, align := 4 } : Ext) else full d.vOut2 4) with rd := true, wr := true }]
   else [{ row d.vOut2 4 with rd := true, wr := true }]) ++
  (if !d.usesOut3 then [] else
   if opt then [{ full d.vOut3 osz with wr := true }] else [{ row d.vOut3 4 with rd := true, wr := true }])

/-- A format of the vector engine's floating-point operations (R40). -/
def vecFmt (c : Nat) : Bool := decide (c ≤ 4)

/-- Elements of the output that SR draws for: rows of VEC_REDUCE, elements of Z or OUT3 otherwise (R59, R257, R262). -/
def Desc.vecDraw (d : Desc) : Option Nat :=
  if d.rnd = .sr ∧ ¬ (d.opcode = 0x0207 ∧ d.vOut3 = 0) then
    some (drawBlocks (if d.opcode = 0x0202 then d.vRows else d.vRows * d.vCols))
  else none

/-- FUNC values that an operation defines (R257). -/
def vecFuncs (op : Nat) : Nat :=
  match op with
  | 0x0201 => 0x16 | 0x0202 => 5 | 0x0203 => 2 | 0x0204 => 2 | 0x0207 => 3 | _ => 1

/-- Format checks of the vector operations (R250, R256, R257, R630). -/
def Desc.vecFormatBad (d : Desc) : Bool :=
  decide (fld d.raw 17 1 / 8 ≠ 0) || (rndOf (fld d.raw 17 1 % 4)).isNone ||
  !vecFmt d.vInCode || !vecFmt d.vOutCode || decide (vecFuncs d.opcode ≤ d.vFunc) ||
  (d.opcode == 0x0202 && d.vOutCode != 0) || (d.opcode == 0x0207 && d.vInCode != 0) ||
  (d.vBcast && (d.opcode == 0x0202 || d.opcode == 0x0205 || d.opcode == 0x0207)) ||
  (!d.usesY && d.vY != 0) || (!d.usesW && d.vW != 0) || (!d.usesOut2 && d.vOut2 != 0) ||
  (!d.usesOut3 && d.vOut3 != 0)

/-- ROWS and COLS lie in their ranges (R256). -/
def Desc.vecCountsBad (d : Desc) : Bool :=
  decide (d.vRows < 1) || decide (2 ^ 24 < d.vRows) || decide (d.vCols < 1) || decide (2 ^ 20 < d.vCols)

/-- Acceptance checks of 0x0201 to 0x0207 (R250, R630). -/
def State.vecCheck (s : State) (d : Desc) (auxOk : Bool) : Code :=
  firstBad ([(d.vecFormatBad, E.argFormat), (d.vecCountsBad, E.argRange)] ++
    s.commonChecks d auxOk (s.inScratch d.pos) d.vecExts d.vecDraw)

/-! ### Elements -/

/-- Row i of a full operand, or the single row of a broadcast one. -/
def State.vrow (s : State) (d : Desc) (f : Fmt) (a i : Nat) (bcast : Bool) : List Val :=
  s.elems d.pos f (a + (if bcast then 0 else i * d.vLd * f.bytes)) d.vCols

/-- The random bits of element k, when the rounding is stochastic. -/
def State.rbits (s : State) (d : Desc) (k : Nat) : Nat := if d.rnd = .sr then s.drawBits d k else 0

/-- The rounded element (i, j) of an output in the descriptor's output format (R257). -/
def State.vround (s : State) (d : Desc) (i j : Nat) (v : Val) : Rounded :=
  d.vOut.last d.rnd (s.rbits d (i * d.vCols + j)) v

/-- MASK governs element (i, j). -/
def State.vmask (s : State) (d : Desc) (i j : Nat) : Bool := s.bitAt d.pos d.vMask (i * d.vCols + j)

/-- A row's elements as written elements of a full output at `base`: masked ones are not written (R257). -/
def State.rowWrites (s : State) (d : Desc) (size base i : Nat) (xs : List Rounded) : List (Nat × Rounded × List Byte) :=
  ((List.range xs.length).filter fun j => s.vmask d i j).map fun j =>
    let r := xs.getD j { code := 0, sat := false, special := false }
    (base + (i * d.vLd + j) * size, r, leBytes size r.code)

/-- The row's outcome from its written elements: COUNT and DETAIL name rows with SAT or SPECIAL (R257). -/
def rowOut (i : Nat) (ws : List (Nat × Rounded × List Byte)) : RowOut :=
  let sat := ws.any fun w => w.2.1.sat
  let special := ws.any fun w => w.2.1.special
  { writes := ws.map fun w => (w.1, w.2.2), sat := sat, special := special
    count := if sat || special then 1 else 0, first := if sat || special then some i else none }

/-- The bytes that row i of an operation reads. -/
def Desc.vecReads (d : Desc) (i : Nat) (_ : State) : List (Nat × Nat) :=
  let full (a size : Nat) : Nat × Nat := (a + i * d.vLd * size, d.vCols * size)
  let bm (a : Nat) : Nat × Nat := (a + i * d.vCols / 8, ((i + 1) * d.vCols + 7) / 8 - i * d.vCols / 8)
  [full d.vX d.vIn.bytes] ++
  (if d.usesY then [if d.vBcast then (d.vY, d.vCols * d.vIn.bytes) else full d.vY d.vIn.bytes] else []) ++
  (if !d.usesW then [] else
   if d.opcode = 0x0201 then [if d.vFunc = 4 then (if d.vBcast then (d.vW, 4 * d.vCols) else full d.vW 4) else bm d.vW]
   else if d.opcode = 0x0207 then [full d.vW 4] else [(d.vW, 4 * d.vCols)]) ++
  (if d.vMask = 0 then [] else [bm d.vMask]) ++
  (if !d.usesOut2 then [] else
   if d.opcode = 0x0204 then [(d.vOut2, 4 * d.vCols), (d.vOut3, 4 * d.vCols)]
   else if d.vFunc = 2 then [(d.vOut2 + 4 * i, 4)] else [full d.vOut2 4])

/-- The bytes an operation writes, its status record included. -/
def Desc.vecOuts (d : Desc) : List (Nat × Nat) :=
  ((d.vecExts ++ d.statusExt).filter fun e => e.wr).map fun e => (e.addr, e.n)

/-- A vector operation by rows: 64 of an elementwise operation or an optimizer step to a non-preemptible unit, one of the others
(R254). -/
def vecOp (unit : Nat) (body : Desc → Nat → State → RowOut) : RowOp :=
  { rows := fun d _ => d.vRows, unit := fun _ => unit, reads := Desc.vecReads, body := body, ending := fun _ _ p => p.ending }

/-- Runs one vector operation of a core. -/
def State.vec (s : State) (r : EngRun) (op unit : Nat) (body : Desc → Nat → State → RowOut) : State :=
  s.runOp 2 op r Desc.vecOuts (vecOp unit body)

/-! ### VEC_MAP (R257, R258) -/

def one : Val := .fin false 1 0
def half : Val := .fin false 1 (-1)
def geluC0 : Val := fp32.decode 0x3F4C422A
def geluC1 : Val := fp32.decode 0x3D372713
def geluC2 : Val := fp32.decode 0x3E095D4F

/-- tanh((c0 x) v) with v = fma(c1, u, 1), u = x x: the part GELU and GELU_D share. -/
def geluT (x : Val) : Val :=
  r32 (Val.tanh (r32 ((r32 (geluC0.mul x)).mul (r32 (Val.fma geluC1 (r32 (x.mul x)) one)))))

def gelu (x : Val) : Val :=
  let h := r32 (half.mul x)
  Val.fma h (geluT x) h

def geluD (x y : Val) : Val :=
  let u := r32 (x.mul x)
  let t := geluT x
  let p := r32 (Val.fma t.neg t one)
  let q := r32 ((r32 ((r32 (geluC0.mul (r32 (Val.fma geluC2 u one)))).mul x)).mul p)
  y.mul (r32 (Val.fma half q (r32 (Val.fma half t half))))

def siluD (x y : Val) : Val :=
  let sg := r32 x.sigmoid
  y.mul (r32 (sg.mul (r32 (Val.fma x (r32 (one.sub sg)) one))))

/-- `v` where x > 0, else +0; a NaN x gives NaN (RELU, RELU_D). -/
def relu (x v : Val) : Val := if x.isNan then .nan else if 0 < x.cmp (.fin false 0 0) then v else .fin false 0 0

/-- The exact last step of each function; `k` is the DROPOUT bit. -/
def mapFn (f : Nat) (x y w s0 s1 : Val) (k : Bool) : Val :=
  match f with
  | 0x01 => x.add y | 0x02 => x.sub y | 0x03 => x.mul y | 0x04 => Val.fma x y w
  | 0x05 => x.fmin y | 0x06 => x.fmax y | 0x07 => Val.fma s0 x (r32 (s1.mul y)) | 0x08 => s0.mul x
  | 0x09 => relu x x | 0x0A => relu x y | 0x0B => gelu x | 0x0C => geluD x y
  | 0x0D => x.mul (r32 x.sigmoid) | 0x0E => siluD x y | 0x0F => x.sigmoid | 0x10 => x.tanh | 0x11 => x.exp
  | 0x12 => x.log | 0x13 => x.rsqrt | 0x14 => x.recip
  | 0x15 => if k then s0.mul x else .fin false 0 0
  | _ => x

def mapRow (d : Desc) (i : Nat) (s : State) : RowOut :=
  let x := s.vrow d d.vIn d.vX i false
  let y := if d.usesY then s.vrow d d.vIn d.vY i d.vBcast else []
  let w := if d.vFunc = 4 then s.vrow d fp32 d.vW i d.vBcast else []
  let z := (List.range d.vCols).map fun j =>
    s.vround d i j (mapFn d.vFunc (x.getD j .nan) (y.getD j .nan) (w.getD j .nan) (d.vS 0) (d.vS 1)
      (d.vFunc == 0x15 && s.bitAt d.pos d.vW (i * d.vCols + j)))
  rowOut i (s.rowWrites d d.vOut.bytes d.vZ i z)

/-- VEC_MAP (R257, R258). -/
def execVecMap (r : EngRun) (s : State) : Outc := .next (s.vec r 0x0201 64 mapRow)

/-! ### VEC_REDUCE -/

/-- The exact final combination of a row (R257, R259). -/
def reduceFn (f : Nat) (xs : List Val) : Val :=
  match f with
  | 0 => sumX xs | 1 => sumsqX xs | 2 => maxX xs | 3 => minX xs | _ => maxX (xs.map Val.abs)

/-- One FP32 per row; bit i of MASK governs element i of Z (log 31, DEDUCED, unsafe). -/
def reduceRow (d : Desc) (i : Nat) (s : State) : RowOut :=
  if s.bitAt d.pos d.vMask i then
    let r := fp32.last d.rnd (s.rbits d i) (reduceFn d.vFunc (s.vrow d d.vIn d.vX i false))
    rowOut i [(d.vZ + 4 * i, r, leBytes 4 r.code)]
  else {}

/-- VEC_REDUCE (R257, R259). -/
def execVecReduce (r : EngRun) (s : State) : Outc := .next (s.vec r 0x0202 1 reduceRow)

/-! ### Normalisation (R139, R260) -/

/-- r and xh of a row. The variance is the mean of the squares of x - mu (log 32, DEDUCED, unsafe); RMS takes mu = 0. -/
def normStats (d : Desc) (x : List Val) : Val × List Val :=
  let c := if d.vFunc = 0 then let mu := meanR x; x.map fun v => r32 (v.sub mu) else x
  let q := meanR (c.map fun v => r32 (v.mul v))
  let r := r32 (Val.rsqrt (r32 (q.add (d.vS 0))))
  (r, c.map fun v => r32 (v.mul r))

def normFwdRow (d : Desc) (i : Nat) (s : State) : RowOut :=
  let (_, xh) := normStats d (s.vrow d d.vIn d.vX i false)
  let g := s.elems d.pos fp32 d.vW d.vCols
  let b := if d.usesY then s.vrow d d.vIn d.vY i d.vBcast else []
  let z := (List.range d.vCols).map fun j =>
    let h := xh.getD j .nan
    s.vround d i j (if d.vFunc = 0 then Val.fma h (g.getD j .nan) (b.getD j .nan) else h.mul (g.getD j .nan))
  rowOut i (s.rowWrites d d.vOut.bytes d.vZ i z)

/-- VEC_NORM_FWD (R260). -/
def execVecNormFwd (r : EngRun) (s : State) : Outc := .next (s.vec r 0x0203 1 normFwdRow)

/-- One element of dgamma or dbeta (R260). -/
def accWrite (base j : Nat) (old add : Val) : Nat × Rounded × List Byte :=
  let r := fp32.encode true .rne 0 (old.add add)
  (base + 4 * j, r, leBytes 4 r.code)

def normBwdRow (d : Desc) (i : Nat) (s : State) : RowOut :=
  let n := d.vCols
  let (r, xh) := normStats d (s.vrow d d.vIn d.vX i false)
  let g := s.elems d.pos fp32 d.vW n
  let dy := s.vrow d d.vIn d.vY i d.vBcast
  let dxh := (List.range n).map fun j => r32 ((dy.getD j .nan).mul (g.getD j .nan))
  let a := meanR dxh
  let b := meanR ((List.range n).map fun j => r32 ((dxh.getD j .nan).mul (xh.getD j .nan)))
  let z := (List.range n).map fun j =>
    let t1 := if d.vFunc = 0 then r32 ((dxh.getD j .nan).sub a) else dxh.getD j .nan
    let t2 := r32 ((xh.getD j .nan).mul b)
    s.vround d i j (r.mul (r32 (t1.sub t2)))
  let og := s.elems d.pos fp32 d.vOut2 n
  let ob := s.elems d.pos fp32 d.vOut3 n
  rowOut i (s.rowWrites d d.vOut.bytes d.vZ i z ++
    ((List.range n).map fun j =>
      accWrite d.vOut2 j (og.getD j .nan) (r32 ((dy.getD j .nan).mul (xh.getD j .nan)))) ++
    ((List.range n).map fun j => accWrite d.vOut3 j (ob.getD j .nan) (dy.getD j .nan)))

/-- VEC_NORM_BWD (R139, R140, R260). -/
def execVecNormBwd (r : EngRun) (s : State) : Outc := .next (s.vec r 0x0204 1 normBwdRow)

/-! ### Soft-maximum (R139, R261) -/

/-- The kind of a row: with a NaN or +Inf, all -Inf, or ordinary with its exponentials and their sum. -/
inductive SoftRow where
  | nan
  | masked
  | row (e : List Val) (sum : Val)

def softRow (x : List Val) : SoftRow :=
  if x.any fun v => v.isNan || v == .inf false then .nan
  else
    let m := maxX x
    if m = .inf true then .masked
    else
      let e := x.map fun v => r32 (Val.exp (r32 (v.sub m)))
      .row e (sumR e)

def softWrites (d : Desc) (i : Nat) (s : State) (f : Nat → Val) : RowOut :=
  rowOut i (s.rowWrites d d.vOut.bytes d.vZ i ((List.range d.vCols).map fun j => s.vround d i j (f j)))

def softFwdRow (d : Desc) (i : Nat) (s : State) : RowOut :=
  match softRow (s.vrow d d.vIn d.vX i false) with
  | .nan => softWrites d i s fun _ => .nan
  | .masked => softWrites d i s fun _ => .fin false 0 0
  | .row e sum => softWrites d i s fun j => (e.getD j .nan).div sum

/-- VEC_SOFTMAX_FWD (R261). -/
def execVecSoftmaxFwd (r : EngRun) (s : State) : Outc := .next (s.vec r 0x0205 1 softFwdRow)

def softBwdRow (d : Desc) (i : Nat) (s : State) : RowOut :=
  match softRow (s.vrow d d.vIn d.vX i false) with
  | .nan => softWrites d i s fun _ => .nan
  | .masked => softWrites d i s fun _ => .fin false 0 0
  | .row e sum =>
    let dy := s.vrow d d.vIn d.vY i d.vBcast
    let p := e.map fun v => r32 (v.div sum)
    let t := sumR ((List.range d.vCols).map fun j => r32 ((dy.getD j .nan).mul (p.getD j .nan)))
    softWrites d i s fun j => (p.getD j .nan).mul (r32 ((dy.getD j .nan).sub t))

/-- VEC_SOFTMAX_BWD (R261). -/
def execVecSoftmaxBwd (r : EngRun) (s : State) : Outc := .next (s.vec r 0x0206 1 softBwdRow)

/-! ### VEC_OPT (R262) -/

/-- New m, new v and the exact last step of the new weight of one element. -/
def optElem (d : Desc) (w g m v : Val) : Val × Val × Val :=
  let f (a b c : Val) : Val := r32 (Val.fma a b c)
  let s0 := (d.vS 0).neg
  let decay := f (d.vS 4).neg w w
  match d.vFunc with
  | 0 =>
    let m1 := f (d.vS 1) m g
    (m1, v, Val.fma s0 m1 decay)
  | 1 =>
    let m1 := f (d.vS 1) (r32 (g.sub m)) m
    let v1 := f (d.vS 2) (r32 ((r32 (g.mul g)).sub v)) v
    let q := r32 (m1.div (r32 ((r32 (Val.sqrt (r32 (v1.mul (d.vS 5))))).add (d.vS 3))))
    (m1, v1, Val.fma s0 q decay)
  | _ => (m, v, Val.fma s0 (r32 (g.div (r32 ((r32 (Val.sqrt v)).add (d.vS 3))))) w)

def optRow (d : Desc) (i : Nat) (s : State) : RowOut :=
  let n := d.vCols
  let w := s.vrow d fp32 d.vX i false
  let g := s.vrow d fp32 d.vY i false
  let m := if d.vFunc = 2 then [] else s.vrow d fp32 d.vW i false
  let live := (List.range n).filter fun j => s.vmask d i j
  let enc (v : Val) : Rounded := fp32.encode true .rne 0 v
  -- ROW_ADAGRAD's v of the row, updated when an element of the row is not masked
  let vr := if d.vFunc = 2 then
      let v := (s.elems d.pos fp32 (d.vOut2 + 4 * i) 1).getD 0 .nan
      r32 (v.add (r32 ((r32 (sumsqX g)).div (Val.ofNat n))))
    else .nan
  let v := if d.vFunc = 1 then s.vrow d fp32 d.vOut2 i false else []
  let el (j : Nat) : Val × Val × Val :=
    optElem d (w.getD j .nan) (g.getD j .nan) (m.getD j .nan) (if d.vFunc = 2 then vr else v.getD j .nan)
  let put (base size : Nat) (r : Nat → Rounded) : List (Nat × Rounded × List Byte) :=
    live.map fun j => (base + (i * d.vLd + j) * size, r j, leBytes size (r j).code)
  rowOut i (put d.vZ 4 (fun j => enc (el j).2.2) ++
    (if d.vFunc = 2 then [] else put d.vW 4 fun j => enc (el j).1) ++
    (if d.vFunc = 1 then put d.vOut2 4 fun j => enc (el j).2.1 else []) ++
    (if d.vFunc = 2 ∧ ¬ live.isEmpty then [(d.vOut2 + 4 * i, enc vr, leBytes 4 (enc vr).code)] else []) ++
    (if d.vOut3 = 0 then [] else put d.vOut3 d.vOut.bytes fun j => s.vround d i j (el j).2.2))

/-- VEC_OPT (R262). -/
def execVecOpt (r : EngRun) (s : State) : Outc := .next (s.vec r 0x0207 64 optRow)

end Sys2Proof.Machine
end

