-- ==== Sys2Proof/Machine/Keel.lean ====
section
/-! DEFINITION. Keel blocks and the Keel unit (R63 to R69, R263 to R266). -/

namespace Sys2Proof.Machine

/-- Lane width of format code 0x6 or 0x7. -/
def keelW (code : Nat) : Nat := if code = 7 then 64 else 32
/-- Bytes of a padded block (R63). -/
def keelBytes (w : Nat) : Nat := 8 + 4 * w

/-- The padded layout (R63). -/
def KBlock.bytes (b : KBlock) (w : Nat) : List Byte :=
  leBytes 4 b.exp ++ leBytes 4 b.mask ++ b.lanes.flatMap (leBytes (w / 8))

def kblockOf (w : Nat) (bs : List Byte) : KBlock :=
  { exp := fld bs 0 1, mask := fld bs 4 4, lanes := (List.range 32).map fun j => fld bs (8 + j * w / 8) (w / 8) }

/-- The packed layout (R63). -/
def KBlock.packed (b : KBlock) (w : Nat) : List Byte :=
  leBytes 1 b.exp ++ leBytes 4 b.mask ++ b.lanes.flatMap (leBytes (w / 8))

def kblockOfPacked (w : Nat) (bs : List Byte) : KBlock :=
  { exp := fld bs 0 1, mask := fld bs 1 4, lanes := (List.range 32).map fun j => fld bs (5 + j * w / 8) (w / 8) }

/-- Element j is special (R63). -/
def KBlock.special (b : KBlock) (j : Nat) : Bool := bits b.mask j 1 == 1
def KBlock.lane (b : KBlock) (j : Nat) : Nat := b.lanes.getD j 0

/-- A lane as a two's-complement integer. -/
def laneInt (w n : Nat) : Int := if 2 ^ (w - 1) ≤ n then (n : Int) - 2 ^ w else n
def laneOf (w : Nat) (z : Int) : Nat := (z % 2 ^ w).toNat

/-- A special lane that breaks R66: class code 0 or bits above [2:0]. -/
def KBlock.badLane (b : KBlock) (j : Nat) : Bool := b.special j && (b.lane j == 0 || decide (7 < b.lane j))
def KBlock.bad (b : KBlock) : Bool := (List.range 32).any b.badLane

/-- Special elements of a block. -/
def KBlock.specials (b : KBlock) : Nat := ((List.range 32).filter b.special).length

/-- The sum of the non-special lanes modulo 2^64 (R265). -/
def KBlock.checksum (b : KBlock) (w : Nat) : Nat :=
  (((List.range 32).foldl (fun (z : Int) j => if b.special j then z else z + laneInt w (b.lane j)) 0) % 2 ^ 64).toNat

/-- The guard-bit count of n members (R65). -/
def guardBits (n : Nat) : Nat := clog2 n + 1

/-- The class code of a special value (R66, R67). -/
def classOf : Val → Nat
  | .nan => 4
  | .inf neg => if neg then 2 else 1
  | .fin _ _ _ => 0

def Val.isSpecial (v : Val) : Bool := classOf v != 0

/-- The unbiased exponent floor(log2 |v|) of a finite non-zero value. -/
def Val.expo : Val → Option Int
  | .fin _ m e => if m = 0 then none else some ((m.log2 : Int) + e)
  | _ => none

/-- EXP of R65 for 32 elements: max(0, e_max + g + 112), 0 with no finite non-zero element. -/
def keelExpOf (n : Nat) (vs : List Val) : Nat :=
  match vs.filterMap Val.expo with
  | [] => 0
  | e :: r => ((r.foldl max e) + guardBits n + 112).toNat

def maskOf (vs : List Val) : Nat :=
  (List.range 32).foldl (fun m j => if (vs.getD j (.fin false 0 0)).isSpecial then m + 2 ^ j else m) 0

/-- The lane of a finite value under exponent X, none when it exceeds 2^(w - 2) (R64, R67). -/
def keelLane (w x : Nat) (v : Val) : Option Nat :=
  match v with
  | .fin neg m e =>
    let q : Int := (x : Int) - 112 - ((w : Int) - 2)
    let n := roundTo .rne 0 m e q
    if 2 ^ (w - 2) < n then none else some (laneOf w (if neg then -(n : Int) else n))
  | v => some (classOf v)

/-- The value of an element (R68, R69), exact for a lane. -/
def KBlock.value (b : KBlock) (w j : Nat) : Val :=
  let l := b.lane j
  if b.special j then
    (if 4 ≤ l % 8 ∨ l % 4 = 3 then .nan else if l % 4 = 1 then .inf false else .inf true)
  else
    let z := laneInt w l
    .fin (decide (z < 0)) z.natAbs ((b.exp : Int) - 112 - ((w : Int) - 2))

/-- Decoding of an element to FP32: a magnitude above max finite saturates (R69; log 103, DEDUCED, unsafe), and every zero is +0
(R50). -/
def KBlock.decode (b : KBlock) (w j : Nat) : Rounded :=
  let r := fp32.encode false .rne 0 (b.value w j)
  { r with code := if r.code = fp32.signBit true then 0 else r.code }

/-- One lane of KEEL_ADD: the result's special bit and lane, none for a sum that reaches 2^(w - 2) (R264). -/
def addLane (w : Nat) (a b : KBlock) (j : Nat) : Option (Bool × Nat) :=
  match a.special j, b.special j with
  | true, true => some (true, a.lane j ||| b.lane j)
  | true, false => some (true, a.lane j)
  | false, true => some (true, b.lane j)
  | false, false =>
    let z := laneInt w (a.lane j) + laneInt w (b.lane j)
    if 2 ^ (w - 2) ≤ z.natAbs then none else some (false, laneOf w z)

/-- The sum of two blocks, or the code that ends the operation (R264). -/
def KBlock.add (w : Nat) (a b : KBlock) : Code ⊕ KBlock :=
  if a.exp ≠ b.exp ∨ a.bad ∨ b.bad then .inl E.argFormat
  else
    let ls := (List.range 32).map (addLane w a b)
    if ls.any Option.isNone then .inl E.argRange
    else .inr { exp := a.exp, mask := a.mask ||| b.mask, lanes := ls.map fun l => ((l.map Prod.snd).getD 0) }

/-! ### The operations (R263) -/

/-- Blocks of the tensor. -/
def Desc.keelBlocks (d : Desc) : Nat := d.vRows * d.vCols / 32
/-- S0 read as an unsigned integer (R263). -/
def Desc.keelN (d : Desc) : Nat := fld d.aux 32 4
/-- Lane width of the Keel operand: OUT_FMT of KEEL_ENCODE, IN_FMT of the others. -/
def Desc.keelWidth (d : Desc) : Nat := keelW (if d.opcode = 0x0212 then d.vOutCode else d.vInCode)

/-- Operand extents: FP32 tensors by rows, arrays of headers or blocks consecutive (R63, R263). -/
def Desc.keelExts (d : Desc) : List Ext :=
  let nb := d.keelBlocks
  let kb := nb * keelBytes d.keelWidth
  let tensor (a : Nat) : Ext := { addr := a, n := d.fullBytes 4, align := 4 }
  let arr (a n : Nat) : Ext := { addr := a, n := n, align := 8 }
  let rd (e : Ext) : Ext := { e with rd := true, zOk := true }
  let wr (e : Ext) : Ext := { e with wr := true, z := true }
  match d.opcode with
  | 0x0210 => [rd (tensor d.vX), wr (arr d.vZ (8 * nb))]
  | 0x0211 => [rd (arr d.vX (8 * nb)), rd (arr d.vY (8 * nb)), wr (arr d.vZ (8 * nb))]
  | 0x0212 => [rd (tensor d.vX), rd (arr d.vY (8 * nb)), wr (arr d.vZ kb)]
  | 0x0213 => [rd (arr d.vX kb), rd (arr d.vY kb), wr (arr d.vZ kb)]
  | _ => [rd (arr d.vX kb), wr (tensor d.vZ)]

def Desc.keelOuts (d : Desc) : List (Nat × Nat) :=
  ((d.keelExts ++ d.statusExt).filter fun e => e.wr).map fun e => (e.addr, e.n)

/-- Format checks of the Keel operations (R40, R250, R263; log 34, DEDUCED, unsafe). -/
def Desc.keelFormatBad (d : Desc) : Bool :=
  let keel (c : Nat) : Bool := c == 6 || c == 7
  let fmt : Bool := match d.opcode with
    | 0x0210 => d.vInCode == 0 && (vecFmt d.vOutCode || keel d.vOutCode)
    | 0x0211 => (vecFmt d.vInCode || keel d.vInCode) && (vecFmt d.vOutCode || keel d.vOutCode)
    | 0x0212 => d.vInCode == 0 && keel d.vOutCode
    | 0x0213 => keel d.vInCode && d.vOutCode == d.vInCode
    | _ => keel d.vInCode && d.vOutCode == 0
  let usesY := [0x0211, 0x0212, 0x0213].contains d.opcode
  !fmt || decide (fld d.raw 17 1 ≠ 0) || decide (d.vFunc ≠ 0) || (!usesY && d.vY != 0) || d.vW != 0 || d.vMask != 0 ||
  d.vOut2 != 0 || d.vOut3 != 0

/-- Acceptance checks of 0x0210 to 0x0214. -/
def State.keelCheck (s : State) (d : Desc) (auxOk : Bool) : Code :=
  firstBad ([(d.keelFormatBad, E.argFormat),
    (d.vecCountsBad || d.vCols % 32 != 0 || (d.opcode == 0x0210 && (d.keelN == 0 || decide (32768 < d.keelN))), E.argRange)] ++
    s.commonChecks d auxOk (s.inScratch d.pos) d.keelExts none)

/-- Address of element 32k of an FP32 tensor with leading dimension LD. -/
def Desc.tensorAddr (d : Desc) (base k : Nat) : Nat := base + 4 * (32 * k / d.vCols * d.vLd + 32 * k % d.vCols)

def State.tensor32 (s : State) (d : Desc) (k : Nat) : List Val := s.elems d.pos fp32 (d.tensorAddr d.vX k) 32

def State.kblock (s : State) (d : Desc) (a k : Nat) : KBlock :=
  kblockOf d.keelWidth (s.readJob d.pos (a + k * keelBytes d.keelWidth) (keelBytes d.keelWidth))

def State.kheader (s : State) (d : Desc) (a k : Nat) : KBlock := kblockOf 0 (s.readJob d.pos (a + 8 * k) 8)

/-- The bytes block k of an operation reads. -/
def Desc.keelReads (d : Desc) (k : Nat) (_ : State) : List (Nat × Nat) :=
  let kb := keelBytes d.keelWidth
  match d.opcode with
  | 0x0210 => [(d.tensorAddr d.vX k, 128)]
  | 0x0211 => [(d.vX + 8 * k, 8), (d.vY + 8 * k, 8)]
  | 0x0212 => [(d.tensorAddr d.vX k, 128), (d.vY + 8 * k, 8)]
  | 0x0213 => [(d.vX + kb * k, kb), (d.vY + kb * k, kb)]
  | _ => [(d.vX + kb * k, kb)]

/-- A Keel operation by blocks, 64 of them to a segment (R254, R266). -/
def keelOp (body : Desc → Nat → State → RowOut) (ending : Part → Ending) : RowOp :=
  { rows := fun d _ => d.keelBlocks, unit := fun _ => 64, reads := Desc.keelReads, body := body, ending := fun _ _ p => ending p }

def State.keel (s : State) (r : EngRun) (op : Nat) (body : Desc → Nat → State → RowOut) (ending : Part → Ending) : State :=
  s.runOp 2 op r Desc.keelOuts (keelOp body ending)

def header (exp mask : Nat) : List Byte := leBytes 4 exp ++ leBytes 4 mask

def keelExpRow (d : Desc) (k : Nat) (s : State) : RowOut :=
  let vs := s.tensor32 d k
  let n := (vs.filter Val.isSpecial).length
  { writes := [(d.vZ + 8 * k, header (keelExpOf d.keelN vs) (maskOf vs))], count := n, special := decide (0 < n) }

/-- KEEL_EXP (R65, R263). -/
def execKeelExp (r : EngRun) (s : State) : Outc := .next (s.keel r 0x0210 keelExpRow Part.ending)

def keelExpmaxRow (d : Desc) (k : Nat) (s : State) : RowOut :=
  let a := s.kheader d d.vX k
  let b := s.kheader d d.vY k
  { writes := [(d.vZ + 8 * k, header (Nat.max a.exp b.exp) (a.mask ||| b.mask))] }

/-- KEEL_EXPMAX (R263). -/
def execKeelExpmax (r : EngRun) (s : State) : Outc := .next (s.keel r 0x0211 keelExpmaxRow Part.ending)

def keelEncodeRow (d : Desc) (k : Nat) (s : State) : RowOut :=
  let w := d.keelWidth
  let vs := s.tensor32 d k
  let x := (s.kheader d d.vY k).exp
  let ls := vs.map (keelLane w x)
  if ls.any Option.isNone then { err := E.argRange }
  else
    let b : KBlock := { exp := x, mask := maskOf vs, lanes := ls.map fun l => l.getD 0 }
    { writes := [(d.vZ + k * keelBytes w, b.bytes w)], count := b.specials, special := decide (0 < b.specials)
      sum := b.checksum w }

/-- KEEL_ENCODE (R67, R263). -/
def execKeelEncode (r : EngRun) (s : State) : Outc := .next (s.keel r 0x0212 keelEncodeRow Part.sumEnding)

def keelAddRow (d : Desc) (k : Nat) (s : State) : RowOut :=
  let w := d.keelWidth
  match KBlock.add w (s.kblock d d.vX k) (s.kblock d d.vY k) with
  | .inl c => { err := c }
  | .inr b => { writes := [(d.vZ + k * keelBytes w, b.bytes w)], count := b.specials, special := decide (0 < b.specials)
                sum := b.checksum w }

/-- KEEL_ADD (R264). -/
def execKeelAdd (r : EngRun) (s : State) : Outc := .next (s.keel r 0x0213 keelAddRow Part.sumEnding)

def keelDecodeRow (d : Desc) (k : Nat) (s : State) : RowOut :=
  let w := d.keelWidth
  let b := s.kblock d d.vX k
  if b.bad then { err := E.argFormat }
  else
    let rs := (List.range 32).map (b.decode w)
    { writes := [(d.tensorAddr d.vZ k, rs.flatMap fun r => leBytes 4 r.code)], count := b.specials
      sat := rs.any fun r => r.sat, special := rs.any fun r => r.special
      first := ((List.range 32).find? b.special).map fun j => 32 * k + j }

/-- KEEL_DECODE (R68, R69, R263). -/
def execKeelDecode (r : EngRun) (s : State) : Outc := .next (s.keel r 0x0214 keelDecodeRow Part.ending)

end Sys2Proof.Machine
end

