-- ==== Sys2Proof/Machine/RingOps.lean ====
section
/-! DEFINITION. Reduction contexts: ranks and positions (R452, R458), packets and notices (R453, R460), the ring pass
(R457 to R465), the end of a bucket (R465 to R470), formation and settlement (R454, R471 to R474). -/

namespace Sys2Proof.Machine

/-! ### The descriptor (R447) -/

def Desc.rgCtl (d : Desc) : Nat := fld d.raw 17 1
def Desc.rgTol (d : Desc) : Bool := d.rgCtl % 2 == 1
def Desc.rgMode (d : Desc) : Nat := bits d.rgCtl 2 2
def Desc.rgJob (d : Desc) : Nat := fld d.raw 18 2
def Desc.rgBucket (d : Desc) : Nat := fld d.raw 20 2
def Desc.rgGuard (d : Desc) : Nat := fld d.raw 22 2
def Desc.rgCount (d : Desc) : Nat := fld d.raw 24 4
def Desc.rgSettle (d : Desc) : Nat := fld d.raw 28 2
def Desc.rgIn (d : Desc) : Nat := fld d.raw 32 8
def Desc.rgOut (d : Desc) : Nat := fld d.raw 40 8
def Desc.rgWork (d : Desc) : Nat := fld d.raw 48 8

/-! ### Contexts -/

def State.ring (s : State) (k : Nat) : Option RingCtx := (s.az.rings.find? fun r => r.1 == k).map Prod.snd
def State.ringOf (s : State) (rjob : Nat) : Option (Nat × RingCtx) := s.az.rings.find? fun r => r.2.rjob == rjob
def State.updRing (s : State) (k : Nat) (f : RingCtx → RingCtx) : State :=
  { s with az := { s.az with rings := updWhere (fun r => r.1 == k) (fun r => (r.1, f r.2)) s.az.rings } }
def State.freeRing (s : State) (k : Nat) : State :=
  { s with az := { s.az with rings := s.az.rings.filter fun r => r.1 != k } }
def RingCtx.bucket (x : RingCtx) (id : Nat) : Option Bucket := x.buckets.find? fun b => b.id == id
def State.updBucket (s : State) (k id : Nat) (f : Bucket → Bucket) : State :=
  s.updRing k fun x => { x with buckets := updWhere (fun b => b.id == id) f x.buckets }

/-- The ranked list (R452). -/
def RingCtx.ranked (x : RingCtx) : List Nat := x.table.filter fun p => !x.excluded.contains p
/-- Lane width of the context's mode. -/
def RingCtx.w (x : RingCtx) : Nat := if x.mode = 1 then 64 else 32

/-- Where this member stands: ring size n, groups G of up to m positions, rank, group, first and last position it plays
(R452, R457, R458). -/
structure Geo where
  n : Nat
  g : Nat
  m : Nat
  rank : Nat
  grp : Nat
  j0 : Nat
  j1 : Nat
deriving DecidableEq, Repr

def RingCtx.geo (x : RingCtx) (own : Nat) : Geo :=
  let l := x.ranked
  let n := l.length
  let g := if x.mode ≠ 2 ∧ 4096 < n then ceilDiv n 4096 else 1
  let m := ceilDiv n g
  let r := l.idxOf own
  let grp := r / m
  let j0 := r % m
  { n := n, g := g, m := m, rank := r, grp := grp, j0 := j0
    j1 := if r + 1 = Nat.min n ((grp + 1) * m) then m - 1 else j0 }

def State.geo (s : State) (x : RingCtx) : Geo := x.geo (s.cfg.peerId.getD 0)

/-- The rank that plays position j of group k (R458). -/
def Geo.player (q : Geo) (k j : Nat) : Nat := Nat.min (k * q.m + j) (Nat.min q.n ((k + 1) * q.m) - 1)
/-- The positions this member plays. -/
def Geo.mine (q : Geo) : List Nat := (List.range (q.j1 + 1 - q.j0)).map fun i => q.j0 + i
def Geo.plays (q : Geo) (j : Nat) : Bool := decide (q.j0 ≤ j) && decide (j ≤ q.j1)
/-- The rank that follows position j in its group, and the one before this member's positions. -/
def Geo.nextInner (q : Geo) (j : Nat) : Nat := q.player q.grp ((j + 1) % q.m)
def Geo.prevInner (q : Geo) : Nat := q.player q.grp ((q.j0 + q.m - 1) % q.m)
def Geo.nextOuter (q : Geo) (j : Nat) : Nat := q.player ((q.grp + 1) % q.g) j
def Geo.prevOuter (q : Geo) (j : Nat) : Nat := q.player ((q.grp + q.g - 1) % q.g) j
/-- The rank after this one in flat order (laps, R453). -/
def Geo.next (q : Geo) : Nat := (q.rank + 1) % q.n
def Geo.prev (q : Geo) : Nat := (q.rank + q.n - 1) % q.n

def dedupNat : List Nat → List Nat
  | [] => []
  | x :: r => x :: (dedupNat r).filter fun y => y != x

/-- Ranks this member sends data to, and ranks it receives data from (R456, R465). -/
def Geo.to (q : Geo) : List Nat :=
  dedupNat ((q.nextInner q.j1 :: (if 1 < q.g then q.mine.map q.nextOuter else [])).filter fun r => r != q.rank)
def Geo.from_ (q : Geo) : List Nat :=
  dedupNat ((q.prevInner :: (if 1 < q.g then q.mine.map q.prevOuter else [])).filter fun r => r != q.rank)

/-- Blocks of chunk c of q chunks of B blocks: first and count (R455). -/
def chunkOf (B q c : Nat) : Nat × Nat := (c * B / q, (c + 1) * B / q - c * B / q)

/-! ### Contributions -/

/-- The 32 FP32 values of block i of IN. -/
def State.inBlock (s : State) (d : Desc) (i : Nat) : List Val := s.elems d.pos fp32 (d.rgIn + 128 * i) 32

/-- Final headers of a chunk: kind 0. -/
def Bucket.final (b : Bucket) (kind c : Nat) : Option (List KBlock) := (b.finals.find? fun f => f.1 == 4 * c + kind).map Prod.snd

/-- The member's own blocks of chunk c for a kind (R459, R462), none when a value does not fit (R67). -/
def State.ownBlocks (s : State) (x : RingCtx) (b : Bucket) (kind first count : Nat) (heads : List KBlock) : Option (List KBlock) :=
  let d := b.desc
  let bl := (List.range count).map fun i =>
    let vs := s.inBlock d (first + i)
    if kind = 0 then some ({ exp := keelExpOf x.nGuard vs, mask := maskOf vs, lanes := [] } : KBlock)
    else if kind = 2 then
      some ({ exp := 0, mask := 0, lanes := (List.range 32).map fun j => fld (s.readJob d.pos (d.rgIn + 128 * (first + i) + 4 * j) 4) 0 4 } : KBlock)
    else
      let e := (heads.getD i { exp := 0, mask := 0, lanes := [] }).exp
      let ls := vs.map (keelLane x.w e)
      if ls.any Option.isNone then none
      else some ({ exp := e, mask := maskOf vs, lanes := ls.map fun l => l.getD 0 } : KBlock)
  if bl.any Option.isNone then none else some (bl.map fun o => o.getD { exp := 0, mask := 0, lanes := [] })

/-- Blocks of a position played without a member: zero (R458). -/
def zeroBlocks (kind count : Nat) (heads : List KBlock) : List KBlock :=
  (List.range count).map fun i =>
    { exp := if kind = 1 then (heads.getD i { exp := 0, mask := 0, lanes := [] }).exp else 0, mask := 0
      lanes := if kind = 0 then [] else List.replicate 32 0 }

/-- The pass's combining operation (R459, R462), or the code that ends the bucket. -/
def addBlocks (w kind : Nat) : List KBlock → List KBlock → Code ⊕ List KBlock
  | a :: r, b :: t =>
    let one : Code ⊕ KBlock :=
      if kind = 0 then .inr { exp := Nat.max a.exp b.exp, mask := a.mask ||| b.mask, lanes := [] }
      else if kind = 2 then
        .inr { exp := 0, mask := 0, lanes := List.zipWith (fun p q => (fp32.encode true .rne 0 ((fp32.decode p).add (fp32.decode q))).code) a.lanes b.lanes }
      else KBlock.add w a b
    match one, addBlocks w kind r t with
    | .inl c, _ => .inl c
    | _, .inl c => .inl c
    | .inr o, .inr l => .inr (o :: l)
  | _, _ => .inr []

/-- The checksum of lanes (R463). -/
def sumOf (w : Nat) (bs : List KBlock) : Nat := (bs.foldl (fun n b => n + b.checksum w) 0) % 2 ^ 64

/-! ### WORK (R455, R459; log 44, DESIGN CHOICE, unsafe): an array of 8-byte headers, then an array of padded blocks -/

def RingCtx.workBytes (x : RingCtx) (blocks : Nat) : Nat :=
  blocks * (if x.mode = 0 then 144 else if x.mode = 1 then 272 else 128)

def State.writeWork (s : State) (x : RingCtx) (d : Desc) (first : Nat) (bs : List KBlock) : State :=
  if x.mode = 2 then s.writeJob d.pos (d.rgWork + 128 * first) (bs.flatMap fun b => b.lanes.flatMap (leBytes 4))
  else
    let s := s.writeJob d.pos (d.rgWork + 8 * first) (bs.flatMap fun b => header b.exp b.mask)
    s.writeJob d.pos (d.rgWork + 8 * d.rgCount + keelBytes x.w * first) (bs.flatMap fun b => b.bytes x.w)

def State.readWork (s : State) (x : RingCtx) (d : Desc) (first count : Nat) : List KBlock :=
  (List.range count).map fun i =>
    if x.mode = 2 then
      let a := s.readJob d.pos (d.rgWork + 128 * (first + i)) 128
      { exp := 0, mask := 0, lanes := (List.range 32).map fun j => fld a (4 * j) 4 }
    else kblockOf x.w (s.readJob d.pos (d.rgWork + 8 * d.rgCount + keelBytes x.w * (first + i)) (keelBytes x.w))

/-! ### Packets (R460) -/

def kindType (kind : Nat) : Byte := if kind = 0 then Wire.keelExp else if kind = 1 then Wire.keelLanes else Wire.fpRing
/-- Blocks in one packet. -/
def perPacket (kind w : Nat) : Nat := if kind = 0 then 819 else if kind = 2 then 32 else if w = 64 then 15 else 30

def blockBytes (kind w : Nat) (b : KBlock) : List Byte :=
  if kind = 0 then leBytes 1 b.exp ++ leBytes 4 b.mask
  else if kind = 2 then b.lanes.flatMap (leBytes 4) else b.packed w

/-- Bytes of one block on the wire. -/
def wireBytes (kind w : Nat) : Nat := if kind = 0 then 5 else if kind = 2 then 128 else 5 + 4 * w

def blockFrom (kind w : Nat) (bs : List Byte) : KBlock :=
  if kind = 0 then { exp := fld bs 0 1, mask := fld bs 1 4, lanes := [] }
  else if kind = 2 then { exp := 0, mask := 0, lanes := (List.range 32).map fun j => fld bs (4 * j) 4 }
  else kblockOfPacked w bs

/-- SPEC of a reduction packet (R460). -/
def ringSpec (rjob bucket rgen phase chunk first : Nat) : List Byte :=
  specOf [(20, 2, rjob), (22, 2, bucket), (24, 1, rgen), (25, 1, phase), (26, 2, chunk), (28, 4, first)]

/-- The packets of one chunk step leave for a peer. -/
def State.sendMsg (s : State) (x : RingCtx) (peer bucket attempt : Nat) (m : Msg) : State :=
  let per := perPacket m.kind x.w
  let np := Nat.max 1 (ceilDiv m.blocks.length per)
  (List.range np).foldl (fun s i =>
    let last := i + 1 == np
    let phase := (if m.ag then 1 else 0) + (if m.outer then 2 else 0) + (if last then 4 else 0) + 8 * attempt
    let body := ((m.blocks.drop (i * per)).take per).flatMap (blockBytes m.kind x.w)
    let body := if last && m.kind == 1 then body ++ leBytes 8 m.sum else body
    s.azSend peer (s.mkPkt (kindType m.kind) (4 + m.kind) peer
      (ringSpec x.rjob bucket x.rgen phase (m.chunk + 4096 * m.sub) (i * per)) body) .none) s

/-- A chunk step goes to a rank once that peer's ACCEPT is held (R456); until then it waits. -/
def State.sendStep (s : State) (k rank id : Nat) (m : Msg) : State :=
  match s.ring k with
  | none => s
  | some x =>
    let p := x.ranked.getD rank 0
    let attempt := match x.bucket id with
      | some b => b.attempt
      | none => 0
    if x.accepts.contains (id, p) then s.sendMsg x p id attempt m
    else s.updRing k fun x => { x with outbox := x.outbox ++ [(rank, id, m)] }

/-! ### Notices (R453) -/

def noticeBytes (kind origin : Nat) (code : Code) (fs : List (Nat × Nat × Nat)) : List Byte :=
  ([(0, 1, kind), (2, 2, origin), (4, 2, code.toNat)] ++ fs).foldl (fun (b : List Byte) (f : Nat × Nat × Nat) => patch b f.1 (leBytes f.2.1 f.2.2)) (List.replicate 96 0)

def State.sendNotice (s : State) (x : RingCtx) (peer : Nat) (n : Notice) : State :=
  s.azSend peer (s.mkPkt Wire.keelExp 4 peer (ringSpec x.rjob n.bucket n.rgen 0x10 n.chunk 0) n.bytes) .none

/-- A notice to the next rank. -/
def State.lapOn (s : State) (k : Nat) (n : Notice) : State :=
  match s.ring k with
  | none => s
  | some x => let q := s.geo x
              if q.n ≤ 1 then s else s.sendNotice x (x.ranked.getD q.next 0) n

/-- A notice of this member about a bucket. -/
def State.note (s : State) (x : RingCtx) (kind : Nat) (code : Code) (bucket chunk : Nat) : Notice :=
  { bucket := bucket, chunk := chunk, rgen := x.rgen, bytes := noticeBytes kind (s.cfg.peerId.getD 0) code [] }

/-! ### The end of a bucket (R465 to R472) -/

/-- An operation under TOLERATE ends without faulting the job for these codes (R466, R469, R472, R474). -/
def tolerated (tol : Bool) (c : Code) : Bool :=
  tol && [E.reduceChecksum, E.reduceAborted, E.reduceSpecial, E.peerGone].contains c

/-- An Azlink operation completes wherever it is queued; a tolerated code does not fault the job. While its status record waits, it
keeps its ending (R269). -/
def State.azComplete (s : State) (d : Desc) (e : Ending) : State :=
  match s.azFind d.serial with
  | none => s
  | some (num, _) =>
    let e := { e with err := if e.err = E.ok ∧ s.statusLost d then E.argRange else e.err }
    if s.statusWaits d then
      s.atStatus 8 num d (num / 8) s |>.saveDesc 8 num d.serial fun d =>
        { d with part := { d.part with ended := true, err := e.err, count := e.count, missed := e.missed, special := e.special, sat := e.sat
                                       first := if e.detail = 2 ^ 64 - 1 then none else some e.detail } }
    else if tolerated d.rgTol e.err then
      let s := if d.statusAddr = 0 then s else s.writeJob d.pos d.statusAddr e.bytes
      (s.freeEntry 8 num d.serial).doneCtr d
    else s.complete 8 num d e

/-- The ended operations of a port engine whose status record waited go on. -/
def State.azOvers (s : State) (num op : Nat) : State :=
  ((s.engine 8 num).queue.filter fun d => d.part.ended && d.opcode == op).foldl (fun s d => s.azComplete d d.part.ending) s

/-- a precedes b modulo 2^16 (R448). -/
def idBefore (a b : Nat) : Bool := let d := (b + 65536 - a) % 65536; decide (1 ≤ d) && decide (d < 32768)

/-- LOW (R448). -/
def RingCtx.low (x : RingCtx) : Nat :=
  match x.buckets with
  | [] => x.next
  | b :: r => r.foldl (fun m c => if idBefore c.id m then c.id else m) b.id

/-- SETTLE_CTR advances when a bucket is settled (R471). -/
def State.settle (s : State) (k id : Nat) : State :=
  match (s.ring k).bind fun x => x.ended.find? fun e => e.id == id && !e.settled with
  | none => s
  | some e =>
    let s := s.updRing k fun x => { x with ended := updWhere (fun e => e.id == id) (fun e => { e with settled := true }) x.ended }
    if e.desc.rgSettle = 0xFFFF then s else s.bumpCtr e.desc.pos e.desc.rgSettle

def endedWell (c : Code) : Bool := c == E.ok || c == E.reduceSpecial

/-- AZ_RING_CLOSE ends once every accepted bucket has ended and settled: LEAVE goes round and the context is free (R447,
R475). -/
def State.closeTry (s : State) (k : Nat) : State :=
  match s.ring k with
  | none => s
  | some x =>
    match x.closing with
    | none => s
    | some d =>
      let busy := match s.azFind d.serial with
        | some (_, e) => !e.started
        | none => false
      if busy || !x.buckets.isEmpty || x.ended.any (fun e => endedWell e.code && !e.settled) then s
      else ((s.lapOn k (s.note x 10 E.ok 0 0)).freeRing k).azComplete d {}

/-- Bucket `id` ends with a code (R465, R466, R470, R472): its record, its place among the ended, rank 0's SETTLE lap. -/
def State.endBucket (s : State) (k id : Nat) (e : Ending) : State :=
  match s.ring k with
  | none => s
  | some x =>
    match x.bucket id with
    | none => s
    | some b =>
      let q := s.geo x
      let gone := e.err == E.reduceAborted || e.err == E.peerGone
      let s := s.updRing k fun x =>
        let nx := if idBefore id x.next then x.next else (id + 1) % 65536
        let x := { x with buckets := x.buckets.filter (fun c => c.id != id), next := nx
                          aborts := if gone then Nat.min 0xFFFF (x.aborts + 1) else x.aborts
                          outbox := x.outbox.filter fun o => o.2.1 != id || (endedWell e.err) }
        { x with ended := ({ id := id, code := e.err, desc := b.desc, settled := false } : Ended) ::
                          x.ended.filter (fun f => f.id != id && ((f.id + 65536 + 128 - x.low) % 65536 < 256)) }
      let s := s.azComplete b.desc e
      let s := if e.err = E.reduceChecksum then
          s.evFault E.reduceChecksum { job := x.job, obj := k, obj2 := id } else s
      let s := if endedWell e.err then
          (let s := if q.n ≤ 1 then s.settle k id
                    else if q.rank = 0 then s.lapOn k (s.note x 8 E.ok id 0) else s
           -- a SETTLE lap that waited for this end goes on (R471)
           match (s.ring k).bind fun x => x.held.find? fun n => fld n.bytes 0 1 == 8 && n.bucket == id with
           | none => s
           | some n => (s.lapOn k n).updRing k fun x => { x with held := x.held.filter fun m => m != n })
        else s
      s.closeTry k

/-- A FAIL lap starts here: the bucket ends with the code at once (R464 to R466, R477). -/
def State.failLap (s : State) (k id : Nat) (code : Code) : State :=
  match s.ring k with
  | none => s
  | some x => (s.lapOn k (s.note x 7 code id 0)).endBucket k id { err := code }

/-- The result of a bucket whose chunks are all final: the bytes of OUT and the status (R455, R468, R469). -/
def State.bucketResult (_s : State) (x : RingCtx) (b : Bucket) (m : Nat) : List Byte × Ending :=
  let kind := if x.mode = 2 then 2 else 1
  let bs := (List.range m).flatMap fun c => (b.final kind c).getD []
  let rs : List (Rounded × Bool) := bs.flatMap fun bl => (List.range 32).map fun j =>
    if x.mode = 2 then
      let v := fp32.decode (bl.lane j)
      ({ code := bl.lane j, sat := false, special := v.isSpecial }, v.isSpecial)
    else (bl.decode x.w j, bl.special j)
  let n := (rs.filter fun r => r.2).length
  (rs.flatMap fun r => leBytes 4 r.1.code,
   { err := if x.refuse && decide (0 < n) then E.reduceSpecial else E.ok, count := n, special := decide (0 < n)
     sat := rs.any fun r => r.1.sat, detail := ((List.range rs.length).find? fun i => (rs.getD i ({ code := 0, sat := false, special := false }, false)).2).getD (2 ^ 64 - 1) })

/-- A range of a bucket's operands may be written now; pages that are not resident start their fault-ins. -/
def State.bucketRoom (s : State) (d : Desc) (a n : Nat) : Bool × State :=
  match s.spanOf d.pos a n true with
  | .absent ps => (false, ps.foldl (fun s p => s.faultIn d.pos p ((s.job d.pos).man.stackOfPage p) d.account) s)
  | _ => (!s.mustHold d.pos a n, s)

/-- A bucket ends when every chunk is verified, OUT can be written and every receiver of all-gather data has sent VERIFIED
(R465). VERIFIED goes to the members this one received from. -/
def State.tryEnd (s : State) (k id : Nat) : State :=
  match s.ring k with
  | none => s
  | some x =>
    match x.bucket id with
    | none => s
    | some b =>
      let q := s.geo x
      let kind := if x.mode = 2 then 2 else 1
      if !b.started || (List.range q.m).any (fun c => (b.final kind c).isNone) then s
      else
        let back := if b.served then [q.prev] else q.from_
        let fwd := if b.served then [q.next] else q.to
        let s := if b.sentVerified then s else
          (back.foldl (fun s r => s.sendNotice x (x.ranked.getD r 0) (s.note x 6 E.ok id 0)) s).updBucket k id
            fun b => { b with sentVerified := true }
        if q.n > 1 && fwd.any (fun r => !b.verified.contains (x.ranked.getD r 0)) then s
        else
          let (bytes, e) := s.bucketResult x b q.m
          match s.bucketRoom b.desc b.desc.rgOut bytes.length with
          | (false, s) => s
          | (true, s) => if s.partBad b.desc.pos b.desc.rgOut bytes.length then s.endBucket k id { e with err := E.uncorrectable }
              else (s.writeJob b.desc.pos b.desc.rgOut bytes).endBucket k id e

/-! ### The ring pass (R457 to R465) -/

/-- A reduce-scatter mismatch: a RETRY lap at attempt 0, a FAIL lap at attempt 1 (R464). Answers the state; `restart` runs
the passes again. -/
def Bucket.again (b : Bucket) : Bucket :=
  { b with attempt := 1, inbox := [], partials := [], subs := [], finals := [], resent := [], verified := []
           sentVerified := false }

/-- Own blocks of chunk c at position j. -/
def State.contribution (s : State) (x : RingCtx) (b : Bucket) (q : Geo) (kind j c : Nat) : Option (List KBlock) :=
  let (first, count) := chunkOf b.desc.rgCount q.m c
  let heads := (b.final 0 c).getD []
  if j = q.j0 then s.ownBlocks x b kind first count heads else some (zeroBlocks kind count heads)

/-- What the ring has to do next for a bucket. -/
inductive RingAct where
  | step (rank : Nat) (m : Msg)
  | here (pos : Nat) (m : Msg)

/-- A step from position j to the one after it in its group. -/
def Geo.toNext (q : Geo) (j : Nat) (m : Msg) : RingAct :=
  let nj := (j + 1) % q.m
  if q.plays nj then .here nj m else .step (q.nextInner j) m
def Geo.toOuter (q : Geo) (j : Nat) (m : Msg) : RingAct := .step (q.nextOuter j) m

/-- Received lanes are as their sender vouched (R464): the checksum, each EXP, each lane. -/
def Msg.sound (m : Msg) (w : Nat) (heads : List KBlock) : Bool :=
  m.kind != 1 || (sumOf w m.blocks == m.sum && m.blocks.all (fun b => !b.bad) &&
    (List.zipWith (fun (b h : KBlock) => b.exp == h.exp) m.blocks heads).all (fun b => b) && m.blocks.length == heads.length)

/-- The headers of the blocks a step carries. -/
def Msg.heads (m : Msg) (b : Bucket) (g : Nat) : List KBlock :=
  let h := (b.final 0 m.chunk).getD []
  if m.outer then let r := chunkOf h.length g m.sub
                  (h.drop r.1).take r.2
  else h

/-- A step can be used: lanes need their agreed header, an outer reduce-scatter step needs this group's partial. -/
def Bucket.canUse (b : Bucket) (m : Msg) : Bool :=
  (m.kind != 1 || (b.final 0 m.chunk).isSome) &&
  (!(m.outer && !m.ag) || b.partials.any fun p => p.1 == 4 * m.chunk + m.kind)

/-- What using a step gives: changes to the bucket and things to do, a mismatch, or a code that ends the bucket. -/
inductive Used where
  | ok (b : Bucket) (acts : List RingAct) (finals : List (Nat × Nat × List KBlock))
  | mismatch
  | fail (c : Code)

/-- Uses a chunk step at position j. `finals` lists chunks that became final here: (kind, chunk, blocks). -/
def State.useStep (s : State) (x : RingCtx) (b : Bucket) (q : Geo) (j : Nat) (m : Msg) : Used :=
  if !m.sound x.w (m.heads b q.g) then .mismatch
  else if b.served then
    .ok b (if b.served then [.step q.next m] else []) [(m.kind, m.chunk, m.blocks)]
  else if !m.ag && !m.outer then
    match s.contribution x b q m.kind j m.chunk with
    | none => .fail E.argRange
    | some own => match addBlocks x.w m.kind m.blocks own with
      | .inl c => .fail c
      | .inr bs =>
        let m' := { m with blocks := bs, sum := (m.sum + sumOf x.w own) % 2 ^ 64 }
        if m.chunk ≠ j then .ok b [q.toNext j m'] []
        else if m.kind == 1 && sumOf x.w bs != m'.sum then .mismatch
        else if q.g = 1 then .ok b [] [(m.kind, m.chunk, bs)]
        else
          let sub := (q.grp + q.g - 1) % q.g
          let r := chunkOf bs.length q.g sub
          let part := (bs.drop r.1).take r.2
          .ok { b with partials := tset [] (4 * m.chunk + m.kind) bs b.partials }
            [q.toOuter j { m with outer := true, sub := sub, blocks := part, sum := sumOf x.w part }] []
  else if !m.ag then
    let whole := tget [] (4 * m.chunk + m.kind) b.partials
    let r := chunkOf whole.length q.g m.sub
    match addBlocks x.w m.kind m.blocks ((whole.drop r.1).take r.2) with
    | .inl c => .fail c
    | .inr bs =>
      let sum := (m.sum + sumOf x.w ((whole.drop r.1).take r.2)) % 2 ^ 64
      if m.sub ≠ q.grp then .ok b [q.toOuter j { m with blocks := bs, sum := sum }] []
      else if m.kind == 1 && sumOf x.w bs != sum then .mismatch
      else .ok b [.here j { m with ag := true, blocks := bs, sum := sum }] []
  else if m.outer then
    let key := 8 * (4 * m.chunk + m.kind) + m.sub
    let b := { b with subs := (key, m.blocks) :: b.subs.filter fun e => e.1 != key }
    let acts := if m.sub = (q.grp + 1) % q.g then [] else [q.toOuter j m]
    let got (t : Nat) : Option (List KBlock) := (b.subs.find? fun e => e.1 == 8 * (4 * m.chunk + m.kind) + t).map Prod.snd
    if (List.range q.g).all fun t => (got t).isSome then
      .ok b acts [(m.kind, m.chunk, (List.range q.g).flatMap fun t => (got t).getD [])]
    else .ok b acts []
  else
    .ok b (if m.chunk = (j + 1) % q.m then [] else [q.toNext j m]) [(m.kind, m.chunk, m.blocks)]

/-- Steps that a chunk becoming final at this member starts: its own all-gather when it is the owner, and the lanes of
chunk j - 1 once their header is agreed (R457, R459). -/
def State.onFinal (s : State) (x : RingCtx) (b : Bucket) (q : Geo) (kind c : Nat) (bs : List KBlock) (owner : Bool) : Used :=
  let ag := if owner && decide (1 < q.m) && q.plays c then
      [q.toNext c { kind := kind, ag := true, outer := false, chunk := c, sub := 0, blocks := bs, sum := sumOf x.w bs }] else []
  if kind = 0 ∧ x.mode ≠ 2 ∧ !b.served then
    let starts := q.mine.filter fun j => (j + q.m - 1) % q.m == c
    starts.foldl (fun u j => match u with
      | .ok b acts fs =>
        (match s.contribution x b q 1 j c with
         | none => .fail E.argRange
         | some own =>
           if q.m = 1 then .ok b acts ((1, c, own) :: fs)
           else .ok b (acts ++ [q.toNext j { kind := 1, ag := false, outer := false, chunk := c, sub := 0, blocks := own, sum := sumOf x.w own }]) fs)
      | u => u) (.ok b ag [])
  else .ok b ag []

/-- Carries out what a step gave: chunk results are kept (lanes also in WORK), steps leave or wait at a position. -/
def State.carry (s : State) (k id : Nat) (q : Geo) (acts : List RingAct) : State :=
  acts.foldl (fun s a => match a with
    | .here j m => s.updBucket k id fun b => { b with inbox := b.inbox ++ [(j, m)] }
    | .step r m => if r = q.rank then s.updBucket k id fun b => { b with inbox := b.inbox ++ [(q.j0, m)] } else s.sendStep k r id m) s

/-- A chunk is final: once. -/
def State.finalize (s : State) (k id : Nat) (kind c : Nat) (bs : List KBlock) (owner : Bool) : Nat → State
  | 0 => s
  | n + 1 =>
    match s.ring k with
    | none => s
    | some x => match x.bucket id with
      | none => s
      | some b =>
        if (b.final kind c).isSome then s
        else
          let q := s.geo x
          let b' := { b with finals := (4 * c + kind, bs) :: b.finals }
          let s := s.updBucket k id fun _ => b'
          let s := if kind = 0 then s else s.writeWork x b.desc (chunkOf b.desc.rgCount q.m c).1 bs
          match s.onFinal x b' q kind c bs owner with
          | .ok _ acts fs => fs.foldl (fun s f => State.finalize s k id f.1 f.2.1 f.2.2 true n) (s.carry k id q acts)
          | .mismatch => s
          | .fail code => s.failLap k id code

/-- The passes begin at this member: chunk j - 1 leaves each position it plays (R457). -/
def State.beginPasses (s : State) (k id : Nat) : State :=
  match s.ring k with
  | none => s
  | some x => match x.bucket id with
    | none => s
    | some b =>
      let q := s.geo x
      let kind := if x.mode = 2 then 2 else 0
      if b.served then s
      else q.mine.foldl (fun s j =>
        let c := (j + q.m - 1) % q.m
        match s.contribution x b q kind j c with
        | none => s.failLap k id E.argRange
        | some own =>
          if q.m = 1 then s.finalize k id kind c own true 2
          else s.carry k id q [q.toNext j { kind := kind, ag := false, outer := false, chunk := c, sub := 0, blocks := own, sum := 0 }]) s

/-- A RETRY takes effect at this member (R464). -/
def State.retryBucket (s : State) (k id : Nat) : State :=
  let s := s.updRing k fun x =>
    { x with retries := Nat.min 0xFFFF (x.retries + 1), asm := x.asm.filter (fun a => a.2.1 != id)
             outbox := x.outbox.filter (fun o => o.2.1 != id), buckets := updWhere (fun b => b.id == id) Bucket.again x.buckets }
  s.beginPasses k id

/-- A mismatch in received lanes (R464, R465). -/
def State.mismatch (s : State) (k id j : Nat) (m : Msg) : State :=
  match s.ring k with
  | none => s
  | some x => match x.bucket id with
    | none => s
    | some b =>
      let q := s.geo x
      if !m.ag then
        if b.attempt = 0 then (s.lapOn k (s.note x 4 E.ok id 0)).retryBucket k id
        else s.failLap k id E.reduceChecksum
      else
        let key := 8 * m.chunk + (if m.outer then m.sub + 1 else 0)
        if b.resent.contains key then s.failLap k id E.reduceChecksum
        else
          let src := if b.served then q.prev else if m.outer then q.prevOuter j else q.prevInner
          (s.updBucket k id fun b => { b with resent := key :: b.resent }).sendNotice x (x.ranked.getD src 0)
            (s.note x 5 E.ok id (m.chunk + 4096 * m.sub))

/-- Uses the steps that wait, one after another, while one can be used. -/
def State.ringRun (s : State) (k id : Nat) : Nat → State
  | 0 => s
  | n + 1 =>
    match s.ring k with
    | none => s
    | some x => match x.bucket id with
      | none => s
      | some b =>
        if !b.started then s else
        match b.inbox.find? fun e => b.canUse e.2 with
        | none => s
        | some (j, m) =>
          let q := s.geo x
          let s := s.updBucket k id fun b => { b with inbox := b.inbox.erase (j, m) }
          match s.useStep x { b with inbox := b.inbox.erase (j, m) } q j m with
          | .mismatch => State.ringRun (s.mismatch k id j m) k id n
          | .fail c => s.failLap k id c
          | .ok b' acts fs =>
            let s := s.updBucket k id fun _ => b'
            let s := s.carry k id q acts
            let s := fs.foldl (fun s f => s.finalize k id f.1 f.2.1 f.2.2 (!m.ag || m.outer) 2) s
            State.ringRun s k id n

/-- Runs a bucket as far as it goes. The bound covers every step of every position. -/
def State.ringGo (s : State) (k id : Nat) : State :=
  match s.ring k with
  | none => s
  | some x => (s.ringRun k id (8 * ((s.geo x).m + 8) * ((s.geo x).j1 + 1 - (s.geo x).j0 + 8))).tryEnd k id

/-- An accepted bucket's exchange begins when its engine takes it: IN, OUT and WORK must be resident, and an uncorrectable
IN ends it (R459, R477). -/
def State.startBucket (s : State) (k id : Nat) : State :=
  match s.ring k with
  | none => s
  | some x => match x.bucket id with
    | none => s
    | some b =>
      let d := b.desc
      if b.started || x.st != .ready then s
      else match s.spanOf d.pos d.rgIn (128 * d.rgCount) false with
        | .absent ps => ps.foldl (fun s p => s.faultIn d.pos p ((s.job d.pos).man.stackOfPage p) d.account) s
        | .bad => s.failLap k id E.argRange
        | .runs _ => match s.bucketRoom d d.rgWork (x.workBytes d.rgCount) with
          | (false, s) => s
          | (true, s) =>
            let s := s.updBucket k id fun b => { b with started := true }
            if s.badRange d.pos d.rgIn (128 * d.rgCount) then s.failLap k id E.uncorrectable
            else (s.beginPasses k id).ringGo k id

/-! ### Formation (R452 to R454, R472 to R474) -/

/-- Bytes 0 to 7 of the SHA-512 of the ranked list (R453). -/
def RingCtx.digest (x : RingCtx) : List Byte := (sha512 (x.ranked.flatMap (leBytes 2))).take 8

def RingCtx.modeb (x : RingCtx) : Nat := x.mode + (if x.refuse then 4 else 0)

/-- Bitmap bits of this member's ended buckets (R453). -/
def RingCtx.endBits (x : RingCtx) (base : Nat) (p : Code → Bool) : Nat :=
  x.ended.foldl (fun n e => let i := (e.id + 65536 - base) % 65536
                            if i < 256 ∧ p e.code then n ||| 2 ^ i else n) 0

def goneCode (c : Code) : Bool := c == E.reduceAborted || c == E.peerGone

def formBytes (x : RingCtx) (own kind base done aborted : Nat) : List Byte :=
  noticeBytes kind own E.ok [(8, 8, leNat x.digest), (16, 2, x.ranked.length), (18, 2, x.nGuard), (20, 1, x.modeb),
    (22, 2, base), (24, 32, done), (56, 32, aborted)]

/-- Ids named by set bits. -/
def bitIds (base v : Nat) : List Nat := ((List.range 256).filter fun i => bits v i 1 == 1).map fun i => (base + i) % 65536

/-- ACCEPT of a bucket goes to every member this one will receive its data from (R456). -/
def State.sendAccept (s : State) (k id : Nat) : State :=
  match s.ring k with
  | none => s
  | some x =>
    let q := s.geo x
    if q.n ≤ 1 then s
    else (if x.mixed.contains id then [q.prev] else q.from_).foldl
      (fun s r => s.sendNotice x (x.ranked.getD r 0) (s.note x 3 E.ok id 0)) s

/-- This member serves a bucket from WORK as an all-gather around the ring (R473). -/
def State.serve' (s : State) (k id : Nat) : State :=
  match s.ring k with
  | none => s
  | some x => match x.ended.find? fun e => e.id == id && endedWell e.code with
    | none => s
    | some e =>
      let q := s.geo x
      (List.range q.m).foldl (fun s c =>
        let r := chunkOf e.desc.rgCount q.m c
        let bs := s.readWork x e.desc r.1 r.2
        let h : Msg := { kind := 0, ag := true, outer := false, chunk := c, sub := 0, blocks := bs.map fun b => { b with lanes := [] }, sum := 0 }
        let m : Msg := { kind := if x.mode = 2 then 2 else 1, ag := true, outer := false, chunk := c, sub := 0, blocks := bs, sum := sumOf x.w bs }
        let s := if x.mode = 2 then s else s.sendStep k q.next id h
        s.sendStep k q.next id m) s

/-- The context becomes READY (R454, R471, R473): buckets that ended everywhere are settled, mixed ones are served, queued
ones are announced, the open completes. -/
def State.ringReady (s : State) (k base done aborted : Nat) : State :=
  match s.ring k with
  | none => s
  | some x =>
    let mixed := bitIds base (done &&& aborted)
    let whole := (bitIds base done).filter fun i => !mixed.contains i
    let s := s.updRing k fun x =>
      { x with st := .ready, formEpoch := s.az.epoch, mixed := mixed, serves := x.serves.filter (mixed.contains ·), relayed := []
               buckets := x.buckets.map fun b => { b with served := mixed.contains b.id } }
    let s := whole.foldl (fun s i => if x.ended.any (fun e => e.id == i && endedWell e.code) then s.settle k i else s) s
    let q := s.geo x
    let s := match x.openDesc with
      | none => s
      | some d => (s.updRing k fun x => { x with openDesc := none }).azComplete d { detail := q.n * 65536 + q.rank }
    let s := ((x.buckets.map fun b => b.id) ++ mixed.filter fun i => x.ended.any fun e => e.id == i && endedWell e.code).foldl
      (fun s i => s.sendAccept k i) s
    let s := ((x.serves.filter (mixed.contains ·))).foldl (fun s i => s.serve' k i) s
    (((x.buckets.filter fun b => (s.azFind b.desc.serial).any fun e => e.2.started).map fun b => b.id).foldl
      (fun s i => s.startBucket k i) s).closeTry k

/-- Rank 0 starts a FORM lap once its context is open and every ranked peer is a member; a ring of one is READY at once
(R454). -/
def State.formStart (s : State) (k : Nat) : State :=
  match s.ring k with
  | none => s
  | some x =>
    let q := s.geo x
    let own := s.cfg.peerId.getD 0
    let base := (x.low + 65536 - 128) % 65536
    if !x.opened || x.st == .ready then s
    else if q.n ≤ 1 then s.ringReady k base (x.endBits base endedWell) (x.endBits base goneCode)
    else if q.rank ≠ 0 || x.ranked.any (fun p => p != own && !s.isMember p) then s
    else
      let s := s.updRing k fun x => { x with serves := bitIds base (x.endBits base endedWell) }
      s.lapOn k { bucket := 0, chunk := 0, rgen := x.rgen
                  bytes := formBytes x own 1 base (x.endBits base endedWell) (x.endBits base goneCode) }

/-- The open fails: it ends with the code and the context is free (R454). -/
def State.openFails (s : State) (k : Nat) (code : Code) : State :=
  match s.ring k with
  | none => s
  | some x =>
    let s := x.buckets.foldl (fun s b => s.endBucket k b.id { err := code }) s
    let s := s.freeRing k
    let s := match x.closing with
      | none => s
      | some d => s.azComplete d { err := code }
    match x.openDesc with
    | none => s
    | some d => s.azComplete d { err := code }

/-- A FORM notice at a member (R454): held until its list agrees, refused with FAIL when MODEB or N_GUARD differ, else
passed on with this member's bits; at rank 0 it has come round. -/
def State.formNotice (s : State) (k : Nat) (n : Notice) : State :=
  match s.ring k with
  | none => s
  | some x =>
    let own := s.cfg.peerId.getD 0
    let hold (s : State) : State := s.updRing k fun x => { x with held := (x.held.filter fun m => fld m.bytes 0 1 != 1) ++ [n] }
    let base := fld n.bytes 22 2
    let done := fld n.bytes 24 32
    let aborted := fld n.bytes 56 32
    if x.st == .ready then s
    else if !x.opened || n.rgen != x.rgen || x.ranked.any (fun p => p != own && !s.isMember p) ||
        slice n.bytes 8 8 != x.digest || fld n.bytes 16 2 != x.ranked.length then hold s
    else if fld n.bytes 20 1 != x.modeb || fld n.bytes 18 2 != x.nGuard then
      (s.lapOn k { n with bytes := noticeBytes 7 own E.argFormat [] }).openFails k E.argFormat
    else if fld n.bytes 2 2 = own then
      (s.lapOn k { n with bytes := formBytes x own 2 base done aborted }).ringReady k base done aborted
    else
      let mine := x.endBits base endedWell
      let s := s.updRing k fun x =>
        { x with held := x.held.filter (fun m => fld m.bytes 0 1 != 1)
                 serves := (bitIds base mine).filter fun i => !(bitIds base done).contains i }
      s.lapOn k { n with bytes := patch (patch n.bytes 24 (leBytes 32 (done ||| mine))) 56 (leBytes 32 (aborted ||| x.endBits base goneCode)) }

/-- Held FORM notices are compared again after a change (R454). -/
def State.formAgain (s : State) (k : Nat) : State :=
  match s.ring k with
  | none => s
  | some x => (x.held.filter fun n => fld n.bytes 0 1 == 1).foldl (fun s n => s.formNotice k n) (s.formStart k)

/-- The context becomes BROKEN (R472): RGEN advances, every bucket accepted and not ended ends with E_REDUCE_ABORTED. -/
def State.breakRing (s : State) (k : Nat) (out : List Nat) : State :=
  match s.ring k with
  | none => s
  | some x =>
    let s := s.updRing k fun x => { x with
      excluded := x.excluded ++ out.filter fun p => !x.excluded.contains p
      rgen := if x.st == .ready || x.st == .forming then (x.rgen + 1) % 256 else x.rgen
      st := .broken
      accepts := [], asm := [], outbox := [], relayed := [], mixed := []
      held := x.held.filter fun n => fld n.bytes 0 1 == 1 }
    let s := x.buckets.foldl (fun s b => s.endBucket k b.id { err := E.reduceAborted }) s
    s.formAgain k

end Sys2Proof.Machine
end

