-- ==== Sys2Proof/Machine/RingRecv.lean ====
section
/-! DEFINITION. Reduction packets and notices as they arrive (R453 to R473, R476, R477). -/

namespace Sys2Proof.Machine

/-- A packet of an old RGEN or ATTEMPT (R476). -/
def State.strayed (s : State) (k : Nat) : State :=
  s.updRing k fun x => { x with stray := Nat.min 0xFFFF (x.stray + 1) }

/-- The context a reduction packet of a peer belongs to: by RJOB and sender (R446). -/
def State.ringFrom (s : State) (p rjob : Nat) : Option (Nat × RingCtx) :=
  match s.ringOf rjob with
  | some (k, x) => if x.table.contains p then some (k, x) else none
  | none => none

/-- The blocks of a data packet and its SUMCHK; none when the payload is no whole number of blocks. -/
def msgOf (k : Pkt) (kind w : Nat) : Option Msg :=
  let ph := k.spec' 25 1
  let last := bits ph 2 1 == 1
  let tail := if last && kind == 1 then 8 else 0
  let n := (k.payload.length - tail) / wireBytes kind w
  if k.payload.length < tail ∨ n * wireBytes kind w + tail ≠ k.payload.length then none
  else some
    { kind := kind, ag := bits ph 0 1 == 1, outer := bits ph 1 1 == 1, chunk := k.spec' 26 2 % 4096
      sub := bits (k.spec' 26 2) 12 3
      blocks := (List.range n).map fun i => blockFrom kind w (slice k.payload (i * wireBytes kind w) (wireBytes kind w))
      sum := if last && kind == 1 then fld k.payload (n * wireBytes kind w) 8 else 0 }

/-- Two parts of one chunk step. -/
def Msg.sameStep (a b : Msg) : Bool :=
  a.kind == b.kind && a.ag == b.ag && a.outer == b.outer && a.chunk == b.chunk && a.sub == b.sub

/-- A whole chunk step has arrived from a peer: it waits at its position and the bucket runs on; a bucket that has ended
here and is served is passed on until it is back at the member that serves it (R473). -/
def State.stepIn (s : State) (k p id : Nat) (m : Msg) : State :=
  match s.ring k with
  | none => s
  | some x =>
    let q := s.geo x
    match x.bucket id with
    | some _ =>
      (s.updBucket k id fun b => { b with inbox := b.inbox ++ [(if m.outer then m.chunk else q.j0, m)] }).ringGo k id
    | none =>
      if !(x.mixed.contains id && x.ended.any fun e => e.id == id && endedWell e.code) then s
      else
        let n := tget 0 id x.relayed + (if m.kind = 0 then 0 else 1)
        let s := s.updRing k fun x => { x with relayed := tset 0 id n x.relayed }
        let s := if x.serves.contains id then s else s.sendStep k q.next id m
        if n = q.m ∧ m.kind ≠ 0 then s.sendNotice x p (s.note x 6 E.ok id 0) else s

/-- A data packet of kind 0, 1 or 2 (R460, R464). -/
def State.ringData (s : State) (p kind : Nat) (pk : Pkt) : State :=
  match s.ringFrom p (pk.spec' 20 2) with
  | none => s
  | some (k, x) =>
    let id := pk.spec' 22 2
    let attempt := bits (pk.spec' 25 1) 3 1
    let right := match x.bucket id with
      | some b => b.attempt == attempt
      | none => true
    if pk.spec' 24 1 ≠ x.rgen ∨ !right then s.strayed k
    else if (kind == 2) != (x.mode == 2) then s
    else match msgOf pk kind x.w with
      | none => s
      | some m =>
        let old := x.asm.find? fun a => a.1 == p && a.2.1 == id && a.2.2.sameStep m
        let have_ : List KBlock := match old with
          | some a => a.2.2.blocks
          | none => []
        if pk.spec' 28 4 ≠ have_.length then s
        else
          let whole : Msg := { m with blocks := have_ ++ m.blocks }
          let s := s.updRing k fun x => { x with asm := x.asm.filter fun a => !(a.1 == p && a.2.1 == id && a.2.2.sameStep m) }
          if bits (pk.spec' 25 1) 2 1 = 1 then s.stepIn k p id whole
          else s.updRing k fun x => { x with asm := x.asm ++ [(p, id, whole)] }

/-- An operand of the bucket reads as uncorrectable while its lanes are used (R252, R477). -/
def State.laneOperand (s : State) (p : Nat) (pk : Pkt) (ecc : Ecc) : State :=
  match s.ringFrom p (pk.spec' 20 2) with
  | none => s
  | some (k, x) => match x.bucket (pk.spec' 22 2) with
    | none => s
    | some b =>
      match s.spanOf b.desc.pos b.desc.rgIn 4 false with
      | .runs (r :: _) =>
        (match s.checkRead r.pa 4 ecc with
         | (true, s) => s
         | (false, s) => s.failLap k b.id E.uncorrectable)
      | _ => s

/-! ### Notices -/

def noticeOf (pk : Pkt) : Notice :=
  { bucket := pk.spec' 22 2, chunk := pk.spec' 26 2, rgen := pk.spec' 24 1, bytes := pk.payload }

/-- The context of a notice whose RGEN is current; an older or newer one is stray. -/
def State.noticeIn (s : State) (p : Nat) (pk : Pkt) (act : Nat → RingCtx → Notice → State → State) : State :=
  match s.ringFrom p (pk.spec' 20 2) with
  | none => s
  | some (k, x) => if pk.spec' 24 1 = x.rgen then act k x (noticeOf pk) s else s.strayed k

def State.isOrigin (s : State) (n : Notice) : Bool := some (fld n.bytes 2 2) == s.cfg.peerId

/-- FORM (R454): held until its RJOB is open; a newer RGEN waits for this member's own re-formation. -/
def State.noteForm (s : State) (p : Nat) (pk : Pkt) : State :=
  let rjob := pk.spec' 20 2
  match s.ringOf rjob with
  | none => { s with az := { s.az with forms := (s.az.forms.filter fun f => f.1 != rjob) ++ [(rjob, noticeOf pk)] } }
  | some (k, x) =>
    let ahead := (pk.spec' 24 1 + 256 - x.rgen) % 256
    if !x.table.contains p then s
    else if 128 ≤ ahead then s.strayed k
    else s.formNotice k (noticeOf pk)

/-- READY (R454). -/
def State.noteReady (s : State) (p : Nat) (pk : Pkt) : State :=
  s.noticeIn p pk fun k x n s =>
    if s.isOrigin n || x.st == .ready || !x.opened then s
    else (s.lapOn k n).ringReady k (fld n.bytes 22 2) (fld n.bytes 24 32) (fld n.bytes 56 32)

/-- ACCEPT (R456): data of the bucket that waited for this peer leaves. -/
def State.noteAccept (s : State) (p : Nat) (pk : Pkt) : State :=
  s.noticeIn p pk fun k x n s =>
    let rank := x.ranked.idxOf p
    let go := x.outbox.filter fun o => o.1 == rank && o.2.1 == n.bucket
    let s := s.updRing k fun x =>
      { x with accepts := if x.accepts.contains (n.bucket, p) then x.accepts else x.accepts ++ [(n.bucket, p)]
               outbox := x.outbox.filter fun o => !(o.1 == rank && o.2.1 == n.bucket) }
    (go.foldl (fun s o => s.sendStep k o.1 o.2.1 o.2.2) s).ringGo k n.bucket

/-- RETRY (R464). -/
def State.noteRetry (s : State) (p : Nat) (pk : Pkt) : State :=
  s.noticeIn p pk fun k x n s =>
    if s.isOrigin n then s
    else
      let s := s.lapOn k n
      match x.bucket n.bucket with
      | some b => if b.attempt = 0 && b.started then (s.retryBucket k n.bucket).ringGo k n.bucket
          else s.updBucket k n.bucket fun b => { b with attempt := 1 }
      | none => s

/-- RESEND (R465): the chunk leaves again from WORK, an outer sub-chunk from what this member holds of it. -/
def State.noteResend (s : State) (p : Nat) (pk : Pkt) : State :=
  s.noticeIn p pk fun k x n s =>
    let q := s.geo x
    let rank := x.ranked.idxOf p
    let c := n.chunk % 4096
    let sub := bits n.chunk 12 3
    let d? : Option Desc := match x.bucket n.bucket with
      | some b => some b.desc
      | none => (x.ended.find? fun e => e.id == n.bucket).map fun e => e.desc
    match d? with
    | none => s
    | some d =>
      let r := chunkOf d.rgCount q.m c
      let inner := q.g == 1 || rank == q.nextInner q.j1
      if inner then
        let bs := s.readWork x d r.1 r.2
        s.sendStep k rank n.bucket { kind := 1, ag := true, outer := false, chunk := c, sub := 0, blocks := bs, sum := sumOf x.w bs }
      else
        let rs := chunkOf r.2 q.g sub
        let held := (x.bucket n.bucket).bind fun b => (b.subs.find? fun e => e.1 == 8 * (4 * c + 1) + sub).map Prod.snd
        let bs := held.getD (s.readWork x d (r.1 + rs.1) rs.2)
        s.sendStep k rank n.bucket { kind := 1, ag := true, outer := true, chunk := c, sub := sub, blocks := bs, sum := sumOf x.w bs }

/-- VERIFIED (R465). -/
def State.noteVerified (s : State) (p : Nat) (pk : Pkt) : State :=
  s.noticeIn p pk fun k _ n s =>
    (s.updBucket k n.bucket fun b => { b with verified := if b.verified.contains p then b.verified else b.verified ++ [p] }).tryEnd k n.bucket

/-- FAIL (R454, R466). -/
def State.noteFail (s : State) (p : Nat) (pk : Pkt) : State :=
  s.noticeIn p pk fun k x n s =>
    let code : Code := BitVec.ofNat 16 (fld n.bytes 4 2)
    if s.isOrigin n then s
    else
      let s := s.lapOn k n
      if x.st != .ready && x.openDesc.isSome then s.openFails k code
      else s.endBucket k n.bucket { err := code }

/-- SETTLE (R471): rank 0 has it back, a member that has ended the bucket passes it on, another holds it. -/
def State.noteSettle (s : State) (p : Nat) (pk : Pkt) : State :=
  s.noticeIn p pk fun k x n s =>
    if s.isOrigin n then ((s.settle k n.bucket).lapOn k (s.note x 9 E.ok n.bucket 0)).closeTry k
    else if x.ended.any fun e => e.id == n.bucket && endedWell e.code then s.lapOn k n
    else s.updRing k fun x => { x with held := x.held ++ [n] }

/-- SETTLED (R471). -/
def State.noteSettled (s : State) (p : Nat) (pk : Pkt) : State :=
  s.noticeIn p pk fun k _ n s => if s.isOrigin n then s else ((s.settle k n.bucket).lapOn k n).closeTry k

/-- LEAVE (R472, R475). -/
def State.noteLeave (s : State) (p : Nat) (pk : Pkt) : State :=
  s.noticeIn p pk fun k _ n s => if s.isOrigin n then s else (s.lapOn k n).breakRing k [fld n.bytes 2 2]

/-- A notice by its KIND (R453). -/
def State.ringNotice (s : State) (p : Nat) (pk : Pkt) : State :=
  match fld pk.payload 0 1 with
  | 1 => s.noteForm p pk
  | 2 => s.noteReady p pk
  | 3 => s.noteAccept p pk
  | 4 => s.noteRetry p pk
  | 5 => s.noteResend p pk
  | 6 => s.noteVerified p pk
  | 7 => s.noteFail p pk
  | 8 => s.noteSettle p pk
  | 9 => s.noteSettled p pk
  | 10 => s.noteLeave p pk
  | _ => s

end Sys2Proof.Machine
end

