-- ==== Sys2Proof/Machine/AzRecv.lean ====
section
/-! DEFINITION. Arriving Azlink frames (R414 to R417, R423, R424, R435, R439 to R443), membership (R430 to R434), peers that
are gone (R425) and the adoption of a view (R432). -/

namespace Sys2Proof.Machine

/-! ### Frames that are discarded (R417) -/

/-- The VC of a type (R416); none where the header's own VC stands. -/
def typeVc (p : Pkt) : Option Nat :=
  match p.type.toNat with
  | 1 => some 3 | 2 => some 1 | 3 => some 2 | 4 => some 4 | 5 => some 5 | 6 => some 6 | 7 => some 7
  | 8 => if p.spec' 20 1 = 1 then none else some 0
  | _ => none

/-- A reserved field or code is set, or the length or VC of the type does not hold (R416, R453, R460). -/
def reservedSet (p : Pkt) : Bool :=
  p.flags.toNat % 4 != 0 || bits p.flags.toNat 4 2 != 0 || (match typeVc p with
    | some v => p.vc != v
    | none => false) ||
  match p.type.toNat with
  | 1 => p.spec' 30 2 != 0
  | 2 => p.spec' 30 2 != 0 || p.payload.length != 8
  | 3 => p.spec' 22 2 != 0 || p.spec' 28 4 != 0
  | 4 | 5 | 6 =>
    decide (31 < p.spec' 25 1) || bits (p.spec' 26 2) 15 1 == 1 || (bits (p.spec' 25 1) 4 1 == 1 &&
      (p.type != Wire.keelExp || p.payload.length != 96 || fld p.payload 0 1 == 0 || decide (10 < fld p.payload 0 1) ||
       fld p.payload 1 1 != 0 || fld p.payload 6 2 != 0 || fld p.payload 21 1 != 0 || fld p.payload 88 8 != 0))
  | 7 => p.spec' 20 1 == 0 || decide (5 < p.spec' 20 1) || p.spec' 21 1 != 0 || p.spec' 28 4 != 0
  | 8 => p.spec' 20 1 == 0 || decide (4 < p.spec' 20 1) || p.spec' 21 1 != 0 || p.spec' 24 8 != 0
  | 9 => p.spec' 22 2 != 0
  | _ => true

/-- The receiver discards the frame (R417). -/
def State.discards (s : State) (f : Sys2Proof.Frame) : Bool :=
  !f.fcsOk || f.check != f.pkt.check || bits f.pkt.flags.toNat 6 2 != 1 || reservedSet f.pkt ||
  f.pkt.len != f.pkt.payload.length || decide (4096 < f.pkt.payload.length) ||
  (f.pkt.dst.toNat != 0xFFFF && some f.pkt.dst.toNat != s.cfg.peerId)

/-! ### Windows at the receiver (R439 to R443) -/

/-- The failing check of R439 as an outcome of R424; 0 when every check holds. -/
def State.winCheck (s : State) (p : Nat) (winref off n : Nat) (write : Bool) : Nat :=
  let w := s.win (winref / 2 ^ 20)
  if !s.isMember p then 2
  else if !w.isOpen || s.winGen (winref / 2 ^ 20) != winref % 2 ^ 20 then 1
  else if w.length < off + n || !(if write then w.write else w.read) then 3
  else 0

def outcomeCode (o : Nat) : Code :=
  if o = 1 then E.windowClosed else if o = 2 then E.epochStale else if o = 3 then E.argRange else E.ok

/-- A WIN_WRITE is applied whole or dropped whole (R439); none while it must wait for a fault-in, a first-write copy or an
exclusive crossing (R443, R442, R440). -/
def State.actWrite (s : State) (p : Nat) (k : Pkt) : Option (Nat × State) :=
  let ref := k.spec' 20 4
  let off := k.spec' 24 6
  let n := k.payload.length
  let o := s.winCheck p ref off n true
  let drop (o : Nat) (s : State) : Option (Nat × State) :=
    let s := if o = 1 then
        s.setWin (ref / 2 ^ 20) { s.win (ref / 2 ^ 20) with stale := Nat.min (2 ^ 32 - 1) ((s.win (ref / 2 ^ 20)).stale + 1) }
      else s
    some (o, s.sendNack p 3 (outcomeCode o) k.psn ref)
  if o ≠ 0 then drop o s
  else
    let w := s.win (ref / 2 ^ 20)
    match s.spanOf w.job (w.base + off) n true with
    | .bad => drop 3 s
    | .absent _ => none
    | .runs _ =>
      if s.mustHold w.job (w.base + off) n || s.heldByXing [.window (ref / 2 ^ 20)] then none
      else some (0, s.writeJob w.job (w.base + off) k.payload)

/-- Fault-ins that a waiting WIN_WRITE starts (R443). -/
def State.writeFaults (s : State) (k : Pkt) : State :=
  let w := s.win (k.spec' 20 4 / 2 ^ 20)
  match s.spanOf w.job (w.base + k.spec' 24 6) k.payload.length true with
  | .absent ps => ps.foldl (fun s g => s.faultIn w.job g ((s.job w.job).man.stackOfPage g) 512) s
  | _ => s

/-- A WIN_READ: data where they stand, or the failing code (R443). -/
def State.actRead (s : State) (p : Nat) (k : Pkt) : Nat × State :=
  let ref := k.spec' 20 4
  let off := k.spec' 24 6
  let tag := fld k.payload 0 4
  let n := fld k.payload 4 4
  let o := if n = 0 ∨ 4096 < n then 3 else s.winCheck p ref off n false
  let resp (c : Code) (data : List Byte) (s : State) : State :=
    s.azSend p (s.mkPkt Wire.winReadResp 2 p (specOf [(20, 2, c.toNat), (24, 4, tag)]) data) .none
  if o ≠ 0 then (o, resp (outcomeCode o) [] (s.sendNack p 1 (outcomeCode o) k.psn ref))
  else
    let w := s.win (ref / 2 ^ 20)
    match s.readThrough w.job (w.base + off) n with
    | none => (3, resp E.argRange [] s)
    | some bs =>
      let s := (s.flashUnits w.job (w.base + off) n).foldl (fun s u => (s.flashRead u { retries := 0, ok := true }).2) s
      if (s.placesOf w.job (w.base + off) n).any fun x => s.ms.poisoned x.1 x.2 then (0, resp E.uncorrectable [] s)
      else (0, resp E.ok bs s)

/-- A WIN_READ_RESP reaches the read its TAG names (R443). -/
def State.actResp (s : State) (p : Nat) (k : Pkt) : Option (Nat × State) :=
  match s.az.reads.find? fun r => r.tag == k.spec' 24 4 && r.peer == p with
  | none => some (0, s)
  | some r =>
    ((s.endReads fun x => x == r).fate r.owner (BitVec.ofNat 16 (k.spec' 20 2)) k.payload).map
      fun s => (0, s)

/-! ### Adopting a view (R432) -/

/-- The bitmap of a view (R431). -/
def viewBytes (ids : List Nat) : List Byte :=
  (List.range 4096).map fun i => (List.range 8).foldl (fun (b : Byte) j => if ids.contains (8 * i + j) then b ||| (1#8 <<< j) else b) 0

def viewIds (bs : List Byte) : List Nat := (List.range (8 * bs.length)).filter fun i => (bs.getD (i / 8) 0).getLsbD (i % 8)

/-- A peer leaves: its operations end, its entry is cleared and its credits return to the reserve (R427, R432). -/
def State.peerLeft (s : State) (p : Nat) : State :=
  let s := s.peerGone p
  let a := (s.peer p).allot
  let s := s.updPeer p fun x => { x with st := .left, tx := 0, allot := 0, vcs := [], lossOpen := false }
  { s with az := { s.az with reserve := s.az.reserve + a } }

/-- A peer joins (R426, R432). -/
def State.peerJoined (s : State) (p : Nat) : State :=
  let s := s.updPeer p fun x => { x with st := .member, tx := 17, allot := 17, vcs := [], lossOpen := false }
  { s with az := { s.az with reserve := s.az.reserve - 17 } }

/-- A view is adopted in one step (R432): entries, reduction contexts (R472), EV_MEMBERSHIP. -/
def State.adopt (s : State) (epoch : W32) (ids : List Nat) : State :=
  let own := s.cfg.peerId.getD 0xFFFF
  let old := s.az.view
  let gone := old.filter fun p => !ids.contains p
  let came := ids.filter fun p => !old.contains p
  let s := (gone.filter (· != own)).foldl State.peerLeft s
  let s := (came.filter (· != own)).foldl State.peerJoined s
  let s := (ids.filter (· != own)).foldl (fun s p => s.updPeer p fun x => { x with lastEpoch := epoch }) s
  let s := { s with az := { s.az with epoch := epoch, view := ids, coord := ids.head?
                                      joins := s.az.joins.filter (fun p => !ids.contains p)
                                      losses := s.az.losses.filter (ids.contains ·) } }
  let s := (s.az.rings.map Prod.fst).foldl (fun s k => match s.ring k with
    | none => s
    | some x =>
      let lost := x.ranked.filter fun p => gone.contains p && p != own
      if lost.isEmpty then s.formAgain k else s.breakRing k lost) s
  (s.postBoth (s.mkEvent 6 0 E.ok (evBody [(24, 4, epoch.toNat), (28, 2, ids.length), (30, 2, came.length), (32, 2, gone.length),
    (34, 2, own), (36, 2, ids.head?.getD 0xFFFF)]))).bootDone

/-- The sender is the lowest member set in the view, ids that the receiver does not yet know as members aside: a lower id
that joins in this view becomes coordinator from it on (R431 to R433; log 46, DEDUCED, unsafe). -/
def State.viewFrom (s : State) (p : Nat) (ids : List Nat) : Bool :=
  ids.contains p && (ids.filter fun i => decide (i < p)).all fun i => !s.az.view.contains i

/-- A VIEW arrives in sequence (R431, R432): its epoch is MEPOCH. -/
def State.actView (s : State) (p : Nat) (k : Pkt) : State :=
  let ids := viewIds k.payload
  if follows k.mepoch s.az.epoch && s.viewFrom p ids && k.payload.length == 4096 then
    let v := (s.peer p).vc 7
    (s.adopt k.mepoch ids).updVc p 7 fun c => { c with rxExpected := v.rxExpected, due := v.due }
  else s

/-! ### The sequenced receiver (R423, R424, R426) -/

/-- What a packet accepted in sequence does: its outcome, or none while its action must wait. -/
def State.rxAct (s : State) (p : Nat) (k : Pkt) : Option (Nat × State) :=
  if k.type = Wire.member then some (0, s.actView p k)
  else if k.type = Wire.winWrite then s.actWrite p k
  else if k.type = Wire.winRead then some (s.actRead p k)
  else if !s.isMember p then some (2, s)
  else if k.type = Wire.winReadResp then s.actResp p k
  else if k.type = Wire.keelExp then
    some (0, if bits (k.spec' 25 1) 4 1 = 1 then s.ringNotice p k else s.ringData p 0 k)
  else if k.type = Wire.keelLanes then some (0, s.ringData p 1 k)
  else some (0, s.ringData p 2 k)

/-- Acts on accepted packets in order while none must wait; their credits are then owed (R426), and 16 packets not yet
acknowledged draw an ACK (R424). -/
def State.rxGo (s : State) (p v : Nat) : Nat → State
  | 0 => s
  | n + 1 =>
    match (s.vc p v).held with
    | [] => s
    | k :: r =>
      -- the packet leaves the queue before its action, which may send acknowledgements of its own
      match (s.updVc p v fun c => { c with held := r }).rxAct p k with
      | none => if k.type = Wire.winWrite then s.writeFaults k else s
      | some (o, s) =>
        let s := s.updVc p v fun c =>
          { c with due := c.due + 1, owed := c.owed + (if k.charged then k.cost else 0), outcomes := (o :: c.outcomes).take 64 }
        let s := if 16 ≤ (s.vc p v).due then s.sendAck p v else s
        State.rxGo s p v n

/-- Packets that waited are tried again. -/
def State.rxRetry (s : State) : State :=
  s.az.peers.foldl (fun s e => e.2.vcs.foldl (fun s v => if v.2.held.isEmpty then s else s.rxGo e.1 v.1 v.2.held.length) s) s

/-- A sequenced packet arrives (R423, R435). -/
def State.seqIn (s : State) (k : Pkt) : State :=
  let p := k.src.toNat
  let v := k.vc
  let c := s.vc p v
  if k.type ≠ Wire.member ∧ !s.isMember p ∧ follows k.mepoch s.az.epoch then s
  else if k.psn = c.rxExpected then
    (s.updVc p v fun c => { c with rxExpected := c.rxExpected + 1, nacked := false, held := c.held ++ [k] }).rxGo p v (c.held.length + 1)
  else if follows c.rxExpected k.psn then s.sendAck p v
  else if c.nacked then s
  else (s.updVc p v fun c => { c with nacked := true }).sendNack p v E.ok c.rxExpected 0

/-! ### Acknowledgements (R424, R425) -/

/-- Packets up to ACK_PSN are acknowledged; on VC 3 with OUTCOME each has its fate, elsewhere it has arrived. -/
def State.ackIn (s : State) (p v : Nat) (ack : W32) (outcome : Option (List Byte)) : State :=
  let c := s.vc p v
  let hit (t : TxPkt) : Bool := t.pkt.psn == ack || follows ack t.pkt.psn
  let acked := c.unacked.filter hit
  if acked.isEmpty then s
  else
    let s := s.updVc p v fun c => { c with unacked := c.unacked.filter (fun t => !hit t), txAcked := ack + 1, rto := 0 }
    let s := acked.foldl (fun s t =>
      if v ≠ 3 then s
      else
        let back := (ack - t.pkt.psn).toNat
        let o := match outcome with
          | some bs => bits (leNat bs) (2 * back) 2
          | none => 0
        s.fail t.owner (outcomeCode o)) s
    s.azPumpAll p v

/-- GRANT returns credits (R424, R426). -/
def State.grantIn (s : State) (p g : Nat) : State :=
  let s := s.updPeer p fun x => { x with tx := x.tx + g }
  (List.range 8).foldl (fun s v => s.azPumpAll p v) s

/-- A NACK (R423, R439, R593): resend, or the early report of a fate; a refused CREDIT_REQ changes nothing. -/
def State.nackIn (s : State) (k : Pkt) : State :=
  let p := k.src.toNat
  let v := k.vc
  let code : Code := BitVec.ofNat 16 (k.spec' 20 2)
  let psn : W32 := BitVec.ofNat 32 (k.spec' 24 4)
  if code = E.ok then s.resendFrom p v psn
  else if code = E.credit then s
  else match (s.vc p v).unacked.find? fun t => t.pkt.psn == psn with
    | none => s
    | some t =>
      let s := s.updVc p v fun c => { c with unacked := updWhere (fun t => t.pkt.psn == psn) (fun t => { t with owner := .none }) c.unacked }
      let s := { s with az := { s.az with reads := s.az.reads.map fun (r : ReadReq) => if r.owner == t.owner then { r with owner := Owner.none } else r } }
      s.fail t.owner code

/-! ### Peers and membership -/

/-- The sender of a HELLO, JOIN or VIEW answers on this link, from this address (R412, R428). -/
def State.heardOn (s : State) (p l : Nat) (sa : BitVec 48) : State :=
  let base := if s.switched l then sa - BitVec.ofNat 48 l else sa - BitVec.ofNat 48 (sa.toNat % 64)
  let s := if s.switched l then s else s.updLink l fun k => { k with partner := some sa }
  s.updPeer p fun x => { x with mac := base, links := x.links ||| (1#64 <<< l) }

/-- This module is the coordinator (R431). -/
def State.isCoord (s : State) : Bool := s.az.coord.isSome && s.az.coord == s.cfg.peerId

/-- A non-sequenced membership or control packet on a link. -/
def State.sendPlain (s : State) (l : Nat) (da : BitVec 48) (type : Byte) (vc dst : Nat) (spec : List Byte) : State :=
  s.linkTx l da (s.mkPkt type vc dst spec [])

/-- A membership packet to a peer. -/
def State.sendMember (s : State) (p sub field : Nat) : State :=
  s.transmit p (s.mkPkt Wire.member 7 p (specOf [(20, 1, sub), (22, 2, s.az.coord.getD 0xFFFF), (24, 4, field)]) [])

/-- The address of DISCOVERY_MAC or of a DIRECT partner (R433). -/
def State.discovery (s : State) (l : Nat) : BitVec 48 :=
  if s.switched l then s.cfg.discoveryMac else (s.link l).partner.getD s.cfg.discoveryMac

/-- JOIN at the coordinator (R430, R433). -/
def State.joinIn (s : State) (l : Nat) (f : Sys2Proof.Frame) : State :=
  let p := f.pkt.src.toNat
  let base := if s.switched l then f.sa - BitVec.ofNat 48 l else f.sa - BitVec.ofNat 48 (f.sa.toNat % 64)
  if !s.isCoord || some p == s.cfg.peerId then
    (if some p == s.cfg.peerId && s.isCoord then
      s.sendPlain l f.sa Wire.member 7 p (specOf [(20, 1, 5), (22, 2, p)]) else s)
  else if s.isMember p && (s.peer p).mac != base then
    s.sendPlain l f.sa Wire.member 7 p (specOf [(20, 1, 5), (22, 2, s.az.coord.getD 0xFFFF)])
  else
    let s := s.heardOn p l f.sa
    let s := s.updPeer p fun x => { x with st := if x.st == .member then .member else .joining }
    { s with az := { s.az with joins := if s.az.joins.contains p then s.az.joins else s.az.joins ++ [p] } }

/-- The coordinator publishes the next view and adopts it (R431). -/
def State.publishView (s : State) (ids : List Nat) : State :=
  let e := s.az.epoch + 1
  let own := s.cfg.peerId.getD 0xFFFF
  let s := s.adopt e ids
  let s := { s with az := { s.az with lastView := some s.aoc } }
  (ids.filter (· != own)).foldl (fun s p =>
    s.azSend p { s.mkPkt Wire.member 7 p (specOf [(20, 1, 2), (22, 2, ids.head?.getD 0xFFFF), (24, 4, ids.length)]) (viewBytes ids) with flags := 0x44 } .none) s

/-- Buckets that exchange data with a peer end with E_PEER_GONE (R425). -/
def State.ringPeerGone (s : State) (p : Nat) : State :=
  (s.az.rings.map Prod.fst).foldl (fun s k => match s.ring k with
    | none => s
    | some x =>
      let q := s.geo x
      let near := (q.to ++ q.from_).any fun r => x.ranked.getD r 0xFFFF == p
      if near then x.buckets.foldl (fun s b => s.endBucket k b.id { err := E.peerGone }) s else s) s

/-- MEMBER, CTRL and notices are for firmware (R550). -/
def Pkt.forFirmware (p : Pkt) : Bool := p.type == Wire.member || p.type == Wire.ctrl || (p.type == Wire.keelExp && bits (p.spec' 25 1) 4 1 == 1)

/-- A frame on a link that is up: discarded and counted (R417), or handed on; a DIRECT link's buffer returns its credits
(R419; no buffer holds it between two commands: log 123, DESIGN CHOICE, safe). -/
def State.frameIn (s : State) (l : Nat) (f : Sys2Proof.Frame) (want : Pkt → Bool) (act : State → State) : State :=
  if !s.live || s.ownId.isNone || !(s.link l).up then s
  else if s.discards f then s.count (0x1800 + 8 * l)
  else if !want f.pkt then s
  else
    let s := if s.switched l || !f.pkt.linkCharged then s
      else s.sendPlain l ((s.link l).partner.getD f.sa) Wire.ctrl 0 f.pkt.src.toNat (specOf [(20, 1, 2), (22, 2, f.pkt.cost)])
    let s := if f.pkt.ackValid && f.pkt.type != Wire.ctrl && f.pkt.vc != 3 then s.ackIn f.pkt.src.toNat f.pkt.vc f.pkt.ackPsn none else s
    act (if Pkt.forFirmware f.pkt then s.setInput (144 + l / 4) true else s)

def isType (t : Byte) (p : Pkt) : Bool := p.type == t
def isNotice (kind : Nat) (p : Pkt) : Bool := p.type == Wire.keelExp && bits (p.spec' 25 1) 4 1 == 1 && fld p.payload 0 1 == kind
def isSub (t : Byte) (sub : Nat) (p : Pkt) : Bool := p.type == t && p.spec' 20 1 == sub

end Sys2Proof.Machine
end

