-- ==== Sys2Proof/Machine/Azlink.lean ====
section
/-! DEFINITION. Azlink packets, timers and links (chapter 14), reduction operations and their timeouts (chapter 15). -/

namespace Sys2Proof.Machine

/-! ### Sequenced packets -/

/-- WIN_WRITE (R439); an uncorrectable window entry or outcome state loses law 10 (R585). -/
def execWinWrite (link : Nat) (f : Sys2Proof.Frame) (err : WinErr) (s : State) : Outc :=
  .next (s.frameIn link f (isType Wire.winWrite) fun s =>
    match err with
    | .clean => s.seqIn f.pkt
    | .window => s.lostLaw 10 (f.pkt.spec' 20 4 / 2 ^ 20) 0xFFFF
    | .outcome => s.lostLaw 10 (0x10000 + f.pkt.src.toNat) 0xFFFF)

/-- WIN_READ (R443). -/
def execWinRead (link : Nat) (f : Sys2Proof.Frame) (s : State) : Outc :=
  .next (s.frameIn link f (isType Wire.winRead) fun s => s.seqIn f.pkt)

/-- WIN_READ_RESP (R443). -/
def execWinReadResp (link : Nat) (f : Sys2Proof.Frame) (s : State) : Outc :=
  .next (s.frameIn link f (isType Wire.winReadResp) fun s => s.seqIn f.pkt)

/-- KEEL_EXP that carries headers (R459, R460). -/
def execKeelExpData (link : Nat) (f : Sys2Proof.Frame) (s : State) : Outc :=
  .next (s.frameIn link f (fun p => isType Wire.keelExp p && bits (p.spec' 25 1) 4 1 == 0) fun s => s.seqIn f.pkt)

/-- KEEL_LANES (R459 to R465); an operand found uncorrectable while its lanes are used ends the bucket, and the
context's own entry, queue or checksums found uncorrectable lose law 7 (R477, R585). -/
def execKeelLanes (link : Nat) (f : Sys2Proof.Frame) (ecc : Ecc) (bad : Bool) (s : State) : Outc :=
  .next (s.frameIn link f (isType Wire.keelLanes) fun s =>
    match if bad then s.ringFrom f.pkt.src.toNat (f.pkt.spec' 20 2) else none with
    | some (k, _) => s.lostLaw 7 k 0xFFFF
    | none =>
    if ecc != .clean && f.pkt.psn == (s.vc f.pkt.src.toNat f.pkt.vc).rxExpected then
      (s.laneOperand f.pkt.src.toNat f.pkt ecc).seqIn f.pkt
    else s.seqIn f.pkt)

/-- FP_RING (R462). -/
def execFpRing (link : Nat) (f : Sys2Proof.Frame) (s : State) : Outc :=
  .next (s.frameIn link f (isType Wire.fpRing) fun s => s.seqIn f.pkt)

/-- FORM (R454). -/
def execNoticeForm (link : Nat) (f : Sys2Proof.Frame) (s : State) : Outc :=
  .next (s.frameIn link f (isNotice 1) fun s => s.seqIn f.pkt)
/-- READY (R454, R471, R473). -/
def execNoticeReady (link : Nat) (f : Sys2Proof.Frame) (s : State) : Outc :=
  .next (s.frameIn link f (isNotice 2) fun s => s.seqIn f.pkt)
/-- ACCEPT (R456). -/
def execNoticeAccept (link : Nat) (f : Sys2Proof.Frame) (s : State) : Outc :=
  .next (s.frameIn link f (isNotice 3) fun s => s.seqIn f.pkt)
/-- RETRY (R464). -/
def execNoticeRetry (link : Nat) (f : Sys2Proof.Frame) (s : State) : Outc :=
  .next (s.frameIn link f (isNotice 4) fun s => s.seqIn f.pkt)
/-- RESEND (R465). -/
def execNoticeResend (link : Nat) (f : Sys2Proof.Frame) (s : State) : Outc :=
  .next (s.frameIn link f (isNotice 5) fun s => s.seqIn f.pkt)
/-- VERIFIED (R465). -/
def execNoticeVerified (link : Nat) (f : Sys2Proof.Frame) (s : State) : Outc :=
  .next (s.frameIn link f (isNotice 6) fun s => s.seqIn f.pkt)
/-- FAIL (R454, R466). -/
def execNoticeFail (link : Nat) (f : Sys2Proof.Frame) (s : State) : Outc :=
  .next (s.frameIn link f (isNotice 7) fun s => s.seqIn f.pkt)
/-- SETTLE (R471). -/
def execNoticeSettle (link : Nat) (f : Sys2Proof.Frame) (s : State) : Outc :=
  .next (s.frameIn link f (isNotice 8) fun s => s.seqIn f.pkt)
/-- SETTLED (R471). -/
def execNoticeSettled (link : Nat) (f : Sys2Proof.Frame) (s : State) : Outc :=
  .next (s.frameIn link f (isNotice 9) fun s => s.seqIn f.pkt)
/-- LEAVE (R472, R475). -/
def execNoticeLeave (link : Nat) (f : Sys2Proof.Frame) (s : State) : Outc :=
  .next (s.frameIn link f (isNotice 10) fun s => s.seqIn f.pkt)

/-! ### Membership -/

/-- JOIN (R430, R433). -/
def execJoin (link : Nat) (f : Sys2Proof.Frame) (s : State) : Outc :=
  .next (s.frameIn link f (isSub Wire.member 1) fun s => s.joinIn link f)

/-- VIEW (R431, R432). -/
def execView (link : Nat) (f : Sys2Proof.Frame) (s : State) : Outc :=
  .next (s.frameIn link f (isSub Wire.member 2) fun s => (s.heardOn f.pkt.src.toNat link f.sa).seqIn f.pkt)

/-- HEARTBEAT: the sender is reachable (R434). -/
def execHeartbeat (link : Nat) (f : Sys2Proof.Frame) (s : State) : Outc :=
  .next (s.frameIn link f (isSub Wire.member 3) fun s =>
    if s.isMember f.pkt.src.toNat then s.updPeer f.pkt.src.toNat fun x => { x with lossOpen := false } else s)

/-- LOSS: the coordinator tries to reach the member that its field MEMBERS names (R425, R434; log 45, DEDUCED, unsafe). -/
def execLoss (link : Nat) (f : Sys2Proof.Frame) (s : State) : Outc :=
  .next (s.frameIn link f (isSub Wire.member 4) fun s =>
    let p := f.pkt.spec' 24 4
    if s.isCoord && s.isMember f.pkt.src.toNat && s.isMember p then s.updPeer p fun x => { x with lossOpen := true } else s)

/-- REFUSE: another module holds this peer id (R430). A boot that waited for its first view then ends (R519; log 55, DEDUCED, unsafe). -/
def execRefuse (link : Nat) (f : Sys2Proof.Frame) (s : State) : Outc :=
  .next (s.frameIn link f (isSub Wire.member 5) fun s =>
    if s.az.refused then s
    else (({ s with az := { s.az with refused := true } } : State).evFault E.peerDuplicate { job := 0xFF }).bootDone)

/-! ### Control packets -/

/-- ACK (R424). -/
def execAck (link : Nat) (f : Sys2Proof.Frame) (s : State) : Outc :=
  .next (s.frameIn link f (isSub Wire.ctrl 1) fun s =>
    let p := f.pkt.src.toNat
    let s := if f.pkt.ackValid then
        s.ackIn p f.pkt.vc f.pkt.ackPsn (if f.pkt.vc = 3 then some f.pkt.payload else none)
      else s
    s.grantIn p (f.pkt.spec' 22 2))

/-- LINK_CREDIT (R419): GRANT credits of a VC that the manual does not say; it is a free value (log 40, DESIGN CHOICE, safe).
An uncorrectable credit counter loses law 0 (R585). -/
def execLinkCredit (link : Nat) (f : Sys2Proof.Frame) (bad : Bool) (s : State) : Outc :=
  .next (s.frameIn link f (isSub Wire.ctrl 2) fun s =>
    if bad then s.lostLaw 0 link 0xFFFF
    else if s.switched link then s
    else
      let (x, s) := s.takeFree
      let v := x.toNat % 8
      (s.updLink link fun k => { k with credits := lset k.credits v (Nat.min 128 (k.credits.getD v 0 + f.pkt.spec' 22 2)) }).drainLink link)

/-- HELLO (R412, R421, R429). -/
def execHello (link : Nat) (f : Sys2Proof.Frame) (s : State) : Outc :=
  .next (s.frameIn link f (isSub Wire.ctrl 3) fun s => s.heardOn f.pkt.src.toNat link f.sa)

/-- CREDIT_REQ (R426, R593): 64 more credits up to an allotment of 1,024, or a NACK with E_CREDIT. An
uncorrectable count of the entry, or the reserve, loses law 1 (R585); any other uncorrectable field clears LINKS, and the peer is learned
again (R429). -/
def execCreditReq (link : Nat) (f : Sys2Proof.Frame) (err : PeerErr) (s : State) : Outc :=
  .next (s.frameIn link f (isSub Wire.ctrl 4) fun s =>
    let p := f.pkt.src.toNat
    match err with
    | .entry => s.lostLaw 1 p 0xFFFF
    | .reserve => s.lostLaw 1 0xFFFF 0xFFFF
    | .other => s.updPeer p fun x => { x with links := 0 }
    | .clean =>
    if !s.isMember p then s
    else if s.az.reserve < 64 then s.sendNack p 0 E.credit 0 0
    else
      let g := Nat.min 64 (1024 - (s.peer p).allot)
      if g = 0 then s
      else
        let s := s.updPeer p fun x => { x with allot := x.allot + g }
        let s := { s with az := { s.az with reserve := s.az.reserve - g } }
        s.transmit p (s.mkPkt Wire.ctrl 0 p (specOf [(20, 1, 1), (22, 2, g)]) []))

/-- NACK (R423, R439, R593). -/
def execNack (link : Nat) (f : Sys2Proof.Frame) (s : State) : Outc :=
  .next (s.frameIn link f (isType Wire.nack) fun s => s.nackIn f.pkt)

/-- AOC counts of a PFC pause of `t` quanta of 512 bit times on a link (R420, IEEE 802.1Qbb). -/
def State.pauseCounts (s : State) (l t : Nat) : Nat :=
  let rate := match s.cfg.portMode.getD (l / 4) 0 with
    | 0 => 1 | 1 => 2 | _ => 4
  ceilDiv (t * 16 * rate) 1000

/-- A PFC frame on a SWITCHED link pauses or resumes the VCs it enables (R420). -/
def execPfcFrame (link : Nat) (enable : BitVec 8) (times : List W16) (s : State) : Outc :=
  .next (if !s.live || s.ownId.isNone || !(s.link link).up || !s.switched link then s
    else
      let s := (List.range 8).foldl (fun s v =>
        if !enable.getLsbD v then s
        else
          let t := (times.getD v 0).toNat
          s.updLink link fun k => { k with paused := lset k.paused v (if t = 0 then 0 else s.aoc + s.pauseCounts link t) }) s
      s.drainLink link)

/-! ### Timers -/

/-- The fabric is up and runs (R445). -/
def State.azLive (s : State) : Bool := s.live && s.ownId.isSome

/-- An end-to-end timeout is shown to firmware at the port of the channel's link (R550). -/
def State.timeoutShown (s : State) (peer vc : Nat) : State := match (s.peer peer).linkFor peer vc with
  | some l => s.setInput (144 + l / 4) true
  | none => s

/-- The resend timeout of a channel (R425): everything unacknowledged leaves again, and the timeout doubles to 6.4 ms. -/
def execResendTimeout (peer vc : Nat) (s : State) : Outc :=
  .next (if !s.azLive || (s.vc peer vc).unacked.isEmpty then s
    else
      let r := (s.vc peer vc).rto
      let r := if r = 0 then s.setting 0x1201 else r
      ((s.timeoutShown peer vc).updVc peer vc fun c => { c with rto := Nat.min 6400 (2 * r) }).resendFrom peer vc (s.vc peer vc).txAcked)

/-- PEER_TIMEOUT (R425): the sender gives up on the peer, reports the loss, and the tide counts it. -/
def execPeerTimeout (peer : Nat) (s : State) : Outc :=
  .next (if !s.azLive || !s.isMember peer || (s.peer peer).vcs.all (fun v => v.2.unacked.isEmpty && v.2.waiting.isEmpty) then s
    else
      let s := ((s.timeoutShown peer 0).peerGone peer).ringPeerGone peer
      let s := { s with tide := { s.tide with peerLoss := s.aoc :: s.tide.peerLoss } }
      if s.isCoord then s.updPeer peer fun x => { x with lossOpen := true }
      else match s.az.coord with
        | some c => s.sendMember c 4 peer
        | none => s)

/-- The ACK that is due within 2 µs (R424). -/
def execAckTimer (peer vc : Nat) (s : State) : Outc :=
  .next (if !s.azLive || (s.vc peer vc).due = 0 then s else s.sendAck peer vc)

/-- A packet has waited more than 2 µs for credits: CREDIT_REQ (R426, R593). -/
def execCreditWait (peer vc : Nat) (s : State) : Outc :=
  .next (match (s.vc peer vc).waiting with
    | t :: _ => if s.azLive && decide ((s.peer peer).tx < t.cost) then
        s.transmit peer (s.mkPkt Wire.ctrl 0 peer (specOf [(20, 1, 4)]) []) else s
    | [] => s)

/-- HELLO on a link, every 100 µs (R421). -/
def execHelloSend (link : Nat) (s : State) : Outc :=
  .next (if !s.azLive || !(s.link link).up then s
    else s.sendPlain link (s.discovery link) Wire.ctrl 0 0xFFFF (specOf [(20, 1, 3)]))

/-- Links that are up. -/
def State.upLinks (s : State) : List Nat := (List.range 64).filter fun l => (s.link l).up

/-- JOIN on every link that is up, every 10 ms until a view lists this module (R433). -/
def execJoinSend (s : State) : Outc :=
  .next (if !s.azLive || s.az.refused || s.upLinks.isEmpty || s.az.view.contains (s.cfg.peerId.getD 0xFFFF) then s
    else
      let s := { s with az := { s.az with firstJoin := some (s.az.firstJoin.getD s.aoc) } }
      s.upLinks.foldl (fun s l => s.sendPlain l (s.discovery l) Wire.member 7 0xFFFF (specOf [(20, 1, 1), (22, 2, 0xFFFF)])) s)

/-- HEARTBEAT every 10 ms: to the coordinator, and from it to every member (R434). -/
def execHeartbeatSend (s : State) : Outc :=
  .next (if !s.azLive then s
    else if s.isCoord then
      (s.az.view.filter fun p => some p != s.cfg.peerId).foldl (fun s p => s.sendMember p 3 s.az.view.length) s
    else match s.az.coord with
      | some c => s.sendMember c 3 s.az.view.length
      | none => s)

/-- HB_TIMEOUT without a HEARTBEAT (R434): the coordinator drops the member from its next view; when it is the coordinator
that was silent, the lowest other id of the last view publishes a view without it. -/
def execHbTimeout (peer : Nat) (s : State) : Outc :=
  .next (if !s.azLive || !s.isMember peer then s
    else if s.isCoord then
      { s with az := { s.az with losses := if s.az.losses.contains peer then s.az.losses else s.az.losses ++ [peer] } }
    else if s.az.coord = some peer then
      let left := s.az.view.filter fun p => p != peer
      if left.head? = s.cfg.peerId then s.publishView left else s
    else s)

/-- The coordinator's next view carries every join and loss of the interval, at most one view per 1 ms (R431). -/
def execViewPublish (s : State) : Outc :=
  .next (if !s.azLive || !s.isCoord || (s.az.joins.isEmpty && s.az.losses.isEmpty) || s.az.lastView.any (fun t => decide (s.aoc < t + 25000)) then s
    else
      let ids := (List.range 32768).filter fun p => (s.az.view.contains p || s.az.joins.contains p) && !s.az.losses.contains p
      s.publishView ids)

/-- No view within 200 ms of the first JOIN: a fleet of one at epoch 1 (R433). A booting module with no link up sends no JOIN and forms its
fleet too (log 122, DEDUCED, unsafe). -/
def execFleetOfOne (s : State) : Outc :=
  .next (match s.cfg.peerId with
    | some p =>
      if s.azLive && s.az.view.isEmpty && (s.az.firstJoin.any (fun t => decide (t + 5000000 ≤ s.aoc)) || (s.bootPending && s.upLinks.isEmpty)) && !s.az.refused then s.adopt 1 [p] else s
    | none => s)

/-- The coordinator could not reach a member within 10 ms of a LOSS report (R434). -/
def execLossReachTimeout (peer : Nat) (s : State) : Outc :=
  .next (if s.azLive && s.isCoord && s.isMember peer && (s.peer peer).lossOpen then
      { s with az := { s.az with losses := if s.az.losses.contains peer then s.az.losses else s.az.losses ++ [peer] } }
    else s)

/-! ### Links -/

/-- A link goes down, whatever the cause (R421): its bit leaves every LINKS, credits and frames not yet passed on are
discarded, it retrains, and the retrain counts. -/
def execLinkDown (link : Nat) (_cause : DownCause) (s : State) : Outc :=
  .next (if !s.live || !(s.link link).up then s
    else
      let s := s.updLink link fun _ => Link.down
      let s := { s with az := { s.az with peers := s.az.peers.map fun (e : Nat × Peer) => (e.1, { e.2 with links := e.2.links &&& ~~~ (1#64 <<< link) }) } }
      let s := (s.count (0x1A00 + 8 * link)).setInput (160 + link) true
      { s with tide := { s.tide with retrains := (s.aoc, link) :: s.tide.retrains } })

/-- A link that exists comes up with its counts at 128 (R410, R421). -/
def execLinkUp (link : Nat) (s : State) : Outc :=
  .next (if !s.azLive || !s.linkExists link || (s.link link).up then s
    else (s.updLink link fun _ => { Link.down with up := true }).setInput (160 + link) false)

/-! ### Reduction operations (R447) -/

/-- AZ_RING_OPEN begins: its context is open, and formation starts (R454). -/
def execAzRingOpen (r : EngRun) (s : State) : Outc :=
  .next (match s.runningOp 8 r.num 0x0810 with
    | none => s.azOvers r.num 0x0810
    | some d =>
      match s.ringOf d.rgJob with
      | none => s.azComplete d { err := E.peerGone }
      | some (k, _) =>
        if s.ownId.isNone then (s.freeRing k).azComplete d { err := E.peerGone }
        else ((s.azStart r.num d.serial).updRing k fun x => { x with opened := true }).formAgain k)

/-- AZ_RING_CLOSE begins: it ends with the context's last bucket (R447, R475). -/
def execAzRingClose (r : EngRun) (s : State) : Outc :=
  .next (match s.runningOp 8 r.num 0x0811 with
    | none => s.azOvers r.num 0x0811
    | some d =>
      match s.ringOf d.rgJob with
      | none => s.azComplete d { err := E.peerGone }
      | some (k, _) => (s.azStart r.num d.serial).closeTry k)

/-- AZ_REDUCE begins its bucket's exchange (R455 to R462); taken again, it goes on with buckets that waited for a page or
a home. -/
def execAzReduce (r : EngRun) (s : State) : Outc :=
  .next (match s.runningOp 8 r.num 0x0812 with
    | some d =>
      (match s.ringOf d.rgJob with
       | none => s.azComplete d { err := E.peerGone }
       | some (k, _) => (s.azStart r.num d.serial).startBucket k d.rgBucket)
    | none =>
      ((s.engine 8 r.num).queue.filter fun d => d.started && !d.part.ended && d.opcode == 0x0812).foldl (fun s d => match s.ringOf d.rgJob with
        | none => s
        | some (k, _) => (s.startBucket k d.rgBucket).ringGo k d.rgBucket) (s.azOvers r.num 0x0812))

/-- A ring that is not READY 1 s after its open's acceptance ends with E_PEER_GONE (R454). -/
def execRingFormTimeout (ctx : Nat) (s : State) : Outc :=
  .next (match s.ring ctx with
    | some x => if s.live && x.st != .ready && x.openDesc.isSome then s.openFails ctx E.peerGone else s
    | none => s)

/-- EV_FAULT that names a context (R474). -/
def State.ringFault (s : State) (k : Nat) (x : RingCtx) : State := s.evFault E.peerGone { job := x.job, obj := k }

/-- A BROKEN context that is not READY 1 s after it broke: its queued buckets end with E_PEER_GONE, EV_FAULT names it, and it
starts its laps again (R474). -/
def execRingReformTimeout (ctx : Nat) (s : State) : Outc :=
  .next (match s.ring ctx with
    | some x =>
      if !s.live || x.st != .broken || x.openDesc.isSome then s
      else
        let s := x.buckets.foldl (fun s b => s.endBucket ctx b.id { err := E.peerGone }) s
        (s.ringFault ctx x).formAgain ctx
    | none => s)

/-- A bucket accepted while its context stays BROKEN ends 1 s after its acceptance (R474). -/
def execBucketBrokenTimeout (ctx bucket : Nat) (s : State) : Outc :=
  .next (match s.ring ctx with
    | some x =>
      if !s.live || x.st != .broken || (x.bucket bucket).isNone then s
      else (s.endBucket ctx bucket { err := E.peerGone }).ringFault ctx x
    | none => s)

end Sys2Proof.Machine
end

