-- ==== Sys2Proof/Machine/Layout.lean ====
section
/-! DEFINITION. The layout engine and FP4 conversion (R44 to R46, R267 to R270, R343, R631). -/

namespace Sys2Proof.Machine

/-! ### FP4 (R44 to R46) -/

/-- The value of an FP4 element under its block scale (R45). -/
def fp4Value (nib scale : Nat) : Val :=
  if scale = 0xFF then .nan
  else match fp4.decode nib with
    | .fin neg m e => .fin neg m (e + (scale : Int) - 127)
    | v => v

/-- A block of 32 values in FP4: its scale, its nibbles, and flags; `r j` are the random bits of element j (R46). -/
def fp4Block (mode : Rnd) (r : Nat → Nat) (vs : List Val) : Nat × List Nat × Bool × Bool :=
  if vs.any fun v => match v with
    | .fin _ _ _ => false
    | _ => true
  then (0xFF, vs.map fun _ => 0, false, true)
  else
    let exps : List Int := vs.filterMap fun v => match v with
      | .fin _ m e => if m = 0 then none else some ((m.log2 : Int) + e)
      | _ => none
    let s : Int := match exps with
      | [] => 127
      | e :: t => max 0 (t.foldl max e - 2 + 127)
    let rs := (List.range vs.length).map fun j => match vs.getD j .nan with
      | .fin neg m e => fp4.encode false mode (r j) (.fin neg m (e - (s - 127)))
      | v => fp4.encode false mode (r j) v
    (s.toNat, rs.map fun x => x.code, rs.any fun x => x.sat, false)

/-- Nibbles packed two to a byte, the even position low (R44). -/
def packNibbles : List Nat → List Byte
  | a :: b :: r => BitVec.ofNat 8 (a + 16 * b) :: packNibbles r
  | [a] => [BitVec.ofNat 8 a]
  | [] => []

/-! ### The descriptor (R267) -/

def Desc.lSrcCode (d : Desc) : Nat := fld d.raw 16 1 % 16
def Desc.lDstCode (d : Desc) : Nat := fld d.raw 16 1 / 16
def Desc.lTrans (d : Desc) : Bool := bits (fld d.raw 17 1) 2 1 == 1
def Desc.lStride (d : Desc) : Nat := if fld d.raw 52 4 = 0 then 1 else fld d.raw 52 4
def Desc.lSrcLd (d : Desc) : Nat := if fld d.raw 28 4 = 0 then d.vCols * d.lStride else fld d.raw 28 4
def Desc.lSrc (d : Desc) : Nat := fld d.raw 32 8
def Desc.lDst (d : Desc) : Nat := fld d.raw 40 8
/-- Destination rows and row length (R268). -/
def Desc.lDRows (d : Desc) : Nat := if d.lTrans then d.vCols else d.vRows
def Desc.lDCols (d : Desc) : Nat := if d.lTrans then d.vRows else d.vCols
def Desc.lDstLd (d : Desc) : Nat := if fld d.raw 48 4 = 0 then d.lDCols else fld d.raw 48 4
def Desc.lSrcScale (d : Desc) : Nat := fld d.aux 8 8
def Desc.lDstScale (d : Desc) : Nat := fld d.aux 16 8
def Desc.lFill (d : Desc) : Bool := d.opcode == 0x0302

/-- Bytes from position 0 to position `last` of an element array, and its alignment (R44). -/
def arrayExt (code a last : Nat) : Ext :=
  if code = 5 then { addr := a, n := last / 2 + 1, align := 16 }
  else let b := ((fmtOf code).getD fp32).bytes
       { addr := a, n := (last + 1) * b, align := b }

/-- Operand extents (R250, R268). -/
def Desc.layExts (d : Desc) : List Ext :=
  let sl := if d.lFill then 0 else (d.vRows - 1) * d.lSrcLd + (d.vCols - 1) * d.lStride
  let dl := (d.lDRows - 1) * d.lDstLd + d.lDCols - 1
  [{ arrayExt d.lSrcCode d.lSrc sl with rd := true }] ++
  (if d.lSrcCode = 5 then [{ addr := d.lSrcScale, n := sl / 32 + 1, align := 1, rd := true }] else []) ++
  [{ arrayExt d.lDstCode d.lDst dl with wr := true }] ++
  (if d.lDstCode = 5 then [{ addr := d.lDstScale, n := dl / 32 + 1, align := 1, wr := true }] else [])

/-- Format checks of R250 and R631. -/
def Desc.layFormatBad (d : Desc) : Bool :=
  decide (fld d.raw 17 1 / 8 ≠ 0) || (rndOf (fld d.raw 17 1 % 4)).isNone || decide (fld d.raw 18 2 ≠ 0) ||
  decide (5 < d.lSrcCode) || decide (5 < d.lDstCode) || decide (fld d.aux 24 40 ≠ 0) ||
  ((d.lSrcCode == 5) != (d.lSrcScale != 0)) || ((d.lDstCode == 5) != (d.lDstScale != 0)) ||
  (d.lFill && (d.lSrcCode != 0 || d.lTrans || fld d.raw 52 4 != 0 || fld d.raw 28 4 != 0))

/-- Range checks (R267), and the rows of an FP4 operand (R46, R268). -/
def Desc.layCountsBad (d : Desc) : Bool :=
  d.vecCountsBad || decide (2 ^ 20 - 1 < fld d.raw 52 4) || (d.lSrcCode == 5 && d.vCols % 32 != 0) ||
  (d.lDstCode == 5 && (d.lDCols % 32 != 0 || d.lDstLd % 32 != 0))

/-- Words of scratchpad that a transposed or strided read would take from more than one core, or a row stride that a transposed read
cannot name (R225, R226, R270; log 110, DEDUCED, unsafe): the 32 x 32 blocks of a transposed copy, the rows of a strided one. -/
def Desc.layReadBad (d : Desc) : Bool :=
  let b := ((fmtOf d.lSrcCode).getD fp32).bytes
  let byte (r c : Nat) : Nat := let p := r * d.lSrcLd + c * d.lStride
    if d.lSrcCode = 5 then d.lSrc + p / 2 else d.lSrc + p * b
  let cross (r0 c0 r1 c1 : Nat) : Bool := spCore (byte r0 c0) != spCore (byte r1 c1)
  if d.lFill || !isScratch d.lSrc then false
  else if d.lTrans then
    (d.lSrcCode == 0 && (decide (d.lSrcLd < 32) || decide (2 ^ 20 - 1 < d.lSrcLd))) ||
    (List.range (ceilDiv d.vRows 32)).any fun r => (List.range (ceilDiv d.vCols 32)).any fun c =>
      cross (32 * r) (32 * c) (Nat.min (32 * r + 31) (d.vRows - 1)) (Nat.min (32 * c + 31) (d.vCols - 1))
  else d.lStride != 1 && (List.range d.vRows).any fun r => cross r 0 r (d.vCols - 1)

/-- Acceptance checks of the layout engine (R225, R226, R250, R631). -/
def State.layCheck (s : State) (d : Desc) (auxOk : Bool) : Code :=
  firstBad ([(d.layFormatBad, E.argFormat), (d.layCountsBad || d.layReadBad, E.argRange)] ++
    s.commonChecks d auxOk (s.inSpace d.pos) d.layExts
      (if d.rnd = .sr then some (drawBlocks (d.lDRows * d.lDCols)) else none))

/-! ### Pieces -/

/-- Part of a destination row: the row, its first column and how many. -/
structure Seg where
  row : Nat
  col : Nat
  n : Nat
deriving DecidableEq, Repr

/-- The non-preemptible units: 32 x 32 tiles of a transposed copy, row by row of tiles, and rows of the others (R254). -/
def Desc.layPieces (d : Desc) : Nat := if d.lTrans then ceilDiv d.lDRows 32 * ceilDiv d.lDCols 32 else d.lDRows

/-- The parts of rows that piece k writes. -/
def Desc.laySegs (d : Desc) (k : Nat) : List Seg :=
  if d.lTrans then
    let w := ceilDiv d.lDCols 32
    let r := 32 * (k / w)
    let c := 32 * (k % w)
    (List.range (Nat.min 32 (d.lDRows - r))).map fun i => { row := r + i, col := c, n := Nat.min 32 (d.lDCols - c) }
  else [{ row := k, col := 0, n := d.lDCols }]

/-- Piece k starts a new band of rows. -/
def Desc.layBand (d : Desc) (k : Nat) : Bool := !d.lTrans || k % ceilDiv d.lDCols 32 == 0

/-- Source position of destination element (r, c) (R268). -/
def Desc.laySrcPos (d : Desc) (r c : Nat) : Nat :=
  if d.lFill then 0
  else if d.lTrans then c * d.lSrcLd + r * d.lStride else r * d.lSrcLd + c * d.lStride

/-- The bytes an element is read from, its scale byte included. -/
def Desc.laySrcBytes (d : Desc) (p : Nat) : List (Nat × Nat) :=
  if d.lSrcCode = 5 then [(d.lSrc + p / 2, 1), (d.lSrcScale + p / 32, 1)]
  else let b := ((fmtOf d.lSrcCode).getD fp32).bytes
       [(d.lSrc + p * b, b)]

/-- The bytes that part of a destination row occupies, its scale bytes included. -/
def Desc.layDstBytes (d : Desc) (x : Seg) : List (Nat × Nat) :=
  let p := x.row * d.lDstLd + x.col
  if d.lDstCode = 5 then [(d.lDst + p / 2, x.n / 2), (d.lDstScale + p / 32, x.n / 32)]
  else let b := ((fmtOf d.lDstCode).getD fp32).bytes
       [(d.lDst + p * b, x.n * b)]

/-- The bytes that a piece reads, and those that it writes. -/
def Desc.layReads (d : Desc) (k : Nat) : List (Nat × Nat) :=
  (d.laySegs k).flatMap fun x => (List.range x.n).flatMap fun i => d.laySrcBytes (d.laySrcPos x.row (x.col + i))
def Desc.layWrites (d : Desc) (k : Nat) : List (Nat × Nat) := (d.laySegs k).flatMap d.layDstBytes

/-- The value at source position p. -/
def State.laySrc (s : State) (d : Desc) (p : Nat) : Val :=
  if d.lSrcCode = 5 then
    let b := fld (s.readJob d.pos (d.lSrc + p / 2) 1) 0 1
    fp4Value (if p % 2 = 0 then b % 16 else b / 16) (fld (s.readJob d.pos (d.lSrcScale + p / 32) 1) 0 1)
  else (s.elems d.pos ((fmtOf d.lSrcCode).getD fp32) (d.lSrc + p * ((fmtOf d.lSrcCode).getD fp32).bytes) 1).getD 0 .nan

/-- Part of a destination row: its bytes and flags (R55, R268). -/
def layRow (d : Desc) (x : Seg) (s : State) : RowOut :=
  let vs := (List.range x.n).map fun i => s.laySrc d (d.laySrcPos x.row (x.col + i))
  let bitsOf (i : Nat) : Nat := s.rbits d (x.row * d.lDCols + x.col + i)
  if d.lDstCode = 5 then
    let bl := (List.range (x.n / 32)).map fun k =>
      fp4Block d.rnd (fun j => bitsOf (32 * k + j)) ((vs.drop (32 * k)).take 32)
    match d.layDstBytes x with
    | [(a, _), (b, _)] =>
      { writes := [(a, bl.flatMap fun x => packNibbles x.2.1), (b, bl.map fun x => BitVec.ofNat 8 x.1)]
        sat := bl.any fun x => x.2.2.1, special := bl.any fun x => x.2.2.2 }
    | _ => {}
  else
    let f := (fmtOf d.lDstCode).getD fp32
    let rs := (List.range x.n).map fun i => f.conv d.rnd (bitsOf i) (vs.getD i .nan)
    match d.layDstBytes x with
    | [(a, _)] => { writes := [(a, rs.flatMap fun x => leBytes f.bytes x.code)], sat := rs.any fun x => x.sat, special := rs.any fun x => x.special }
    | _ => {}

/-- A destination row counts once, in whichever of its tiles it is flagged first; DETAIL is the lowest (R268). -/
def Part.flagRow (p : Part) (row : Nat) (o : RowOut) : Part :=
  if (o.sat || o.special) && !p.band.contains row then
    { p with band := row :: p.band, count := p.count + 1, first := some (Nat.min row (p.first.getD row)) }
  else p

/-! ### Running with residency (R269, R343) -/

/-- What stands in the way of a piece. -/
inductive RowBar where
  | clear
  | bad
  | absent (pages : List Nat)
deriving DecidableEq, Repr

def RowBar.join : RowBar → RowBar → RowBar
  | .bad, _ => .bad
  | _, .bad => .bad
  | .absent a, .absent b => .absent (a ++ b.filter fun p => !a.contains p)
  | .absent a, .clear => .absent a
  | .clear, b => b

/-- Translation of a piece's source and destination bytes. -/
def State.layBar (s : State) (d : Desc) (k : Nat) : RowBar :=
  let one (w : Bool) (b : RowBar) (x : Nat × Nat) : RowBar := b.join (match s.spanOf d.pos x.1 x.2 w with
    | .runs _ => .clear
    | .absent ps => .absent ps
    | .bad => .bad)
  (d.layWrites k).foldl (one true) ((d.layReads k).foldl (one false) .clear)

/-- The state of a layout run: pieces done, and whether it stops before its end, with the pages it waits for. -/
structure LayRun where
  a : Acc
  piece : Nat
  halt : Bool
  bar : List Nat

/-- The run ends with an error (R252, R269). -/
def LayRun.fail (x : LayRun) (c : Code) : LayRun := { x with a := { x.a with part := { x.a.part with err := c } } }

/-- One piece, unless the run has stopped. -/
def LayRun.next (d : Desc) (x : LayRun) : LayRun :=
  if x.halt || x.a.part.err != E.ok then x
  else match x.a.s.layBar d x.piece with
    | .bad => x.fail E.argRange
    | .absent ps => { x with halt := true, bar := ps }
    | .clear =>
      if x.a.s.writesHeld d.pos (d.layWrites x.piece) then { x with halt := true }
      else
        let u := x.a.s.sees d.pos (d.layReads x.piece) x.a.finds
        let x : LayRun := { x with a := { x.a with s := u.2.1, finds := u.2.2 } }
        if !u.1 || (d.laySegs x.piece).any (fun g => x.a.s.rowBad d.pos (layRow d g x.a.s)) then x.fail E.uncorrectable
        else
          let part := if d.layBand x.piece then { x.a.part with band := [] } else x.a.part
          { x with
            piece := x.piece + 1
            a := (d.laySegs x.piece).foldl (fun a g =>
              let o := layRow d g x.a.s
              let a := a.take d.pos o
              { a with part := a.part.flagRow g.row o }) { x.a with part := part } }

/-- A layout operation runs its next pieces from where it stopped: to its end, to a piece whose pages are not resident (their
fault-ins start and the operation suspends), or to a write that must wait (R254, R343, R355). -/
def State.lay (s : State) (r : EngRun) (op : Nat) : State :=
  match s.runningOp 3 r.num op with
  | none => s
  | some d =>
    let x := (List.range (Nat.min r.units (d.layPieces - d.progress))).foldl (fun (x : LayRun) _ => x.next d)
      ({ a := { s := s, part := d.part, finds := r.finds }, piece := d.progress, halt := false, bar := [] } : LayRun)
    let done := x.a.part.err != E.ok || decide (d.layPieces ≤ x.piece)
    let s := if done then x.a.s.flush d.pos x.a.part.held else x.a.s
    let s := s.saveDesc 3 r.num d.serial fun d =>
      { d with progress := x.piece, part := if done then { x.a.part with held := [] } else x.a.part }
    if done then s.finish 3 r.num d (shoreOf r.num) x.a.part.ending
    else if x.bar.isEmpty then s else s.suspend 3 r.num d (shoreOf r.num) x.bar

/-- LAY_COPY (R268). -/
def execLayCopy (r : EngRun) (s : State) : Outc := .next (s.lay r 0x0301)

/-- LAY_FILL (R268). -/
def execLayFill (r : EngRun) (s : State) : Outc := .next (s.lay r 0x0302)

end Sys2Proof.Machine
end

