-- ==== Sys2Proof/Machine/Gather.lean ====
section
/-! DEFINITION. The gather engine (R271 to R277, R343). -/

namespace Sys2Proof.Machine

/-! ### Descriptor and table record (R271) -/

def Desc.gOutCode (d : Desc) : Nat := fld d.raw 16 1 % 16
def Desc.gDataCode (d : Desc) : Nat := fld d.raw 16 1 / 16
def Desc.gCtl (d : Desc) : Nat := fld d.raw 17 1
def Desc.gPool (d : Desc) : Nat := bits d.gCtl 2 2
def Desc.gWeighted (d : Desc) : Bool := bits d.gCtl 4 1 == 1
def Desc.gIdxBytes (d : Desc) : Nat := if bits d.gCtl 5 1 = 1 then 8 else 4
def Desc.gTol (d : Desc) : Bool := bits d.gCtl 6 1 == 1
def Desc.gCount (d : Desc) : Nat := fld d.raw 20 4
def Desc.gIdx (d : Desc) : Nat := fld d.raw 24 8
def Desc.gData (d : Desc) : Nat := fld d.raw 32 8
def Desc.gTable (d : Desc) : Nat := fld d.raw 40 8
def Desc.gOut (d : Desc) : Nat := fld d.raw 48 8
def Desc.gWeight (d : Desc) : Nat := fld d.aux 8 8
def Desc.gOutIdx (d : Desc) : Nat := fld d.aux 16 8
def Desc.gOutF (d : Desc) : Fmt := (fmtOf d.gOutCode).getD fp32
def Desc.gDataF (d : Desc) : Fmt := (fmtOf d.gDataCode).getD fp32

/-- A table record (R271). -/
structure GTab where
  base : Nat
  total : Nat
  elems : Nat
  code : Nat
  shards : Nat
  map : Nat
  stride : Nat
  bad : Bool
deriving DecidableEq, Repr

def State.gTab (s : State) (d : Desc) : GTab :=
  let b := s.readJob d.pos d.gTable 64
  { base := fld b 0 8, total := fld b 8 8, elems := fld b 16 4, code := fld b 20 1, shards := fld b 22 2, map := fld b 24 8
    stride := fld b 32 8, bad := fld b 21 1 != 0 || fld b 40 24 != 0 }

def GTab.fmt (t : GTab) : Fmt := (fmtOf t.code).getD fp32
def GTab.rowBytes (t : GTab) : Nat := t.elems * t.fmt.bytes
def Desc.gLd (d : Desc) (t : GTab) : Nat := if fld d.aux 24 4 = 0 then t.elems else fld d.aux 24 4

/-- Bytes of `n` elements of a format code: half a byte each in FP4 (R40, R44). -/
def codeBytes (code n : Nat) : Nat := if code = 5 then ceilDiv n 2 else n * ((fmtOf code).getD fp32).bytes
/-- Alignment of an operand: its element size, 16 bytes for FP4 (R44, R250). -/
def codeAlign (code : Nat) : Nat := if code = 5 then 16 else ((fmtOf code).getD fp32).bytes

/-- Operand extents; the table record is checked with the descriptor (log 43, DEDUCED, unsafe). -/
def Desc.gExts (d : Desc) (t : GTab) : List Ext :=
  let n := d.gCount
  let w := d.gIdxBytes
  let rd (a n al : Nat) : Ext := { addr := a, n := n, align := al, rd := true }
  let tab := rd d.gTable 64 64
  let map := if t.shards = 1 then [] else [rd t.map (8 * t.shards) 8]
  let out : Ext := { addr := d.gOut, n := codeBytes d.gOutCode ((n - 1) * d.gLd t + t.elems), align := codeAlign d.gOutCode, wr := true }
  let data := rd d.gData (codeBytes d.gDataCode (n * t.elems)) (codeAlign d.gDataCode)
  let weight (n : Nat) : List Ext := if d.gWeighted then [rd d.gWeight n 4] else []
  [tab] ++ map ++ match d.opcode with
    | 0x0401 => [rd d.gIdx w w, rd d.gData (4 * (n + 1)) 4, out] ++ weight 4
    | 0x0402 => [rd d.gIdx (n * w) w, out]
    | 0x0403 => [rd d.gIdx (n * w) w, data]
    | _ => [rd d.gIdx (n * w) w, data, out, { addr := d.gOutIdx, n := n * w, align := w, wr := true }] ++ weight (4 * n)

/-- Blocks that SR reserves: one element per output element, or per element written to the table; COUNT rows of COMBINE_DUP, whose
number of unique rows acceptance does not know (log 108, DESIGN CHOICE, unsafe). -/
def Desc.gDraw (d : Desc) (t : GTab) : Option Nat := if d.rnd = .sr then some (drawBlocks (d.gCount * t.elems)) else none

/-- A format of the gather engine's rows of data and results (R40). -/
def gatherFmt (c : Nat) : Bool := decide (c ≤ 5)

/-- The operation has an output, and data rows. -/
def Desc.gHasOut (d : Desc) : Bool := d.opcode != 0x0403
def Desc.gHasData (d : Desc) : Bool := d.opcode == 0x0403 || d.opcode == 0x0404

/-- Rows of an FP4 operand hold whole blocks (R46). -/
def Desc.gBlocksBad (d : Desc) (t : GTab) : Bool :=
  (d.gHasOut && d.gOutCode == 5 && (t.elems % 32 != 0 || d.gLd t % 32 != 0)) || (d.gHasData && d.gDataCode == 5 && t.elems % 32 != 0)

/-- Acceptance checks (R46, R250, R271, R272; log 43, DEDUCED, unsafe). -/
def State.gatherCheck (s : State) (d : Desc) (auxOk : Bool) : Code :=
  let t := s.gTab d
  let dmaZero := (d.opcode == 0x0402 && d.gData != 0) || (d.opcode == 0x0403 && d.gOut != 0)
  firstBad ([(decide (127 < d.gCtl) || (rndOf (d.gCtl % 4)).isNone || d.gPool == 3 || fld d.raw 18 2 != 0 ||
      !gatherFmt d.gOutCode || !gatherFmt d.gDataCode || fld d.aux 28 36 != 0 || dmaZero || t.bad || !vecFmt t.code, E.argFormat),
    (d.gCount == 0 || decide (2 ^ 24 < d.gCount) || (d.opcode == 0x0404 && decide (65536 < d.gCount)) || t.elems == 0 ||
      decide (16384 < t.elems) || t.shards == 0 || decide (32768 < t.shards) || (t.shards == 1 && t.map != 0) ||
      t.stride % t.fmt.bytes != 0 || d.gBlocksBad t, E.argRange)] ++
    (s.commonChecks d auxOk (s.inScratch d.pos) (d.gExts t) (d.gDraw t)) ++ [(t.base % t.fmt.bytes != 0, E.argAlign)])

/-! ### Index stream -/

def State.gIndex (s : State) (d : Desc) (i : Nat) : Nat := fld (s.readJob d.pos (d.gIdx + i * d.gIdxBytes) d.gIdxBytes) 0 d.gIdxBytes
def Desc.gIndexAt (d : Desc) (i : Nat) : Nat × Nat := (d.gIdx + i * d.gIdxBytes, d.gIdxBytes)
/-- OFS[b] of GATHER_BAG (R272). -/
def State.gOfs (s : State) (d : Desc) (b : Nat) : Nat := fld (s.readJob d.pos (d.gData + 4 * b) 4) 0 4

/-- The bag's offsets are usable: they do not decrease, and its indices (and weights) lie in the job's scratchpad (R275). -/
def State.bagOk (s : State) (d : Desc) (b : Nat) : Bool :=
  let lo := s.gOfs d b
  let hi := s.gOfs d (b + 1)
  decide (lo ≤ hi) && (lo == hi ||
    (s.inScratch d.pos (d.gIdx + lo * d.gIdxBytes) ((hi - lo) * d.gIdxBytes) &&
     (!d.gWeighted || s.inScratch d.pos (d.gWeight + 4 * lo) (4 * (hi - lo)))))

/-- The positions of a bag (R272). -/
def bagPositions (s : State) (d : Desc) (b : Nat) : List Nat :=
  if s.bagOk d b then (List.range (s.gOfs d (b + 1) - s.gOfs d b)).map fun k => s.gOfs d b + k else []

/-- The positions of bag or row `k` of an operation. -/
def State.gPos (s : State) (d : Desc) (k : Nat) : List Nat := if d.opcode = 0x0401 then bagPositions s d k else [k]

/-- The positions that an operation has still to look up or to write, up to the first bag with unusable offsets. -/
def State.gLeft (s : State) (d : Desc) : List Nat :=
  (((List.range (d.gCount - d.progress)).map fun k => d.progress + k).takeWhile fun k => d.opcode != 0x0401 || s.bagOk d k).flatMap
    (s.gPos d)

/-- Where a row stands (R271): failed, at a job address, or in a peer's window. -/
inductive RowAt where
  | failed (c : Code)
  | here (va : Nat)
  | there (peer winref off : Nat)
deriving DecidableEq, Repr

/-- Row r belongs to shard r mod SHARDS, at local row r div SHARDS. -/
def State.rowAt (s : State) (d : Desc) (t : GTab) (i : Nat) : RowAt :=
  let r := s.gIndex d i
  let stride := if t.stride = 0 then t.rowBytes else t.stride
  if t.total ≤ r then .failed E.argRange
  else if t.shards = 1 then .here (t.base + r * stride)
  else
    let e := fld (s.readJob d.pos (t.map + 8 * (r % t.shards)) 8) 0 8
    if bits e 63 1 = 1 then .here (t.base + r / t.shards * stride)
    else .there (bits e 48 15) (bits e 32 12 * 2 ^ 20 + bits e 0 20) (r / t.shards * t.rowBytes)

/-- What naming the row of a position reads: its index, and its shard's entry. -/
def State.rowReads (s : State) (d : Desc) (t : GTab) (i : Nat) : List (Nat × Nat) :=
  d.gIndexAt i :: if s.gIndex d i < t.total ∧ t.shards ≠ 1 then [(t.map + 8 * (s.gIndex d i % t.shards), 8)] else []

/-! ### Lookups and writes under way (R275, R277) -/

/-- Packets of at most 4,096 bytes: (offset, length). -/
def pieces (n : Nat) : List (Nat × Nat) := (List.range (ceilDiv n 4096)).map fun i => (4096 * i, Nat.min 4096 (n - 4096 * i))

def Desc.gFetch (d : Desc) (i : Nat) : Fetch := tget Fetch.none i d.fetch
def Fetch.settled : Fetch → Bool
  | .ready _ => true
  | .failed _ => true
  | _ => false

def State.setFetch (s : State) (core serial i : Nat) (f : Fetch) : State :=
  s.saveDesc 4 core serial fun d => { d with fetch := tset Fetch.none i f d.fetch }

/-- `n` bytes of data rows are values, from stored position `p` on (R41, R44). -/
def State.dataVals (s : State) (d : Desc) (p n : Nat) : List Val :=
  if d.gDataCode = 5 then (List.range n).map fun j =>
    let b := fld (s.readJob d.pos (d.gData + (p + j) / 2) 1) 0 1
    fp4Value (if (p + j) % 2 = 0 then b % 16 else b / 16) (gatherScale d.gData ((p + j) / 32)).toNat
  else s.elems d.pos d.gDataF (d.gData + p * d.gDataF.bytes) n

/-- The bytes of data row `i`. -/
def Desc.dataRow (d : Desc) (t : GTab) (i : Nat) : Nat × Nat :=
  (d.gData + codeBytes d.gDataCode (i * t.elems), codeBytes d.gDataCode t.elems)

/-- Starts the lookup of position `i`. -/
def State.startLookup (s : State) (core : Nat) (d : Desc) (t : GTab) (i : Nat) (fs : Finds) : State × Finds :=
  match s.sees d.pos (s.rowReads d t i) fs with
  | (false, s, fs) => (s.setFetch core d.serial i (.failed E.uncorrectable), fs)
  | (true, s, fs) =>
    match s.rowAt d t i with
    | .failed c => (s.setFetch core d.serial i (.failed c), fs)
    | .here va =>
      match s.readThrough d.pos va t.rowBytes with
      | none => (s.setFetch core d.serial i (.failed E.argRange), fs)
      | some bs =>
        let us := s.flashUnits d.pos va t.rowBytes
        if !us.isEmpty then (s.setFetch core d.serial i (.flash us), fs)
        else match s.sees d.pos [(va, t.rowBytes)] fs with
          | (false, s, fs) => (s.setFetch core d.serial i (.failed E.uncorrectable), fs)
          | (true, s, fs) => (s.setFetch core d.serial i (.ready bs), fs)
    | .there p w off =>
      if s.ownId.isNone || !s.isMember p then (s.setFetch core d.serial i (.failed E.peerGone), fs)
      else if s.azRoom p 1 < (pieces t.rowBytes).length then (s, fs)
      else ((pieces t.rowBytes).foldl (fun s x => s.sendRead p w (off + x.1) x.2 (.row core d.serial i x.1 x.2))
        (s.setFetch core d.serial i (.remote (pieces t.rowBytes).length [])), fs)

/-- The row that SCATTER_ROWS writes for position `i`: its values converted to ROW_FMT (R55, R285). -/
def State.scatterRow (s : State) (d : Desc) (t : GTab) (i : Nat) : List Rounded :=
  let vs := s.dataVals d (i * t.elems) t.elems
  (List.range t.elems).map fun j => t.fmt.conv d.rnd (s.rbits d (i * t.elems + j)) (vs.getD j .nan)

def rowBytesOf (f : Fmt) (rs : List Rounded) : List Byte := rs.flatMap fun r => leBytes f.bytes r.code

/-- Starts the write of position `i`: a local row is written when its page is resident, which it waits for (R343), and its home
lets it. -/
def State.startWrite (s : State) (core : Nat) (d : Desc) (t : GTab) (i : Nat) (fs : Finds) : State × Finds :=
  match s.sees d.pos (d.dataRow t i :: s.rowReads d t i) fs with
  | (false, s, fs) => (s.setFetch core d.serial i (.failed E.uncorrectable), fs)
  | (true, s, fs) =>
    let bs := rowBytesOf t.fmt (s.scatterRow d t i)
    match s.rowAt d t i with
    | .failed c => (s.setFetch core d.serial i (.failed c), fs)
    | .here va =>
      (match s.spanOf d.pos va bs.length true with
       | .bad => s.setFetch core d.serial i (.failed E.argRange)
       | .absent ps => ps.foldl (fun s p => s.faultIn d.pos p (shoreOf core) d.account)
           (s.saveDesc 4 core d.serial fun d => { d with waiting := d.waiting ++ ps.filter fun p => !d.waiting.contains p })
       | .runs _ => if s.partBad d.pos va bs.length then s.setFetch core d.serial i (.failed E.uncorrectable)
           else if s.mustHold d.pos va bs.length then s
           else (s.writeJob d.pos va bs).setFetch core d.serial i (.ready []), fs)
    | .there p w off =>
      if s.ownId.isNone || !s.isMember p then (s.setFetch core d.serial i (.failed E.peerGone), fs)
      else if s.azRoom p 3 < (pieces bs.length).length then (s, fs)
      else ((pieces bs.length).foldl (fun s x =>
          s.azSend p (s.mkPkt Wire.winWrite 3 p (specOf [(20, 4, w), (24, 6, off + x.1)]) (slice bs x.1 x.2)) (.row core d.serial i x.1 x.2))
        (s.setFetch core d.serial i (.remote (pieces bs.length).length [])), fs)

/-! ### Results -/

/-- The values of a fetched row; none for a failed lookup. -/
def Desc.rowVals (d : Desc) (t : GTab) (i : Nat) : Option (List Val) :=
  match d.gFetch i with
  | .ready bs => some ((List.range t.elems).map fun j => t.fmt.decode (fld bs (j * t.fmt.bytes) t.fmt.bytes))
  | _ => none

def Desc.rowCode (d : Desc) (i : Nat) : Code :=
  match d.gFetch i with
  | .failed c => c
  | _ => E.ok

/-- The failure of a position ends the operation: any without TOLERATE, an uncorrectable or untranslatable row even with it (R275,
R330). -/
def State.fatalAt (s : State) (d : Desc) (t : GTab) (i : Nat) : Bool :=
  d.rowCode i != E.ok &&
    (!d.gTol || d.rowCode i == E.uncorrectable || (d.rowCode i == E.argRange && decide (s.gIndex d i < t.total)))

/-- The first failure among positions that ends the operation. -/
def State.gFail (s : State) (d : Desc) (t : GTab) (ps : List Nat) : Option Code := (ps.find? (s.fatalAt d t)).map d.rowCode

/-- What starting positions in order has come to: the finds left, the indices of positions that wait, and whether a failure has ended
it. -/
structure Starts where
  s : State
  finds : Finds
  waits : List Nat
  stop : Bool

/-- Starts position `i`, in ascending order: nothing once an earlier position has failed for good (R252, R275), and not before an
earlier one that names the same row (R276); at most 512 lookups are outstanding (R277). -/
def Starts.next (core serial : Nat) (t : GTab) (start : State → Desc → Nat → Finds → State × Finds) (x : Starts) (i : Nat) : Starts :=
  match (x.s.engine 4 core).queue.find? fun d => d.serial == serial with
  | none => x
  | some d =>
    if x.stop then x
    else if d.gFetch i != Fetch.none then { x with stop := x.s.fatalAt d t i }
    else if decide (512 ≤ (d.fetch.filter fun f => f.2.pending).length) || x.waits.contains (x.s.gIndex d i) then
      { x with waits := x.s.gIndex d i :: x.waits }
    else
      let r := start x.s d i x.finds
      match (r.1.engine 4 core).queue.find? fun d => d.serial == serial with
      | none => { x with s := r.1, finds := r.2 }
      | some d => { s := r.1, finds := r.2, stop := r.1.fatalAt d t i
                    waits := if d.gFetch i = Fetch.none then r.1.gIndex d i :: x.waits else x.waits }

/-- Converts a row of results to OUT_FMT at output row `r`: its bytes and flags. An FP4 row's scale bytes have no address (R271; log
111, DESIGN CHOICE, unsafe). -/
def State.gRow (s : State) (d : Desc) (t : GTab) (r : Nat) (vs : List Val) : RowOut :=
  let bitsOf (j : Nat) : Nat := s.rbits d (r * t.elems + j)
  let a := d.gOut + codeBytes d.gOutCode (r * d.gLd t)
  if d.gOutCode = 5 then
    let bl := (List.range (t.elems / 32)).map fun k => fp4Block d.rnd (fun j => bitsOf (32 * k + j)) ((vs.drop (32 * k)).take 32)
    { writes := [(a, bl.flatMap fun x => packNibbles x.2.1)], sat := bl.any fun x => x.2.2.1, special := bl.any fun x => x.2.2.2 }
  else
    let rs := (List.range t.elems).map fun j => d.gOutF.conv d.rnd (bitsOf j) (vs.getD j .nan)
    { writes := [(a, rowBytesOf d.gOutF rs)], sat := rs.any fun x => x.sat, special := rs.any fun x => x.special }

/-- Missed positions in the status (R272). -/
def RowOut.missing (o : RowOut) (missed : List Nat) : RowOut :=
  { o with missed := !missed.isEmpty, count := missed.length, first := missed.head? }

/-- Rows of +0 (R273). -/
def GTab.zeros (t : GTab) : List Val := List.replicate t.elems (.fin false 0 0)

/-- A Sum (R273): rows in ascending position order, weighted when the operation is. -/
def State.gSum (s : State) (d : Desc) (t : GTab) (ps : List Nat) (row : Nat → List Val) : List Val :=
  let w (i : Nat) : Val := (s.elems d.pos fp32 (d.gWeight + 4 * i) 1).getD 0 .nan
  ps.foldl (fun acc i => List.zipWith (fun a x => if d.gWeighted then r32 (Val.fma (w i) x a) else addR a x) acc (row i)) t.zeros

/-- The pooled values of positions `ps` (R273). -/
def State.pool (s : State) (d : Desc) (t : GTab) (ps : List Nat) : List Val :=
  let row (i : Nat) : List Val := (d.rowVals t i).getD t.zeros
  match ps.filter fun i => (d.rowVals t i).isSome with
  | [] => t.zeros
  | i :: r =>
    if d.gPool = 2 then r.foldl (fun a k => List.zipWith Val.fmax a (row k)) (row i)
    else
      let sum := s.gSum d t ps row
      if d.gPool = 1 then sum.map fun x => r32 (x.div (Val.ofNat ps.length)) else sum

def bagRow (d : Desc) (t : GTab) (b : Nat) (s : State) : RowOut :=
  if !s.bagOk d b then { err := E.argRange }
  else
    let ps := bagPositions s d b
    match s.gFail d t ps with
    | some c => { err := c }
    | none => (s.gRow d t b (s.pool d t ps)).missing (ps.filter fun i => d.rowCode i != E.ok)

def bagReads (d : Desc) (b : Nat) (s : State) : List (Nat × Nat) :=
  let lo := s.gOfs d b
  (d.gData + 4 * b, 8) :: (if d.gWeighted && s.bagOk d b then [(d.gWeight + 4 * lo, 4 * (s.gOfs d (b + 1) - lo))] else [])

def rowsRow (d : Desc) (t : GTab) (i : Nat) (s : State) : RowOut :=
  match s.gFail d t [i] with
  | some c => { err := c }
  | none => (s.gRow d t i ((d.rowVals t i).getD t.zeros)).missing (if d.rowCode i = E.ok then [] else [i])

def scatRow (d : Desc) (t : GTab) (i : Nat) (s : State) : RowOut :=
  match s.gFail d t [i] with
  | some c => { err := c }
  | none =>
    if d.rowCode i ≠ E.ok then ({} : RowOut).missing [i]
    else let rs := s.scatterRow d t i
         { sat := rs.any fun x => x.sat, special := rs.any fun x => x.special }

/-! ### The operations (R272) -/

/-- How an operation with lookups runs: how a position starts, what a bag or row reads and gives. -/
structure GOp where
  start : Nat → GTab → State → Desc → Nat → Finds → State × Finds
  reads : Desc → Nat → State → List (Nat × Nat)
  body : Desc → GTab → Nat → State → RowOut

/-- Bags or rows whose positions have all settled, from `k` on, in order; a bag with unusable offsets has none. -/
def State.gSettled (s : State) (d : Desc) (k n : Nat) : Nat :=
  (((List.range n).map fun i => k + i).takeWhile fun k => (s.gPos d k).all fun i => (d.gFetch i).settled).length

/-- Bags or indices of a non-preemptible unit (R254). -/
def Desc.gUnit (d : Desc) : Nat := if d.opcode = 0x0401 then 1 else 64

/-- One turn of an operation with lookups: it starts what it may, finishes its next units in order as their positions settle, and
completes after the last, at the first failure that ends it (R275), or at an error met outside the engine. It keeps its progress
(R254). -/
def State.gather (s : State) (r : EngRun) (op : Nat) (o : GOp) : State :=
  match s.runningOp 4 r.num op with
  | none => s
  | some d0 =>
    let t := s.gTab d0
    let x := (s.gLeft d0).foldl (Starts.next r.num d0.serial t (o.start r.num t)) { s := s, finds := r.finds, waits := [], stop := false }
    match x.s.runningOp 4 r.num op with
    | none => x.s
    | some d =>
      let outs := ((d.gExts t ++ d.statusExt).filter fun e => e.wr).map fun e => (e.addr, e.n)
      if x.s.writesHeld d.pos outs then x.s
      else
        let n := x.s.gSettled d d.progress (Nat.min (d.gCount - d.progress) (r.units * d.gUnit))
        let a := x.s.rows d.pos d.progress n (o.reads d) (o.body d t) d.part x.finds
        if a.part.err = E.ok ∧ d.progress + n < d.gCount then
          let past := (List.range n).flatMap fun i => x.s.gPos d (d.progress + i)
          a.s.saveDesc 4 r.num d.serial fun d =>
            { d with progress := d.progress + n, part := a.part, fetch := d.fetch.filter fun f => !past.contains f.1 }
        else ({ a with s := a.s.dropOwner d.serial } : Acc).done 4 r.num d a.part.ending

def bagOp : GOp := { start := fun c t s d i fs => s.startLookup c d t i fs, reads := bagReads, body := bagRow }
def rowsOp : GOp := { start := fun c t s d i fs => s.startLookup c d t i fs, reads := fun _ _ _ => [], body := rowsRow }
def scatOp : GOp := { start := fun c t s d i fs => s.startWrite c d t i fs, reads := fun _ _ _ => [], body := scatRow }

/-- GATHER_BAG (R272, R273). -/
def execGatherBag (r : EngRun) (s : State) : Outc := .next (s.gather r 0x0401 bagOp)

/-- GATHER_ROWS (R272). -/
def execGatherRows (r : EngRun) (s : State) : Outc := .next (s.gather r 0x0402 rowsOp)

/-- SCATTER_ROWS (R272, R276, R343). -/
def execScatterRows (r : EngRun) (s : State) : Outc := .next (s.gather r 0x0403 scatOp)

/-! ### COMBINE_DUP (R274) -/

/-- Puts a number into an ascending list without repeats. -/
def insertNat (x : Nat) : List Nat → List Nat
  | [] => [x]
  | y :: r => if x < y then x :: y :: r else if x = y then y :: r else y :: insertNat x r

/-- The distinct valid indices in ascending order, and the positions that name one. -/
def State.dupIndices (s : State) (d : Desc) : List Nat :=
  (List.range d.gCount).foldl (fun l i => if s.gIndex d i < (s.gTab d).total then insertNat (s.gIndex d i) l else l) []
def State.dupPositions (s : State) (d : Desc) (u : Nat) : List Nat := (List.range d.gCount).filter fun i => s.gIndex d i == u

/-- What a piece of the operation reads: the whole index array in the sort, then the gradient rows and weights of an index. -/
def dupReads (d : Desc) (k : Nat) (s : State) : List (Nat × Nat) :=
  if k = 0 then [(d.gIdx, d.gCount * d.gIdxBytes)]
  else (s.dupPositions d ((s.dupIndices d).getD (k - 1) 0)).flatMap fun i =>
    d.dataRow (s.gTab d) i :: if d.gWeighted then [(d.gWeight + 4 * i, 4)] else []

/-- The sort, in which an index that is not below ROWS_TOTAL ends the operation, or is dropped and counted under TOLERATE (R275); then
one distinct index after the other: the Sum of its gradient rows (R273, R274). -/
def dupRow (d : Desc) (k : Nat) (s : State) : RowOut :=
  let t := s.gTab d
  if k = 0 then
    let dropped := (List.range d.gCount).filter fun i => decide (t.total ≤ s.gIndex d i)
    if !dropped.isEmpty && !d.gTol then { err := E.argRange } else { missed := !dropped.isEmpty, count := dropped.length }
  else
    let u := (s.dupIndices d).getD (k - 1) 0
    let o := s.gRow d t (k - 1) (s.gSum d t (s.dupPositions d u) fun i => s.dataVals d (i * t.elems) t.elems)
    { o with writes := o.writes ++ [(d.gOutIdx + (k - 1) * d.gIdxBytes, leBytes d.gIdxBytes u)] }

/-- COMBINE_DUP sorts, then moves rows (R277; the sorting is its first row: log 125, DEDUCED, unsafe); DETAIL is the number of unique
indices (R272). -/
def dupOp : RowOp :=
  { rows := fun d s => (s.dupIndices d).length + 1, unit := fun _ => 64, reads := dupReads, body := dupRow
    ending := fun d s p => { p.ending with detail := if p.err = E.ok then (s.dupIndices d).length else 2 ^ 64 - 1 } }

/-- COMBINE_DUP (R274). -/
def execCombineDup (r : EngRun) (s : State) : Outc :=
  .next (s.runOp 4 0x0404 r (fun d => ((d.gExts (s.gTab d) ++ d.statusExt).filter fun e => e.wr).map fun e => (e.addr, e.n)) dupOp)

/-! ### Reads of the flash tier -/

/-- A position's last unit has come: its bytes from where they now stand. -/
def State.unitCame (s : State) (core unit : Nat) (ok : Bool) (d : Desc) (f : Nat × Fetch) : State :=
  match f.2 with
  | .flash us =>
    let left := us.filter fun u => u != unit
    let t := s.gTab d
    if !us.contains unit then s
    else if !ok then s.setFetch core d.serial f.1 (.failed E.uncorrectable)
    else if !left.isEmpty then s.setFetch core d.serial f.1 (.flash left)
    else match s.rowAt d t f.1 with
      | .here va => s.setFetch core d.serial f.1 (.ready ((s.readThrough d.pos va t.rowBytes).getD []))
      | _ => s
  | _ => s

/-- A direct read of a flash unit by a core's gather engine completes (R277, R330, R341), for every position of its operations that
waits for it. -/
def execGatherFlashReadComplete (core unit : Nat) (r : FlashRead) (s : State) : Outc :=
  .next (
    let mine (f : Nat × Fetch) : Bool := match f.2 with
      | .flash us => us.contains unit
      | _ => false
    let ds := (s.engine 4 core).queue.filter fun d => d.fetch.any mine
    if !s.live || ds.isEmpty then s
    else
      let u := s.readUnit unit r
      ds.foldl (fun s d => d.fetch.foldl (fun s f => s.unitCame core unit u.1 d f) s) u.2)

end Sys2Proof.Machine
end

