-- ==== Sys2Proof/Machine/TillerCode.lean ====
section
/-! DEFINITION. The Tiller instruction word (R186 to R188): its fields, which words are executed and which fault with
E_ARG_FORMAT (R187), and the word of each Tiller command. -/

namespace Sys2Proof.Machine

/-- The fields of an instruction word (R186). -/
structure Fields where
  cls : BitVec 4
  op : BitVec 4
  rd : BitVec 6
  ra : BitVec 6
  rb : BitVec 6
  imm : BitVec 38
deriving DecidableEq, Repr

/-- The fields of a word (R186). -/
def fieldsOf (w : W64) : Fields :=
  { cls := w.extractLsb' 60 4, op := w.extractLsb' 56 4, rd := w.extractLsb' 50 6, ra := w.extractLsb' 44 6
    rb := w.extractLsb' 38 6, imm := w.extractLsb' 0 38 }

/-- The word of its fields (R186). -/
def wordOf (f : Fields) : W64 := f.cls ++ f.op ++ f.rd ++ f.ra ++ f.rb ++ f.imm

/-- A field names a predicate: bits above [1:0] are zero (R191). -/
def isPrd (r : BitVec 6) : Bool := r.toNat < 4

/-- Bits [37:n] of IMM are zero. -/
def immBelow (f : Fields) (n : Nat) : Bool := f.imm.toNat < 2 ^ n

/-- The word is defined: no reserved class, no undefined OP, no set bit in a field its class requires to be zero
(R187, R191 to R195, R202, R203, R206, R208, R212, R213, R216, R217). -/
def legalFields (f : Fields) : Bool :=
  let o := f.op.toNat
  let rd0 := f.rd == 0
  let ra0 := f.ra == 0
  let rb0 := f.rb == 0
  let imm0 := f.imm == 0
  match f.cls.toNat with
  | 0 => imm0
  | 1 => rb0 && (if o == 7 || o == 8 || o == 9 then immBelow f 6 else true)
  | 2 =>
    if o ≤ 5 then isPrd f.rd && imm0
    else if o = 6 then immBelow f 2
    else if o = 7 then rb0 && immBelow f 32
    else if o = 8 || o = 9 then isPrd f.rd && isPrd f.ra && isPrd f.rb && imm0
    else if o = 10 then isPrd f.rd && isPrd f.ra && rb0 && imm0
    else false
  | 3 =>
    if o ≤ 9 then immBelow f 1 && (if o = 5 || o = 8 || o = 9 then rb0 else true)
    else if o ≤ 12 then isPrd f.rd && immBelow f 2
    else false
  | 4 => if o = 3 || o = 4 || o = 6 then rd0 else if o ≤ 5 then rb0 else false
  | 5 => if o ≤ 6 then rb0 else if 8 ≤ o && o ≤ 11 then rd0 else false
  | 6 =>
    if o = 0 then rd0 && ra0 && rb0
    else if o = 1 then f.rd.toNat < 8 && ra0 && rb0
    else if o = 2 then rd0 && rb0 && imm0
    else if o = 3 then ra0 && rb0
    else false
  | 7 =>
    if o = 0 then rd0 && rb0 && imm0 && f.ra.toNat % 8 == 0 && !ra0
    else if o = 1 then rd0 && rb0 else false
  | 8 =>
    if o = 0 || o = 2 then rd0 && immBelow f 16
    else if o = 1 then isPrd f.rd && immBelow f 16
    else if o = 3 then rb0 && immBelow f 16
    else if o ≤ 7 then rd0 && rb0 else false
  | 9 => if o ≤ 10 then (f.imm.extractLsb' 32 3 == 0) && (if o = 10 then !f.imm.getLsbD 37 else true) else false
  | 10 => o == 0 && rd0 && ra0 && rb0 && imm0
  | 11 => if o = 0 then ra0 && rb0 else if o = 1 then ra0 && rb0 && imm0 else false
  | 12 => o == 0 && rd0 && ra0 && rb0 && immBelow f 1
  | 13 =>
    if o = 0 then rd0 && ra0 && rb0 && imm0
    else if o = 1 then ra0 && rb0 && f.imm.toNat < 6
    else if o = 2 then rd0 && rb0 && imm0
    else if o = 3 then ra0 && rb0 && imm0
    else false
  | _ => false

/-- The word may be executed (R187). -/
def legal (w : W64) : Bool := legalFields (fieldsOf w)

/-- The source registers and source predicates of an instruction word (R156, R188, R191 to R217). -/
def Fields.sources (f : Fields) : List Reg × List Prd :=
  let o := f.op.toNat
  match f.cls.toNat with
  | 0 => ([f.ra, f.rb], [])
  | 1 => ([f.ra], [])
  | 2 =>
    if o ≤ 5 then ([f.ra, f.rb], [])
    else if o = 6 then ([f.ra, f.rb], [f.imm.setWidth 2])
    else if o = 7 then ([f.ra], [])
    else if o = 10 then ([], [f.ra.setWidth 2])
    else ([], [f.ra.setWidth 2, f.rb.setWidth 2])
  | 3 => (if o = 3 then [f.ra, f.rb, f.rd] else if o = 5 ∨ o = 8 ∨ o = 9 then [f.ra] else [f.ra, f.rb], [])
  | 4 => (if o = 3 ∨ o = 4 ∨ o = 6 then [f.ra, f.rb] else [f.ra], [])
  | 5 => (if 8 ≤ o then [f.ra, f.rb] else [f.ra], [])
  | 6 => (if o = 2 then [f.ra] else [], if o = 1 then [f.rd.setWidth 2] else [])
  | 7 => (if o = 0 then (List.range 8).map fun i => f.ra + BitVec.ofNat 6 i else [f.ra], [])
  | 8 => (if o ≤ 2 then [f.ra, f.rb] else [f.ra], [])
  | 9 => (if o = 9 then [f.ra, f.rb, f.rd] else [f.ra, f.rb], [])
  | 13 => (if o = 2 then [f.ra] else [], if o = 3 then [0, 1, 2, 3] else [])
  | _ => ([], [])

/-- The IMM field of an atomic (R208). -/
def AtomImm (f : AtomF) : Imm :=
  (BitVec.ofBool f.wide) ++ (BitVec.ofBool f.acq) ++ (BitVec.ofBool f.rel) ++ (0#3) ++ f.off

def atomOf (i : Imm) : AtomF := { wide := i.getLsbD 37, acq := i.getLsbD 36, rel := i.getLsbD 35, off := i.setWidth 32 }

/-- The second operand's class, RB and IMM (R192). -/
def src2Fields (op : BitVec 4) (rd ra : Reg) : Src2 → Fields
  | .reg rb => { cls := 0, op := op, rd := rd, ra := ra, rb := rb, imm := 0 }
  | .imm v => { cls := 1, op := op, rd := rd, ra := ra, rb := 0, imm := v }

/-- A word's fields from class, operation, RD, RA, RB and IMM. -/
def mk (cls op : BitVec 4) (rd ra rb : Reg) (imm : Imm) : Fields :=
  { cls := cls, op := op, rd := rd, ra := ra, rb := rb, imm := imm }

/-- The instruction word of a Tiller command; none for every other command (R186 to R217). -/
def encodeFields : Instr → Option Fields
  | .add _ rd ra b => some (src2Fields 0 rd ra b)
  | .sub _ rd ra b => some (src2Fields 1 rd ra b)
  | .mul _ rd ra b => some (src2Fields 2 rd ra b)
  | .mulhu _ rd ra b => some (src2Fields 3 rd ra b)
  | .and _ rd ra b => some (src2Fields 4 rd ra b)
  | .or _ rd ra b => some (src2Fields 5 rd ra b)
  | .xor _ rd ra b => some (src2Fields 6 rd ra b)
  | .shl _ rd ra b => some (src2Fields 7 rd ra b)
  | .shr _ rd ra b => some (src2Fields 8 rd ra b)
  | .sar _ rd ra b => some (src2Fields 9 rd ra b)
  | .min _ rd ra b => some (src2Fields 10 rd ra b)
  | .max _ rd ra b => some (src2Fields 11 rd ra b)
  | .minu _ rd ra b => some (src2Fields 12 rd ra b)
  | .maxu _ rd ra b => some (src2Fields 13 rd ra b)
  | .divu _ rd ra b => some (src2Fields 14 rd ra b)
  | .remu _ rd ra b => some (src2Fields 15 rd ra b)
  | .cmpEq _ pd ra rb => some (mk 2 0 (pd.setWidth 6) ra rb 0)
  | .cmpNe _ pd ra rb => some (mk 2 1 (pd.setWidth 6) ra rb 0)
  | .cmpLt _ pd ra rb => some (mk 2 2 (pd.setWidth 6) ra rb 0)
  | .cmpLtu _ pd ra rb => some (mk 2 3 (pd.setWidth 6) ra rb 0)
  | .cmpGe _ pd ra rb => some (mk 2 4 (pd.setWidth 6) ra rb 0)
  | .cmpGeu _ pd ra rb => some (mk 2 5 (pd.setWidth 6) ra rb 0)
  | .sel _ rd ra rb p => some (mk 2 6 rd ra rb (p.setWidth 38))
  | .lih _ rd ra imm => some (mk 2 7 rd ra 0 (imm.setWidth 38))
  | .pand _ pd pa pb => some (mk 2 8 (pd.setWidth 6) (pa.setWidth 6) (pb.setWidth 6) 0)
  | .por _ pd pa pb => some (mk 2 9 (pd.setWidth 6) (pa.setWidth 6) (pb.setWidth 6) 0)
  | .pnot _ pd pa => some (mk 2 10 (pd.setWidth 6) (pa.setWidth 6) 0 0)
  | .fadd _ rd ra rb r => some (mk 3 0 rd ra rb (r.setWidth 38))
  | .fsub _ rd ra rb r => some (mk 3 1 rd ra rb (r.setWidth 38))
  | .fmul _ rd ra rb r => some (mk 3 2 rd ra rb (r.setWidth 38))
  | .ffma _ rd ra rb r => some (mk 3 3 rd ra rb (r.setWidth 38))
  | .fdiv _ rd ra rb r => some (mk 3 4 rd ra rb (r.setWidth 38))
  | .fsqrt _ rd ra r => some (mk 3 5 rd ra 0 (r.setWidth 38))
  | .fmin _ rd ra rb r => some (mk 3 6 rd ra rb (r.setWidth 38))
  | .fmax _ rd ra rb r => some (mk 3 7 rd ra rb (r.setWidth 38))
  | .fcvtFi _ rd ra r => some (mk 3 8 rd ra 0 (r.setWidth 38))
  | .fcvtIf _ rd ra r => some (mk 3 9 rd ra 0 (r.setWidth 38))
  | .feq _ pd ra rb => some (mk 3 10 (pd.setWidth 6) ra rb 0)
  | .flt _ pd ra rb => some (mk 3 11 (pd.setWidth 6) ra rb 0)
  | .fle _ pd ra rb => some (mk 3 12 (pd.setWidth 6) ra rb 0)
  | .ldw _ rd ra imm => some (mk 4 0 rd ra 0 imm)
  | .ldws _ rd ra imm => some (mk 4 1 rd ra 0 imm)
  | .ldd _ rd ra imm => some (mk 4 2 rd ra 0 imm)
  | .stw _ ra rb imm => some (mk 4 3 0 ra rb imm)
  | .std _ ra rb imm => some (mk 4 4 0 ra rb imm)
  | .ldwTk _ rd ra imm _ => some (mk 4 5 rd ra 0 imm)
  | .stwTk _ ra rb imm _ => some (mk 4 6 0 ra rb imm)
  | .ld8u _ rd ra imm => some (mk 5 0 rd ra 0 imm)
  | .ld16u _ rd ra imm => some (mk 5 1 rd ra 0 imm)
  | .ld32u _ rd ra imm => some (mk 5 2 rd ra 0 imm)
  | .ld64 _ rd ra imm => some (mk 5 3 rd ra 0 imm)
  | .ld8s _ rd ra imm => some (mk 5 4 rd ra 0 imm)
  | .ld16s _ rd ra imm => some (mk 5 5 rd ra 0 imm)
  | .ld32s _ rd ra imm => some (mk 5 6 rd ra 0 imm)
  | .st8 _ ra rb imm => some (mk 5 8 0 ra rb imm)
  | .st16 _ ra rb imm => some (mk 5 9 0 ra rb imm)
  | .st32 _ ra rb imm => some (mk 5 10 0 ra rb imm)
  | .st64 _ ra rb imm => some (mk 5 11 0 ra rb imm)
  | .br _ imm => some (mk 6 0 0 0 0 imm)
  | .brp _ p sense imm => some (mk 6 1 ((BitVec.ofBool sense ++ p).setWidth 6) 0 0 imm)
  | .brr _ ra => some (mk 6 2 0 ra 0 0)
  | .call _ rd imm => some (mk 6 3 rd 0 0 imm)
  | .issueR _ a => some (mk 7 0 0 a.ra 0 0)
  | .issueM _ a imm => some (mk 7 1 0 a.ra 0 imm)
  | .wait _ ra rb imm => some (mk 8 0 0 ra rb (imm.setWidth 38))
  | .waitTest _ pd ra rb imm => some (mk 8 1 (pd.setWidth 6) ra rb (imm.setWidth 38))
  | .giveC _ ra rb imm => some (mk 8 2 0 ra rb (imm.setWidth 38))
  | .readc _ rd ra imm => some (mk 8 3 rd ra 0 (imm.setWidth 38))
  | .takeF _ ra imm _ => some (mk 8 4 0 ra 0 imm)
  | .takeE _ ra imm _ => some (mk 8 5 0 ra 0 imm)
  | .giveF _ ra imm _ => some (mk 8 6 0 ra 0 imm)
  | .giveE _ ra imm _ => some (mk 8 7 0 ra 0 imm)
  | .aadd _ rd ra rb f => some (mk 9 0 rd ra rb (AtomImm f))
  | .aand _ rd ra rb f => some (mk 9 1 rd ra rb (AtomImm f))
  | .aor _ rd ra rb f => some (mk 9 2 rd ra rb (AtomImm f))
  | .axor _ rd ra rb f => some (mk 9 3 rd ra rb (AtomImm f))
  | .amin _ rd ra rb f => some (mk 9 4 rd ra rb (AtomImm f))
  | .amax _ rd ra rb f => some (mk 9 5 rd ra rb (AtomImm f))
  | .aminu _ rd ra rb f => some (mk 9 6 rd ra rb (AtomImm f))
  | .amaxu _ rd ra rb f => some (mk 9 7 rd ra rb (AtomImm f))
  | .aswap _ rd ra rb f => some (mk 9 8 rd ra rb (AtomImm f))
  | .acas _ rd ra rb f => some (mk 9 9 rd ra rb (AtomImm f))
  | .afadd _ rd ra rb f => some (mk 9 10 rd ra rb (AtomImm f))
  | .fence _ => some (mk 10 0 0 0 0 0)
  | .xbegin _ rd imm => some (mk 11 0 rd 0 0 imm)
  | .xcommit _ rd => some (mk 11 1 rd 0 0 0)
  | .yield _ => some (mk 12 0 0 0 0 0)
  | .yieldEnd _ => some (mk 12 0 0 0 0 1)
  | .nop _ => some (mk 13 0 0 0 0 0)
  | .rdsys _ rd sel => some (mk 13 1 rd 0 0 (sel.setWidth 38))
  | .pmov _ ra => some (mk 13 2 0 ra 0 0)
  | .prd _ rd => some (mk 13 3 rd 0 0 0)
  | _ => none

/-- The instruction word of a Tiller command (R186). -/
def encodeTiller (i : Instr) : Option W64 := (encodeFields i).map wordOf

/-- The predicate a field names (R191). -/
def prdOf (r : BitVec 6) : Prd := r.setWidth 2

/-- The command that defined fields spell, for the berth `t`; an undefined word spells ILLEGAL_INSTRUCTION (R187). -/
def decodeFields (t : Thr) (f : Fields) : Instr :=
  if legalFields f then
    let b2 : Src2 := if f.cls = 0 then .reg f.rb else .imm f.imm
    let rnd : BitVec 2 := f.imm.setWidth 2
    let im16 : W16 := f.imm.setWidth 16
    match f.cls.toNat, f.op.toNat with
    | 0, 0 | 1, 0 => .add t f.rd f.ra b2
    | 0, 1 | 1, 1 => .sub t f.rd f.ra b2
    | 0, 2 | 1, 2 => .mul t f.rd f.ra b2
    | 0, 3 | 1, 3 => .mulhu t f.rd f.ra b2
    | 0, 4 | 1, 4 => .and t f.rd f.ra b2
    | 0, 5 | 1, 5 => .or t f.rd f.ra b2
    | 0, 6 | 1, 6 => .xor t f.rd f.ra b2
    | 0, 7 | 1, 7 => .shl t f.rd f.ra b2
    | 0, 8 | 1, 8 => .shr t f.rd f.ra b2
    | 0, 9 | 1, 9 => .sar t f.rd f.ra b2
    | 0, 10 | 1, 10 => .min t f.rd f.ra b2
    | 0, 11 | 1, 11 => .max t f.rd f.ra b2
    | 0, 12 | 1, 12 => .minu t f.rd f.ra b2
    | 0, 13 | 1, 13 => .maxu t f.rd f.ra b2
    | 0, 14 | 1, 14 => .divu t f.rd f.ra b2
    | 0, 15 | 1, 15 => .remu t f.rd f.ra b2
    | 2, 0 => .cmpEq t (prdOf f.rd) f.ra f.rb
    | 2, 1 => .cmpNe t (prdOf f.rd) f.ra f.rb
    | 2, 2 => .cmpLt t (prdOf f.rd) f.ra f.rb
    | 2, 3 => .cmpLtu t (prdOf f.rd) f.ra f.rb
    | 2, 4 => .cmpGe t (prdOf f.rd) f.ra f.rb
    | 2, 5 => .cmpGeu t (prdOf f.rd) f.ra f.rb
    | 2, 6 => .sel t f.rd f.ra f.rb (f.imm.setWidth 2)
    | 2, 7 => .lih t f.rd f.ra (f.imm.setWidth 32)
    | 2, 8 => .pand t (prdOf f.rd) (prdOf f.ra) (prdOf f.rb)
    | 2, 9 => .por t (prdOf f.rd) (prdOf f.ra) (prdOf f.rb)
    | 2, 10 => .pnot t (prdOf f.rd) (prdOf f.ra)
    | 3, 0 => .fadd t f.rd f.ra f.rb rnd
    | 3, 1 => .fsub t f.rd f.ra f.rb rnd
    | 3, 2 => .fmul t f.rd f.ra f.rb rnd
    | 3, 3 => .ffma t f.rd f.ra f.rb rnd
    | 3, 4 => .fdiv t f.rd f.ra f.rb rnd
    | 3, 5 => .fsqrt t f.rd f.ra rnd
    | 3, 6 => .fmin t f.rd f.ra f.rb rnd
    | 3, 7 => .fmax t f.rd f.ra f.rb rnd
    | 3, 8 => .fcvtFi t f.rd f.ra rnd
    | 3, 9 => .fcvtIf t f.rd f.ra rnd
    | 3, 10 => .feq t (prdOf f.rd) f.ra f.rb
    | 3, 11 => .flt t (prdOf f.rd) f.ra f.rb
    | 3, 12 => .fle t (prdOf f.rd) f.ra f.rb
    | 4, 0 => .ldw t f.rd f.ra f.imm
    | 4, 1 => .ldws t f.rd f.ra f.imm
    | 4, 2 => .ldd t f.rd f.ra f.imm
    | 4, 3 => .stw t f.ra f.rb f.imm
    | 4, 4 => .std t f.ra f.rb f.imm
    | 4, 5 => .ldwTk t f.rd f.ra f.imm .clean
    | 4, 6 => .stwTk t f.ra f.rb f.imm .clean
    | 5, 0 => .ld8u t f.rd f.ra f.imm
    | 5, 1 => .ld16u t f.rd f.ra f.imm
    | 5, 2 => .ld32u t f.rd f.ra f.imm
    | 5, 3 => .ld64 t f.rd f.ra f.imm
    | 5, 4 => .ld8s t f.rd f.ra f.imm
    | 5, 5 => .ld16s t f.rd f.ra f.imm
    | 5, 6 => .ld32s t f.rd f.ra f.imm
    | 5, 8 => .st8 t f.ra f.rb f.imm
    | 5, 9 => .st16 t f.ra f.rb f.imm
    | 5, 10 => .st32 t f.ra f.rb f.imm
    | 5, 11 => .st64 t f.ra f.rb f.imm
    | 6, 0 => .br t f.imm
    | 6, 1 => .brp t (prdOf f.rd) (f.rd.getLsbD 2) f.imm
    | 6, 2 => .brr t f.ra
    | 6, 3 => .call t f.rd f.imm
    | 7, 0 => .issueR t { ra := f.ra, port := { rivals := [], finds := [] } }
    | 7, 1 => .issueM t { ra := f.ra, port := { rivals := [], finds := [] } } f.imm
    | 8, 0 => .wait t f.ra f.rb im16
    | 8, 1 => .waitTest t (prdOf f.rd) f.ra f.rb im16
    | 8, 2 => .giveC t f.ra f.rb im16
    | 8, 3 => .readc t f.rd f.ra im16
    | 8, 4 => .takeF t f.ra f.imm .clean
    | 8, 5 => .takeE t f.ra f.imm .clean
    | 8, 6 => .giveF t f.ra f.imm .clean
    | 8, 7 => .giveE t f.ra f.imm .clean
    | 9, 0 => .aadd t f.rd f.ra f.rb (atomOf f.imm)
    | 9, 1 => .aand t f.rd f.ra f.rb (atomOf f.imm)
    | 9, 2 => .aor t f.rd f.ra f.rb (atomOf f.imm)
    | 9, 3 => .axor t f.rd f.ra f.rb (atomOf f.imm)
    | 9, 4 => .amin t f.rd f.ra f.rb (atomOf f.imm)
    | 9, 5 => .amax t f.rd f.ra f.rb (atomOf f.imm)
    | 9, 6 => .aminu t f.rd f.ra f.rb (atomOf f.imm)
    | 9, 7 => .amaxu t f.rd f.ra f.rb (atomOf f.imm)
    | 9, 8 => .aswap t f.rd f.ra f.rb (atomOf f.imm)
    | 9, 9 => .acas t f.rd f.ra f.rb (atomOf f.imm)
    | 9, 10 => .afadd t f.rd f.ra f.rb (atomOf f.imm)
    | 10, 0 => .fence t
    | 11, 0 => .xbegin t f.rd f.imm
    | 11, 1 => .xcommit t f.rd
    | 12, 0 => if f.imm = 0 then .yield t else .yieldEnd t
    | 13, 0 => .nop t
    | 13, 1 => .rdsys t f.rd (f.imm.setWidth 4)
    | 13, 2 => .pmov t f.ra
    | 13, 3 => .prd t f.rd
    | _, _ => .illegalInstruction t (wordOf f)
  else .illegalInstruction t (wordOf f)

/-- The command an instruction word spells (R186, R187). -/
def decodeTiller (t : Thr) (w : W64) : Instr := decodeFields t (fieldsOf w)

end Sys2Proof.Machine
end

