-- ==== Sys2Proof/Machine/Operands.lean ====
section
/-! DEFINITION. How a Tiller instruction issues, reads its operands and retires (R153 to R157, R188 to R193), and the
index and address forms of loads, stores, atomics, branches and counters (R195, R196, R202, R206, R208). -/

namespace Sys2Proof.Machine

/-! ### Issue -/

/-- A source register or predicate awaits a result on the load return path (R156). g0 awaits nothing. -/
def Ctx.awaits (c : Ctx) (rs : List Reg) (ps : List Prd) : Bool :=
  c.out.any fun o => match o.dest with
    | .reg r => r != 0 && rs.contains r
    | .half r _ => r != 0 && rs.contains r
    | .prd p => ps.contains p

/-- The instruction word at a PC, where its page is in DRAM (R154, R190). -/
def State.codeAt (s : State) (pos : Nat) (pc : W32) : Option W64 :=
  match s.xlate pos ((s.job pos).man.codeVa + 8 * pc.toNat) false with
  | .phys pa _ => some (BitVec.ofNat 64 (rdNat s.ms.mem pa 8))
  | _ => none

/-- A context is ready: RUNNABLE, and no source of its next instruction awaits a result (R156). -/
def State.ctxReady (s : State) (core : Nat) (c : Ctx) : Bool :=
  c.status == .runnable && (c.out.isEmpty || match s.codeAt (s.posOf core) c.pc with
    | none => true
    | some w => !c.awaits (fieldsOf w).sources.1 (fieldsOf w).sources.2)

/-- The ready berths of a pipeline (R155, R156). -/
def State.readyBerths (s : State) (core pipe : Nat) : List Nat :=
  (s.core core).berths.filterMap fun b => match b.2 with
    | .resident c => if b.1 % 4 = pipe ∧ s.ctxReady core c then some b.1 else none
    | _ => none

/-- How far a berth comes after the one its pipeline last issued from, in ascending order with wrap (R155). -/
def Core.turnOf (k : Core) (b : Nat) : Nat := (b + 767 - k.lastIssued.getD (b % 4) 0) % 768

def Core.passed (k : Core) (b : Nat) : Bool := k.passes.any fun p => p.berth == b

/-- The berth whose ISSUE a pipeline presents to the port again (R158). -/
def Core.presents (k : Core) (pipe : Nat) : Option Nat :=
  match tget 0 pipe k.atPort with
  | 0 => none
  | b + 1 => match k.berth b with
    | .resident c => if c.status = .runnable then some b else none
    | _ => none

/-- The pipeline's turn is at this berth: its ISSUE waits at the port (R158), or no ISSUE of the pipeline does and no ready berth that
is not passed over comes before it (R155, R216). -/
def State.turn (s : State) (t : Thr) : Bool :=
  let k := s.core t.core
  match k.presents (t.berth % 4) with
  | some b => b == t.berth
  | none => (s.readyBerths t.core (t.berth % 4)).all fun b => k.passed b || decide (k.turnOf t.berth ≤ k.turnOf b)
/-- The context of a berth that may issue: its job is RUNNING, its core is in RUN, the berth is RESIDENT and RUNNABLE,
no YIELD passes it over and its pipeline's turn is at it (R155, R156, R216, R545). -/
def State.ready (s : State) (t : Thr) : Option Ctx :=
  let k := s.core t.core
  if (s.job (s.posOf t.core)).st = .running ∧ k.power = .run ∧ ¬ k.passed t.berth ∧ s.turn t then
    match s.ctxAt t with
    | some c => if c.status = .runnable then some c else none
    | none => none
  else none

/-- The berth issues: it is its pipeline's last issued berth, no ISSUE of the pipeline waits at the port, and the berth leaves every
pass-over set (R155, R158, R216). -/
def State.noteIssue (s : State) (t : Thr) : State :=
  s.updCore t.core fun k =>
    { k.leaveSets t.berth with
      lastIssued := lset k.lastIssued (t.berth % 4) t.berth, atPort := tset 0 (t.berth % 4) 0 k.atPort, idle := 0 }

/-- The context waits for an outstanding source: PENDING (R157). -/
def State.pend (s : State) (t : Thr) (c : Ctx) : State :=
  (s.setCtxAt t { c with status := .pending }).updCore t.core fun k => k.leaveSets t.berth

/-- Runs `body` for a berth that may issue; `rs` and `ps` are the instruction's sources, `inX` says whether a crossing
admits it (R303). A berth that may not issue changes nothing (log 5, DESIGN CHOICE, safe); a PC outside the code region faults (R154). -/
def State.issue (s : State) (t : Thr) (rs : List Reg) (ps : List Prd) (inX : Bool) (body : Ctx → State → State) : State :=
  match s.ready t with
  | none => s
  | some c =>
    if c.awaits rs ps then s.pend t c
    else if s.codeWords (s.posOf t.core) ≤ c.pc.toNat then s.threadFault c.tid c.pc E.argRange
    else if c.xing.isSome && !inX then s.threadFault c.tid c.pc E.argFormat
    else body c (s.noteIssue t)

/-- The instruction faults its thread at its own PC (R219). -/
def State.faultAt (s : State) (c : Ctx) (code : Code) : State := s.threadFault c.tid c.pc code

/-- The instruction retires with the context `c`: PC advances by 1, or the thread faults past the region (R154,
R189). -/
def State.retire (s : State) (t : Thr) (c : Ctx) : State :=
  if s.codeWords (s.posOf t.core) ≤ c.pc.toNat + 1 then (s.setCtxAt t c).threadFault c.tid c.pc E.argRange
  else s.setCtxAt t { c with pc := c.pc + 1 }

/-- A destination lies in another: a half in its register. -/
def Dest.lies (d : Dest) (e : Dest) : Bool :=
  d == e || match d, e with
    | .half r _, .reg q => r == q
    | _, _ => false

/-- Drops an outstanding result whose destination is written anew, so that the newest write stands (R156). -/
def Ctx.drop (c : Ctx) (d : Dest) : Ctx := { c with out := c.out.filter fun o => !o.dest.lies d }

/-- An instruction's write of a register (R188). -/
def Ctx.write (c : Ctx) (r : Reg) (v : W64) : Ctx := (c.drop (.reg r)).setReg r v

/-- An instruction's write of a predicate (R191). -/
def Ctx.writePrd (c : Ctx) (p : Prd) (b : Bool) : Ctx := (c.drop (.prd p)).setPrd p b

/-- A result that returns through the load return path (R218). -/
def Ctx.await (c : Ctx) (d : Dest) (src : ResSrc) : Ctx :=
  let c := c.drop d
  { c with out := c.out ++ [{ dest := d, src := src, pc := c.pc, inXing := c.xing.isSome }] }

/-- A context that issues nothing until its data returns (R157, R197). -/
def State.retirePending (s : State) (t : Thr) (c : Ctx) : State := s.retire t { c with status := .pending }

/-- The context blocks (R163): PC stays, BLOCKED_AT is now, the berth leaves the pass-over sets. -/
def State.block (s : State) (t : Thr) (c : Ctx) (st : Status) (w : WaitRec) : State :=
  (s.setCtxAt t { c with status := st, wait := { w with blockedAt := s.aoc } }).updCore t.core fun k => k.leaveSets t.berth

/-- The thread's stores and atomics have all been performed (R205, R206, R212). -/
def State.storesDone (s : State) (tid : Nat) : Bool := !s.ms.stores.any fun p => p.tid == tid

/-- A store or atomic of the thread to these bytes is not performed yet (R209). -/
def State.storesTo (s : State) (tid va n : Nat) : Bool := s.ms.stores.any fun p => p.tid == tid && meet p.va p.size va n

/-! ### Operand forms -/

/-- The second operand: register RB, or imm sign-extended from bit 37 (R188, R192). -/
def Ctx.src2 (c : Ctx) : Src2 → W64
  | .reg rb => c.reg rb
  | .imm v => v.signExtend 64

/-- The registers a second operand reads. -/
def src2Regs : Src2 → List Reg
  | .reg rb => [rb]
  | .imm _ => []

/-- The immediate form of a shift requires imm[37:6] zero (R192). -/
def src2ShiftOk : Src2 → Bool
  | .reg _ => true
  | .imm v => v.toNat < 64

/-- Word index ra + imm of class 0x4, none when negative or outside the scratchpad region (R195). -/
def Ctx.wordIndex (c : Ctx) (ra : Reg) (imm : Imm) : Option Nat :=
  let i := (c.reg ra + imm.signExtend 64).toInt
  if 0 ≤ i ∧ i < 2 ^ 26 then some i.toNat else none

/-- The byte address of a word index (R195). -/
def wordAddr (i : Nat) : Nat := spBase + 4 * i

/-- The word index lies in the words of the job's own cores (R195). -/
def State.wordOk (s : State) (pos i : Nat) : Bool := s.posOf (i / 2 ^ 20) == pos

/-- Byte address ra + imm of class 0x5 (R196). -/
def Ctx.byteAddr (c : Ctx) (ra : Reg) (imm : Imm) : Nat := (c.reg ra + imm.signExtend 64).toNat

/-- The address of an atomic: ra + OFFSET (R208). -/
def Ctx.atomAddr (c : Ctx) (ra : Reg) (f : AtomF) : Nat := (c.reg ra + f.off.signExtend 64).toNat

/-- A counter named by (ra + IMM[15:0]) mod 2^16 (R206). -/
def Ctx.ctrId (c : Ctx) (ra : Reg) (imm : W16) : Nat := ((c.reg ra).setWidth 16 + imm).toNat

/-- The branch target PC + imm, none outside the code region (R189). -/
def branchTarget (pc : W32) (imm : Imm) (words : Nat) : Option W32 :=
  let i := (pc.toNat : Int) + imm.toInt
  if 0 ≤ i ∧ i < (words : Int) then some (BitVec.ofNat 32 i.toNat) else none

/-! ### Thread crossings (R290, R304) -/

/-- Another crossing keeps a thread crossing from adding these entries: an exclusive one that holds an entry (R299), or one that has passed
validation first and conflicts (R298). -/
def State.xBarred (s : State) (k : Nat) (reads writes : List XEnt) : Bool :=
  s.xings.any fun e => e.1 != k && ((e.2.exclusive && e.2.hits (reads ++ writes)) ||
    (e.2.st == .committing && (e.2.hits writes || reads.any fun r => e.2.wset.contains r)))

/-- Adds read-set and write-set granules and a store to an open thread crossing. A limit of R290 or an entry that another crossing keeps
from it aborts it; answers false then. -/
def State.xAdd (s : State) (k : Nat) (reads writes : List XEnt) (st : Option (Nat × List Byte)) : Bool × State :=
  match s.xings.find? fun e => e.1 == k with
  | none => (false, s)
  | some (_, x) =>
    let add (l : List XEnt) (es : List XEnt) := es.foldl (fun l e => if l.contains e then l else l ++ [e]) l
    let r := add x.reads reads
    let w := add x.wset writes
    if 256 < w.length ∨ 1024 < r.length then (false, s.abortXing k E.xingTooBig)
    else if s.xBarred k reads writes then (false, s.abortXing k E.xingConflict)
    else
      let x := { x with reads := r, wset := w, writes := match st with
        | some q => x.writes ++ [q]
        | none => x.writes }
      (true, { s with xings := updWhere (fun e => e.1 == k) (fun _ => (k, x)) s.xings })

/-! ### Loads and stores -/

/-- The group account of a thread (R398). -/
def Ctx.account (c : Ctx) (pos : Nat) : Nat := 256 * pos + c.group.toNat

/-- A flash page that is not resident: the fault-in starts, and the context blocks in BLOCKED_PAGE or, in a crossing,
takes its abort path (R197, R304, R333). -/
def State.pageMiss (s : State) (t : Thr) (c : Ctx) (page : Nat) : State :=
  let pos := s.posOf t.core
  let s := s.faultIn pos page (shoreOf t.core) (c.account pos)
  match c.xing with
  | some x => s.abortXing x.entry E.xingPage
  | none => s.block t c .blockedPage { WaitRec.idle with object := page * 0x10000 }

/-- A thread's access translates its address (R325); an entry that no replica delivers faults it (R237, R319). -/
def State.walked (s : State) (core va : Nat) (c : Ctx) (go : State → State) : State :=
  let w := s.tlbWalk core va
  if w.1 then go w.2 else w.2.faultAt c E.uncorrectable

/-- The results that a load of `size` bytes leaves outstanding: one access, or the two word accesses of 8 bytes of scratchpad (R198). -/
def Ctx.awaitLoad (c : Ctx) (rd : Reg) (va size : Nat) (signed : Bool) : Ctx :=
  if isScratch va && size == 8 then
    ((c.drop (.reg rd)).await (.half rd false) (.load va 4 false)).await (.half rd true) (.load (va + 4) 4 false)
  else c.await (.reg rd) (.load va size signed)

/-- A load of `size` bytes at job address `va` issues: the context is PENDING until LOAD_RETURN (R197). -/
def State.load (s : State) (t : Thr) (c : Ctx) (rd : Reg) (va size : Nat) (signed : Bool) : State :=
  s.walked t.core va c fun s => match s.xlate (s.posOf t.core) va false with
  | .bad => s.faultAt c E.argRange
  | .absent k _ => s.pageMiss t c k
  | .phys pa _ =>
    let c' := c.awaitLoad rd va size signed
    match c.xing with
    | none => s.retirePending t c'
    | some x =>
      match s.xAdd x.entry ((granules pa size).map .granule) [] none with
      | (false, s) => s
      | (true, s) => s.retirePending t c'

/-- The word accesses of a store: two for 8 bytes of scratchpad, one otherwise (R198). -/
def storeParts (va size : Nat) (v : W64) : List (Nat × Nat × W64) :=
  if isScratch va && size == 8 then [(va, 4, v &&& 0xFFFFFFFF), (va + 4, 4, v >>> 32)] else [(va, size, v)]

/-- A store retires: its accesses join the stores that wait to be performed (R197). -/
def State.pushStore (s : State) (c : Ctx) (core : Nat) (kind : StoreKind) (parts : List (Nat × Nat × W64)) : State :=
  parts.foldl (fun s p => s.updMs fun m =>
    { m with serial := m.serial + 1
             stores := m.stores ++ [{ serial := m.serial, core := core, tid := c.tid, pos := s.posOf core, pc := c.pc
                                      va := p.1, size := p.2.1, data := p.2.2, kind := kind, held := false }] }) s

/-- A store of the low `size` bytes of `v` at job address `va` (R196, R197, R304). -/
def State.storeAt (s : State) (t : Thr) (c : Ctx) (va size : Nat) (v : W64) : State :=
  s.walked t.core va c fun s => match s.xlate (s.posOf t.core) va true with
  | .bad => s.faultAt c E.argRange
  | .absent k _ => s.pageMiss t c k
  | .phys pa _ =>
    match c.xing with
    | none => (s.pushStore c t.core .store (storeParts va size v)).retire t c
    | some x =>
      match s.xAdd x.entry [] ((granules pa size).map .granule) (some (va, leBytes size v.toNat)) with
      | (false, s) => s
      | (true, s) => s.retire t c

/-- A class 0x4 load of `words` words; an odd index of a two-word form is misaligned (R195). -/
def State.wordLoad (s : State) (t : Thr) (c : Ctx) (rd ra : Reg) (imm : Imm) (words : Nat) (signed : Bool) : State :=
  match c.wordIndex ra imm with
  | none => s.faultAt c E.argRange
  | some i =>
    if words = 2 ∧ i % 2 = 1 then s.faultAt c E.argAlign
    else if !s.wordOk (s.posOf t.core) i then s.faultAt c E.argRange
    else s.load t c rd (wordAddr i) (4 * words) signed

/-- A class 0x4 store of `words` words (R195). -/
def State.wordStore (s : State) (t : Thr) (c : Ctx) (ra rb : Reg) (imm : Imm) (words : Nat) : State :=
  match c.wordIndex ra imm with
  | none => s.faultAt c E.argRange
  | some i =>
    if words = 2 ∧ i % 2 = 1 then s.faultAt c E.argAlign
    else if !s.wordOk (s.posOf t.core) i then s.faultAt c E.argRange
    else s.storeAt t c (wordAddr i) (4 * words) (c.reg rb)

/-- A class 0x5 load: natural alignment, then range (R34, R196; log 107, DEDUCED, unsafe). -/
def State.byteLoad (s : State) (t : Thr) (c : Ctx) (rd ra : Reg) (imm : Imm) (size : Nat) (signed : Bool) : State :=
  let va := c.byteAddr ra imm
  if va % size ≠ 0 then s.faultAt c E.argAlign else s.load t c rd va size signed

/-- A class 0x5 store: natural alignment, then range (R34, R196; log 107, DEDUCED, unsafe). -/
def State.byteStore (s : State) (t : Thr) (c : Ctx) (ra rb : Reg) (imm : Imm) (size : Nat) : State :=
  let va := c.byteAddr ra imm
  if va % size ≠ 0 then s.faultAt c E.argAlign else s.storeAt t c va size (c.reg rb)

/-- Extends a loaded number of `size` bytes to 64 bits (R195, R196). -/
def extend (size : Nat) (signed : Bool) (n : Nat) : W64 :=
  if signed && decide (2 ^ (8 * size - 1) ≤ n) then BitVec.ofNat 64 (n + 2 ^ 64 - 2 ^ (8 * size)) else BitVec.ofNat 64 n

end Sys2Proof.Machine
end

