-- ==== Sys2Proof/Machine/RandomUnit.lean ====
section
/-! DEFINITION. The random-stream unit (R278 to R280). -/

namespace Sys2Proof.Machine

def Desc.rStream (d : Desc) : Nat := fld d.raw 16 2
def Desc.rThreshold (d : Desc) : Nat := fld d.raw 18 2
def Desc.rCount (d : Desc) : Nat := fld d.raw 20 4
def Desc.rValue (d : Desc) : Nat := fld d.raw 24 8
def Desc.rOut (d : Desc) : Nat := fld d.raw 32 8
def Desc.rOwn (d : Desc) : Bool := fld d.raw 40 1 % 2 == 1

/-- Blocks that the operation reserves, none for the counter operations (R278). -/
def Desc.rDraw (d : Desc) : Option Nat :=
  match d.opcode with
  | 0x0501 => some (drawBlocks (4 * d.rCount))
  | 0x0502 => some (drawBlocks d.rCount)
  | _ => none

/-- The output (R278): words, whole words of a bitmap, or the 8 bytes of a counter. -/
def Desc.rExts (d : Desc) : List Ext :=
  match d.opcode with
  | 0x0501 => [{ addr := d.rOut, n := 4 * d.rCount, align := 4, wr := true }]
  | 0x0502 => [{ addr := d.rOut, n := 4 * ceilDiv d.rCount 32, align := 4, wr := true }]
  | 0x0504 => [{ addr := d.rOut, n := 8, align := 8, wr := true }]
  | _ => []

/-- Acceptance checks (R250, R278); `d.stream` already holds the stream that OWN selects. -/
def State.rndCheck (s : State) (d : Desc) (auxOk : Bool) : Code :=
  let counts := d.opcode == 0x0501 || d.opcode == 0x0502
  firstBad ([(decide (1 < fld d.raw 40 1) || decide (fld d.raw 41 15 ≠ 0) || decide (fld d.aux 8 56 ≠ 0) ||
      (d.rOwn && d.rStream != 0), E.argFormat),
    (counts && (d.rCount == 0 || decide (2 ^ 24 < d.rCount)), E.argRange)] ++
    match s.commonChecks d auxOk (s.inScratch d.pos) d.rExts d.rDraw with
    | a :: b :: r => a :: (b.1 || decide ((s.job d.pos).streams.length ≤ d.stream), E.argRange) :: r
    | l => l)

def Desc.rOuts (d : Desc) : List (Nat × Nat) := (d.rExts ++ d.statusExt).map fun e => (e.addr, e.n)

/-- What block k of an operation writes: 32 bytes of RND_FILL, a word of RND_MASK, the captured counter (R278, R279). -/
def rndRow (d : Desc) (k : Nat) (s : State) : RowOut :=
  match d.opcode with
  | 0x0501 =>
    { writes := [(d.rOut + 32 * k, (List.range (Nat.min 32 (4 * d.rCount - 32 * k))).map fun i => BitVec.ofNat 8 (s.drawBits d (32 * k + i)))] }
  | 0x0502 =>
    { writes := [(d.rOut + 4 * k, (List.range 4).map fun b => (List.range 8).foldl (fun (v : Byte) i =>
        let e := 32 * k + 8 * b + i
        if e < d.rCount ∧ d.rThreshold ≤ s.drawBits d e then v ||| (1#8 <<< i) else v) 0)] }
  | 0x0504 => { writes := [(d.rOut, leBytes 8 d.cap.toNat)] }
  | _ => {}

/-- An operation of the unit by ChaCha20 blocks (R254); a counter operation has one piece of work. -/
def rndOp : RowOp :=
  { rows := fun d _ => d.rDraw.getD 1, unit := fun _ => 1, reads := fun _ _ _ => [], body := rndRow, ending := fun _ _ p => p.ending }

/-- Runs one operation of the unit. -/
def State.rnd (s : State) (r : EngRun) (op : Nat) : State := s.runOp 5 op r Desc.rOuts rndOp

/-- RND_FILL: byte k of word w is the low byte of element 4w + k (R278). -/
def execRndFill (r : EngRun) (s : State) : Outc := .next (s.rnd r 0x0501)

/-- RND_MASK: bit i is 1 when element i's 16 bits are at least P; bits beyond COUNT are 0 (R278). -/
def execRndMask (r : EngRun) (s : State) : Outc := .next (s.rnd r 0x0502)

/-- RND_CTR_SET completes: the counter was set at acceptance (R279). -/
def execRndCtrSet (r : EngRun) (s : State) : Outc := .next (s.rnd r 0x0503)

/-- RND_CTR_READ writes the value captured at acceptance (R279). -/
def execRndCtrRead (r : EngRun) (s : State) : Outc := .next (s.rnd r 0x0504)

end Sys2Proof.Machine
end

