-- ==== Sys2Proof/Machine/SpanMath.lean ====
section
/-! DEFINITION. The product-forming rule of the Span: section sums, compensated chains, output rounding (R103 to R112). -/

namespace Sys2Proof.Machine

/-- A section result: FP32 value, class code, saturation (R105). -/
structure Section where
  x : Val
  cls : Nat
  sat : Bool
deriving DecidableEq, Repr

/-- floor(p / 2^q) of a finite value, toward minus infinity. -/
def floorAt (v : Val) (q : Int) : Int :=
  match v with
  | .fin neg m e =>
    let z : Int := if neg then -(m : Int) else m
    if q ≤ e then z * (pow2 (e - q) : Nat) else z / (pow2 (q - e) : Nat)
  | _ => 0

/-- FP32 max finite with a sign. -/
def f32Max (neg : Bool) : Val := fp32.decode (fp32.signBit neg + fp32.maxCode)
def plusZero : Val := .fin false 0 0

/-- Class bits of a product (R105). -/
def classBits : Val → Nat
  | .nan => 4
  | .inf neg => if neg then 2 else 1
  | _ => 0

/-- The section sum of 16 exact products (R105). -/
def sectionSum (ps : List Val) : Section :=
  let cls := ps.foldl (fun c p => c ||| classBits p) 0
  if cls ≠ 0 then { x := plusZero, cls := cls, sat := false }
  else
    let exps : List Int := ps.filterMap fun p => match p with
      | .fin _ m e => if m = 0 then none else some ((m.log2 : Int) + e)
      | _ => none
    match exps with
    | [] => { x := plusZero, cls := 0, sat := false }
    | e0 :: r =>
      let q := r.foldl max e0 - 52
      let w := ps.foldl (fun (w : Int) p => w + floorAt p q) 0
      let neg := decide (w < 0)
      match fp32.decode (fp32.encode true .rne 0 (.fin neg w.natAbs q)).code with
      | .inf _ => { x := f32Max neg, cls := 0, sat := true }
      | .fin n m e => { x := if m = 0 then plusZero else .fin n m e, cls := 0, sat := false }
      | .nan => { x := plusZero, cls := 4, sat := false }

/-- The pair states (R108). -/
def PairRec.sumV (p : PairRec) : Val := fp32.decode p.sum.toNat
def PairRec.errV (p : PairRec) : Val := fp32.decode p.err.toNat
def PairRec.cls (p : PairRec) : Nat := classBits p.sumV
def PairRec.saturated (p : PairRec) : Bool := p.cls == 0 && classBits p.errV != 0

def recOf (sum err : Nat) : PairRec := { sum := BitVec.ofNat 32 sum, err := BitVec.ofNat 32 err }

/-- special_record of R109. -/
def specialRec (c : Nat) : PairRec :=
  if c = 1 then recOf (fp32.inf false) 0 else if c = 2 then recOf (fp32.inf true) 0 else recOf fp32.nan 0

/-- saturated_record of R109. -/
def saturatedRec (neg : Bool) : PairRec := recOf (fp32.signBit neg + fp32.maxCode) (fp32.inf neg)

/-- combine of R109. -/
def PairRec.combine (p : PairRec) (x : Section) : PairRec :=
  if p.cls ≠ 0 ∨ x.cls ≠ 0 then specialRec (p.cls ||| x.cls)
  else if p.saturated then p
  else if x.sat then saturatedRec x.x.isNeg
  else
    let a := p.sumV
    let s := r32 (a.add x.x)
    match s with
    | .inf neg => saturatedRec neg
    | _ =>
      let bb := r32 (s.sub a)
      let t := r32 ((r32 (a.sub (r32 (s.sub bb)))).add (r32 (x.x.sub bb)))
      let code (v : Val) : Nat := (fp32.encode true .rne 0 v).code
      recOf (code s) (code (p.errV.add t))

/-- output of R111: the element's encoding and flags. -/
def PairRec.output (p : PairRec) (f : Fmt) (mode : Rnd) (r : Nat) : Rounded :=
  let c := p.cls
  if c = 4 then f.encode false mode r .nan
  else if c ≠ 0 then f.encode false mode r (.inf (c == 2))
  else
    let o := if p.saturated then f.encode false mode r (f32Max p.sumV.isNeg) else f.encode false mode r (p.sumV.add p.errV)
    { o with sat := o.sat || p.saturated, code := if o.code = f.signBit true then 0 else o.code }

end Sys2Proof.Machine
end

