-- ==== Sys2Proof/Machine/SpanPlan.lean ====
section
/-! DEFINITION. The SPAN_MM descriptor, the division of an operation over cores and its acceptance checks (R75 to R101,
R131 to R133, R143 to R147). -/

namespace Sys2Proof.Machine

/-- The operand pairs of R47. -/
def pairOk (a b : Nat) : Bool :=
  let fp8 (c : Nat) : Bool := c == 3 || c == 4
  (fp8 a && fp8 b) || (a == 5 && b == 5) || (a == 5 && fp8 b) || (fp8 a && b == 5) || (a == 1 && b == 1) || (a == 2 && b == 2)

/-- The operation's ranges (R89): A, S, their scales, C, the mask, the record and the status word. -/
def Desc.spanExts (d : Desc) : List Ext :=
  let aLast := (d.m - 1) * d.aLd + d.k - 1
  let sLast := (d.sRows - 1) * d.sLd + d.sCols - 1
  let b := d.oF.bytes
  [{ arrayExt d.aFmt d.aAddr aLast with rd := true }, { arrayExt d.sFmt d.sAddr sLast with rd := true }] ++
  (if d.aFmt = 5 then [{ addr := d.aScale, n := aLast / 32 + 1, align := 1, rd := true }] else []) ++
  (if d.sFmt = 5 then [{ addr := d.sScale, n := sLast / 32 + 1, align := 1, rd := true }] else []) ++
  (if d.cMask = 0 then [] else
    [{ addr := d.cMask, n := ceilDiv (if d.maskRows then d.m else d.n) 8, align := 1, rd := true }]) ++
  [{ addr := d.cAddr, n := ((d.m - 1) * d.cLd + d.n) * b, align := b, wr := true }]

def Desc.spanRecord (d : Desc) : List Ext :=
  (if fld d.raw 56 8 = 0 then [] else [{ addr := fld d.raw 56 8, n := 64, align := 64 }]) ++
  (if d.spanStatus = 0 then [] else [{ addr := d.spanStatus, n := 8, align := 8 }])

/-- The checks of R89 in order. -/
def State.spanChecks (s : State) (d : Desc) (auxOk : Bool) : List (Bool × Code) :=
  let dim (x : Nat) : Bool := decide (x < 1) || decide (2 ^ 24 < x)
  let all := d.spanExts ++ d.spanRecord
  let c := d.spanExts.filter fun e => e.wr
  let rest := (d.spanExts.filter fun e => !e.wr) ++ d.spanRecord
  [ (decide (3 < fld d.raw 17 1 / 16) || bits d.mode 7 1 == 1 || decide (15 < d.slot) || fld d.aux 48 16 != 0, E.argFormat)
  , (!pairOk d.aFmt d.sFmt || decide (4 < d.oFmt) || decide (d.oRnd ≠ 0 ∧ d.oRnd ≠ 2), E.argFormat)
  , (d.trans && decide (1 < d.geom), E.argFormat)
  , (((d.aFmt == 5) != (d.aScale != 0)) || ((d.sFmt == 5) != (d.sScale != 0)), E.argFormat)
  , (dim d.m || dim d.n || dim d.k || decide (15 < d.slot), E.argRange)
  , (decide (d.aLd < d.k) || decide (d.sLd < d.sCols) || decide (d.cLd < d.n), E.argRange)
  , ((d.aFmt == 5 && (d.k % 32 != 0 || d.aLd % 32 != 0)) || (d.sFmt == 5 && (d.sCols % 32 != 0 || d.sLd % 32 != 0)), E.argRange)
  , (!auxOk || all.any fun e => !s.inScratch d.pos e.addr e.n, E.argRange)
  , (c.any fun x => rest.any fun e => meet x.addr x.n e.addr e.n, E.argRange)
  , (d.oRnd == 2 && !s.drawFits d.pos d.stream (drawBlocks (d.m * d.n)), E.argRange)
  , (all.any fun e => e.addr % e.align != 0, E.argAlign) ]

/-! ### Geometry and chains (R75, R79, R96 to R101) -/

/-- Width and depth of a geometry (R75). -/
def geomW (g : Nat) : Nat := if g = 1 then 64 else if g = 2 then 128 else 256
def geomR (g : Nat) : Nat := if g = 1 then 64 else if g = 2 then 32 else 16

/-- Two weights per cell: a pair with an FP4 operand (R72). -/
def Desc.two (d : Desc) : Bool := d.aFmt == 5 || d.sFmt == 5
/-- K per pass (R75). -/
def Desc.kPer (d : Desc) (g : Nat) : Nat := geomR g * (if d.two then 2 else 1)
/-- The shadow load of R79. -/
def Desc.load (d : Desc) : Nat :=
  if d.sFmt = 5 then 272 else if d.sFmt = 1 ∨ d.sFmt = 2 then 512 else if d.aFmt = 5 then 512 else 256
/-- Passes P (R96). -/
def Desc.passes (d : Desc) (g : Nat) : Nat := ceilDiv d.k (d.kPer g)
/-- Column groups G (R96). -/
def Desc.colGroups (d : Desc) (g : Nat) : Nat := ceilDiv (ceilDiv d.n (geomW g)) 4

/-- Rows of a row group (R96). -/
def Desc.rowsPer (d : Desc) (g s f : Nat) : Nat := if s < d.passes g then f * 4096 / geomW g else 512

/-- The estimate of R101 with rows per row group `rpg`. -/
def Desc.estimateWith (d : Desc) (c g s rpg : Nat) : Nat :=
  let sf := if d.aFmt = 1 ∨ d.aFmt = 2 then 2 else 1
  let waves := ceilDiv (d.colGroups g * ceilDiv d.m rpg) (c / s)
  let rounds := ceilDiv (d.passes g) s
  let ms := Nat.min d.m rpg * sf
  d.load + waves * rounds * (Nat.max d.load (ms + (s - 1) * (geomR g + 16)) + geomR g)

def Desc.estimate (d : Desc) (c f g s : Nat) : Nat := d.estimateWith c g s (d.rowsPer g s f)

/-- Geometries that an operation allows: the one GEOM names, or each; Deep alone with TRANS (R81, R101). -/
def Desc.geoms (d : Desc) : List Nat := if d.trans then [1] else if d.geom = 0 then [1, 2, 3] else [d.geom]

/-- Geometry and chain length of R101: least estimate, then Deep, Mid, Ford, then the smaller s. -/
def Desc.choosePlan (d : Desc) (c f : Nat) : Nat × Nat :=
  let cand := d.geoms.flatMap fun g => (List.range (Nat.min (d.passes g) c)).map fun i => (g, i + 1)
  (minBy (fun x => d.estimate c f x.1 x.2) cand).getD (1, 1)

/-- Towline order (R97). -/
def towline : List Nat :=
  [0, 8, 16, 24, 25, 17, 9, 1, 2, 10, 18, 26, 27, 19, 11, 3] ++ [4, 12, 20, 28, 29, 21, 13, 5, 6, 14, 22, 30, 31, 23, 15, 7] ++
  [32, 40, 48, 56, 57, 49, 41, 33, 34, 42, 50, 58, 59, 51, 43, 35] ++ [36, 44, 52, 60, 61, 53, 45, 37, 38, 46, 54, 62, 63, 55, 47, 39]

/-- The active cores of a Span in towline order (R70, R97). -/
def State.spanCores (s : State) (pos : Nat) : List Nat := towline.filter fun c => s.posOf c == pos

/-! ### Tie groups (R116, R143 to R147) -/

/-- The open group that a new SPAN_MM with this TIE_ID is a use of (R143). -/
def Span.openTie (x : Span) (id : Nat) : Option Tie := x.ties.find? fun t => t.tieId == id && !t.closing

/-- Slots that open groups hold on an array, and the most on any array (R116). F is one number for the Span, that of the array
where most slots are held (log 100, DEDUCED, safe). -/
def Span.heldAt (x : Span) (array : Nat) : Nat := x.ties.foldl (fun n t => n + tget 0 array t.held) 0
def Span.heldMax (x : Span) : Nat := (List.range 256).foldl (fun n a => Nat.max n (x.heldAt a)) 0

/-- F of an operation partitioned now (R96); half of an odd F is rounded down (log 100, DEDUCED, safe). -/
def Span.openSlots (x : Span) (paired : Bool) : Nat := (8 - x.heldMax) / (if paired then 2 else 1)

/-- Items of an opening use fit in one wave (R147). -/
def Desc.tieFits (d : Desc) (c ft g : Nat) : Bool :=
  let rpg := ft * 4096 / geomW g
  decide (0 < rpg) && decide (d.colGroups g * ceilDiv d.m rpg ≤ c)

/-- F_t of a group opened now (R147). -/
def Span.tieSlots (x : Span) : Nat := 4 - x.heldMax

/-- Rows of a row group of a tie group opened now in a geometry (R147). -/
def Span.tieRows (x : Span) (g : Nat) : Nat := x.tieSlots * 4096 / geomW g

/-- Geometry of a group that an opening use fixes, none when nothing fits (R147). -/
def State.tieGeom (s : State) (d : Desc) : Option Nat :=
  let c := (s.spanCores d.pos).length
  let x := s.span d.pos
  minBy (fun g => d.estimateWith c g 1 (x.tieRows g)) (d.geoms.filter fun g => decide (0 < x.tieSlots) && d.tieFits c x.tieSlots g)

/-- Items of an operation with row groups of `rpg` rows, and the rows of one of them (R96). -/
def Desc.items (d : Desc) (g rpg : Nat) : Nat := d.colGroups g * ceilDiv d.m rpg
def Desc.itemRows (d : Desc) (g rpg item : Nat) : Nat := Nat.min rpg (d.m - item / d.colGroups g * rpg)

/-- The N tile that array `a` of an item takes, when the column group has one (R96). -/
def Desc.tileOf (d : Desc) (g item a : Nat) : Option Nat :=
  let t := 4 * (item % d.colGroups g) + a
  if t < ceilDiv d.n (geomW g) then some t else none

/-- The slots that the items of an opening use hold, by array (R113, R116, R147): item k stands on chain k. -/
def State.tieHeld (s : State) (d : Desc) (g : Nat) : Tbl Nat :=
  let rpg := (s.span d.pos).tieRows g
  let cores := s.spanCores d.pos
  (List.range (d.items g rpg)).foldl (fun t k =>
    (List.range 4).foldl (fun t a =>
      if (d.tileOf g k a).isSome then tset 0 (4 * cores.getD k 0 + a) (ceilDiv (d.itemRows g rpg k) (4096 / geomW g)) t else t) t) []

/-- The checks on a later use (R146). -/
def Tie.useChecks (t : Tie) (d : Desc) : List (Bool × Code) :=
  let f := { d with raw := t.raw, aux := t.aux }
  [ (d.m != f.m || d.n != f.n || d.cAddr != f.cAddr || d.cLd != f.cLd, E.argFormat)
  , (d.oFmt != f.oFmt || d.oRnd != f.oRnd || d.cMask != f.cMask || d.maskRows != f.maskRows, E.argFormat)
  , (d.geom != 0 && d.geom != t.geom, E.argFormat)
  , (d.trans && t.geom != 1, E.argFormat) ]

/-- The operation is a use of a tie group, or opens one without closing it at once (R143). -/
def State.tieUse (s : State) (d : Desc) : Bool :=
  d.tieId != 0 && (((s.span d.pos).openTie d.tieId).isSome || !d.tieLast)

/-- The group of an accepted use. -/
def State.tieOf (s : State) (d : Desc) : Option Tie := (s.span d.pos).ties.find? fun t => t.uid == d.tie && d.tie != 0

/-- The geometry that stands for GEOM of an accepted operation: its group's, which R147 fixed, else the descriptor's (R132, R133). -/
def State.effGeom (s : State) (d : Desc) : Nat :=
  match s.tieOf d with
  | some t => t.geom
  | none => d.geom

/-- The same for a descriptor that is not yet accepted: a use takes its group's geometry, an opening use the one it would fix
(R132). -/
def State.draftGeom (s : State) (d : Desc) : Nat :=
  if s.tieUse d then
    match (s.span d.pos).openTie d.tieId with
    | some t => t.geom
    | none => (s.tieGeom d).getD d.geom
  else d.geom

/-- The P of a slot that awaits its partner (R131, R132). -/
def State.pairWaiting (s : State) (pos slot : Nat) : Option Desc :=
  (s.engine 1 pos).queue.find? fun d => d.slot == slot && d.pair && d.mate.isNone

/-- The checks on a partner (R132). -/
def State.pairChecks (s : State) (d : Desc) : List (Bool × Code) :=
  match s.pairWaiting d.pos d.slot with
  | none => []
  | some p =>
    let gp := s.effGeom p
    let gq := s.draftGeom d
    let same := s.tieUse d && p.tie != 0 &&
      (match (s.span d.pos).openTie d.tieId with
       | some t => t.uid == p.tie
       | none => false)
    [ (d.pair, E.argFormat)
    , (if p.trans || d.trans then decide (1 < gp) || decide (1 < gq) else gp != gq && gp != 0 && gq != 0, E.argFormat)
    , (same, E.argFormat) ]

/-- An accepted operation becomes the partner of the P that awaits one (R131). Answers the descriptor with its partner. -/
def State.joinPair (s : State) (d : Desc) : Desc × State :=
  match s.pairWaiting d.pos d.slot with
  | none => (d, s)
  | some p => ({ d with mate := some p.serial }, s.saveDesc 1 d.pos p.serial fun p => { p with mate := some d.serial })

/-- All acceptance checks of SPAN_MM after the header (R89, R132, R143, R146, R147). -/
def State.spanCheck (s : State) (d : Desc) (auxOk : Bool) : Code :=
  let tie : List (Bool × Code) :=
    if !s.tieUse d then []
    else match (s.span d.pos).openTie d.tieId with
      | some t => t.useChecks d
      | none => [(decide (32 ≤ (s.span d.pos).ties.length), E.noSpace), ((s.tieGeom d).isNone, E.noSpace)]
  firstBad (s.spanChecks d auxOk ++ (if firstBad (s.spanChecks d auxOk) = E.ok then s.pairChecks d ++ tie else []))

/-- An accepted use opens its group or joins it; TIE_LAST closes it to later uses (R143, R147). Answers the descriptor with
its group. -/
def State.joinTie (s : State) (d : Desc) : Desc × State :=
  if !s.tieUse d then (d, s)
  else match (s.span d.pos).openTie d.tieId with
    | some t =>
      ({ d with tie := t.uid }, s.updSpan d.pos fun x =>
        { x with ties := updWhere (fun u => u.uid == t.uid) (fun u => { u with closing := d.tieLast }) x.ties })
    | none =>
      let g := (s.tieGeom d).getD 1
      let t : Tie := { tieId := d.tieId, uid := d.serial + 1, raw := d.raw, aux := d.aux, geom := g
                       rpg := (s.span d.pos).tieRows g, held := s.tieHeld d g, closing := false, broken := false, stale := false }
      ({ d with tie := d.serial + 1 }, s.updSpan d.pos fun x => { x with ties := x.ties ++ [t] })

/-! ### Plans -/

/-- A plan before its first row. -/
def planStart (serial geom s rpg : Nat) : RunPlan :=
  { serial := serial, geom := geom, s := s, rpg := rpg, tiles := [], sat := false, special := false, stale := false }

/-- The plan of a single operation (R101); a tie use repeats its group's layout (R147). -/
def State.planOf (s : State) (d : Desc) : RunPlan :=
  match s.tieOf d with
  | some t => planStart d.serial t.geom 1 t.rpg
  | none =>
    let f := (s.span d.pos).openSlots false
    let (g, k) := d.choosePlan (s.spanCores d.pos).length f
    planStart d.serial g k (d.rowsPer g k f)

/-- The plans of P and Q of a PAIR: one geometry, one chain length (R133). -/
def State.planPair (s : State) (p q : Desc) : List RunPlan :=
  let c := (s.spanCores p.pos).length
  let f := (s.span p.pos).openSlots true
  let gp := s.effGeom p
  let gq := s.effGeom q
  let geoms : List Nat :=
    if p.tie != 0 then [gp] else if q.tie != 0 then [gq] else if p.trans || q.trans then [1]
    else if gp != 0 then [gp] else if gq != 0 then [gq] else [1, 2, 3]
  let smax (g : Nat) : Nat := if p.tie != 0 || q.tie != 0 then 1 else Nat.min (Nat.max (p.passes g) (q.passes g)) c
  let cand := geoms.flatMap fun g => (List.range (smax g)).map fun i => (g, i + 1)
  let b := (minBy (fun y => p.estimate c f y.1 y.2 + q.estimate c f y.1 y.2) cand).getD (1, 1)
  let one (d : Desc) : RunPlan :=
    match s.tieOf d with
    | some t => planStart d.serial b.1 b.2 t.rpg
    | none => planStart d.serial b.1 b.2 (d.rowsPer b.1 b.2 f)
  [one p, one q]

end Sys2Proof.Machine
end

