-- ==== Sys2Proof/Machine/Span.lean ====
section
/-! DEFINITION. Choosing, running and completing Span operations, row by row: tiles, accumulator buffers, the towline, PAIRs, tie
groups and REUSE (R71 to R74, R87 to R100, R103, R113 to R119, R125 to R135, R143 to R149). -/

namespace Sys2Proof.Machine

/-! ### Choice (R127, R131, R145) -/

/-- The partner of a PAIR operation (R131). -/
def Engine.partnerOf (e : Engine) (p : Desc) : Option Desc :=
  match p.mate with
  | none => none
  | some k => e.queue.find? fun d => d.serial == k

/-- The operation is a partner that an earlier PAIR operation takes (R131). -/
def Desc.isPartner (d : Desc) : Bool :=
  match d.mate with
  | none => false
  | some k => decide (k < d.serial)

/-- No earlier use of the operation's tie group, but for `but`, is unfinished (R145). -/
def Engine.tieFree (e : Engine) (d : Desc) (but : Option Nat) : Bool :=
  d.tie == 0 || !e.queue.any fun q => q.tie == d.tie && decide (q.serial < d.serial) && some q.serial != but

/-- Eligible by R127: ready, and held back by no pairing or tie-group rule. -/
def State.spanEligible (s : State) (pos : Nat) (d : Desc) : Bool :=
  let e := s.engine 1 pos
  !d.isPartner && s.descReady d && e.tieFree d none &&
  (!d.pair || match e.partnerOf d with
    | none => false
    | some q => s.descReady q && e.tieFree q (some d.serial))

/-- The operation runs, or has been chosen to run next. -/
def Span.planned (x : Span) (serial : Nat) : Bool := (x.plans ++ x.nextPlans).any fun p => p.serial == serial

/-- The choice of R127: slots in turn from the one after last_slot, the earliest accepted within a slot. The Span of a job that has
ended chooses nothing (R149). -/
def State.chooseSpan (s : State) (pos : Nat) : Option Desc :=
  if (s.job pos).st ≠ .running then none
  else (List.range 16).findSome? fun i =>
    minBy Desc.serial ((s.engine 1 pos).queue.filter fun d =>
      d.slot == ((s.span pos).lastSlot + 1 + i) % 16 && !(s.span pos).planned d.serial && s.spanEligible pos d)

/-- The plans of a chosen operation, or of a PAIR as one (R131). -/
def State.plansOf (s : State) (d : Desc) : List RunPlan :=
  if d.pair then
    match (s.engine 1 d.pos).partnerOf d with
    | some q => s.planPair d q
    | none => [s.planOf d]
  else [s.planOf d]

/-- The choice is made: last_slot moves, and the operation is divided and waits to run next (R96, R127, R128). -/
def State.chooseNext (s : State) (pos : Nat) : State :=
  match s.chooseSpan pos with
  | none => s.updSpan pos fun x => { x with chosen := true }
  | some d =>
    let plans := s.plansOf d
    s.updSpan pos fun x => { x with lastSlot := d.slot, nextPlans := plans, chosen := true }

/-! ### Turns of a chain (R97, R99, R134) -/

/-- One round of one item. -/
structure Turn where
  serial : Nat
  item : Nat
  round : Nat
deriving DecidableEq, Repr

/-- Two sequences by turns, the first one first; what is left of the longer follows (R134). -/
def byTurns {α : Type} : List α → List α → List α
  | [], ys => ys
  | x :: xs, [] => x :: xs
  | x :: xs, y :: ys => x :: y :: byTurns xs ys

/-- A queued operation. -/
def State.spanOp (s : State) (pos serial : Nat) : Option Desc := (s.engine 1 pos).queue.find? fun d => d.serial == serial

/-- The rounds of an operation's item in a wave of a chain (R99). -/
def State.waveTurns (s : State) (pos h chain wave : Nat) (p : RunPlan) : List Turn :=
  match s.spanOp pos p.serial with
  | none => []
  | some d =>
    let item := wave * h + chain
    if d.items p.geom p.rpg ≤ item then []
    else (List.range (ceilDiv (d.passes p.geom) p.s)).map fun r => { serial := p.serial, item := item, round := r }

/-- Waves of an operation over `h` chains (R99). -/
def State.waves (s : State) (pos h : Nat) (p : RunPlan) : Nat :=
  match s.spanOp pos p.serial with
  | none => 0
  | some d => ceilDiv (d.items p.geom p.rpg) h

/-- The rounds that a chain runs, wave by wave; those of P and Q alternate within a wave (R99, R134). -/
def State.turns (s : State) (pos : Nat) (plans : List RunPlan) (chain : Nat) : List Turn :=
  match plans with
  | [] => []
  | p :: r =>
    let h := (s.spanCores pos).length / p.s
    match r with
    | [] => (List.range (s.waves pos h p)).flatMap fun v => s.waveTurns pos h chain v p
    | q :: _ => (List.range (Nat.max (s.waves pos h p) (s.waves pos h q))).flatMap fun v =>
        byTurns (s.waveTurns pos h chain v p) (s.waveTurns pos h chain v q)

/-- The pass that position q of a chain of s cores holds in round r: chain order when r is even, reverse when odd (R99). -/
def passAt (s r q : Nat) : Nat := if r % 2 = 0 then r * s + q else r * s + (s - 1 - q)

/-- The position to which a core hands its pairs in round r. -/
def nextPos (r q : Nat) : Nat := if r % 2 = 0 then q + 1 else q - 1

/-- Chain and position of a core under a chain length, none beyond the last chain (R97). -/
def State.placeOf (s : State) (pos len core : Nat) : Option (Nat × Nat) :=
  let cores := s.spanCores pos
  match cores.findIdx? fun c => c == core with
  | none => none
  | some i => if cores.length / len ≤ i / len then none else some (i / len, i % len)

/-- What a core does next: operation, plan, its chain and position, the turn, item and round, the pass it holds and the row of the
row group. -/
structure RowSlot where
  d : Desc
  p : RunPlan
  core : Nat
  chain : Nat
  q : Nat
  turn : Nat
  item : Nat
  round : Nat
  pass : Nat
  row : Nat
deriving DecidableEq, Repr

/-- The pass that a core holds in a turn, none when the round leaves it idle (R99). -/
def State.passIn (s : State) (pos : Nat) (plans : List RunPlan) (q : Nat) (t : Turn) : Option (Desc × RunPlan × Nat) :=
  match plans.find? (fun p => p.serial == t.serial), s.spanOp pos t.serial with
  | some p, some d => let n := passAt p.s t.round q
                      if n < d.passes p.geom then some (d, p, n) else none
  | _, _ => none

/-- The row slot of a core of the running operations, none when it has no row left in the round of its chain (R99). -/
def State.rowSlot (s : State) (pos core : Nat) : Option RowSlot :=
  let x := s.span pos
  match x.plans with
  | [] => none
  | p0 :: _ =>
    match s.placeOf pos p0.s core with
    | none => none
    | some (chain, q) =>
      let c := tget Chain.start chain x.chains
      match (s.turns pos x.plans chain)[c.turn]? with
      | none => none
      | some t => match s.passIn pos x.plans q t with
        | none => none
        | some (d, p, n) =>
          let row := c.rows.getD q 0
          if d.itemRows p.geom p.rpg t.item ≤ row then none
          else some { d := d, p := p, core := core, chain := chain, q := q, turn := c.turn, item := t.item, round := t.round
                      pass := n, row := row }

/-- The row of C of a row slot (R96). -/
def RowSlot.rowOfC (x : RowSlot) : Nat := x.item / x.d.colGroups x.p.geom * x.p.rpg + x.row

/-- The arrays of the core that have a tile of the item, with the tile's number (R96). -/
def RowSlot.tiles (x : RowSlot) : List (Nat × Nat) :=
  (List.range 4).filterMap fun a => (x.d.tileOf x.p.geom x.item a).map fun t => (a, t)

/-- Columns of C that a tile covers. -/
def Desc.tileCols (d : Desc) (g t : Nat) : Nat := Nat.min (geomW g) (d.n - t * geomW g)

/-! ### Operands -/

/-- The bytes of an operand without a write that breaks R94. -/
def State.opBytes (s : State) (d : Desc) (a n : Nat) : List Byte :=
  (List.range n).map fun i => match d.operands.find? fun c => c.1 == a + i with
    | some c => c.2
    | none => rd8 s.ms.mem (a + i)

/-- The element at stored position p as a weight register holds it: its code plus 2^16 times its block scale (R44, R45). -/
def State.rawElem (s : State) (d : Desc) (code addr scale p : Nat) : Nat :=
  if code = 5 then
    let b := fld (s.opBytes d (addr + p / 2) 1) 0 1
    (if p % 2 = 0 then b % 16 else b / 16) + 65536 * fld (s.opBytes d (scale + p / 32) 1) 0 1
  else
    let n := ((fmtOf code).getD fp32).bytes
    fld (s.opBytes d (addr + p * n) n) 0 n

/-- The value of a weight register or of a streamed element (R41, R45). -/
def elemVal (code v : Nat) : Val :=
  if code = 5 then fp4Value (v % 65536) (v / 65536) else ((fmtOf code).getD fp32).decode v

/-- The bytes of n consecutive stored positions from p, with their scales. -/
def elemRange (code addr scale p n : Nat) : List (Nat × Nat) :=
  if n = 0 then []
  else if code = 5 then [(addr + p / 2, (p + n - 1) / 2 - p / 2 + 1), (scale + p / 32, (p + n - 1) / 32 - p / 32 + 1)]
  else let b := ((fmtOf code).getD fp32).bytes
       [(addr + p * b, n * b)]

/-- K indices of a pass that lie inside K. -/
def Desc.passK (d : Desc) (g pass : Nat) : Nat := Nat.min (d.kPer g) (d.k - pass * d.kPer g)

/-- Sections of a pass; those wholly beyond K are not formed (R74, R104). -/
def Desc.passSections (d : Desc) (g pass : Nat) : Nat := ceilDiv (d.passK g pass) 16

/-- The streamed row of a pass, +0 beyond K (R74). -/
def State.streamed (s : State) (d : Desc) (g pass i : Nat) : List Val :=
  (List.range (d.kPer g)).map fun t =>
    if d.passK g pass ≤ t then plusZero else elemVal d.aFmt (s.rawElem d d.aFmt d.aAddr d.aScale (i * d.aLd + pass * d.kPer g + t))

/-- The bytes of A that a row of a pass reads. -/
def Desc.rowReads (d : Desc) (g pass i : Nat) : List (Nat × Nat) :=
  elemRange d.aFmt d.aAddr d.aScale (i * d.aLd + pass * d.kPer g) (d.passK g pass)

/-! ### Tiles in the cells (R71, R75, R81, R93) -/

/-- The weight register of K index t of the pass and logical column c: physical cell (R75), read along rows with TRANS (R81); with two
weights per cell the K indices 2r and 2r + 1 share logical row r (R72). With TRANS and two weights per cell, a cell holds two stored
columns (log 101, DEDUCED, safe). -/
def cellReg (g : Nat) (trans : Bool) (per t c : Nat) : Nat :=
  let l := t / per
  if trans then (c * 64 + l) * 2 + t % per
  else ((l + geomR g * (c / 64)) * 64 + c % 64) * 2 + t % per

/-- Weights per cell (R72). -/
def Desc.per (d : Desc) : Nat := if d.two then 2 else 1

/-- The record of a tile: the stored block it holds (R93, R123). -/
def Desc.tileKey (d : Desc) (g pass t : Nat) : TileKey :=
  let k0 := pass * d.kPer g
  let j0 := t * geomW g
  { sAddr := d.sAddr, sLd := d.sLd, sFmt := d.sFmt, sScale := d.sScale, geom := g
    row := if d.trans then j0 else k0, col := if d.trans then k0 else j0
    rows := if d.trans then d.tileCols g t else d.passK g pass, cols := if d.trans then d.passK g pass else d.tileCols g t }

/-- Stored position of S'[k][j] (R85). -/
def Desc.sPos (d : Desc) (k j : Nat) : Nat := if d.trans then j * d.sLd + k else k * d.sLd + j

/-- The weights of a tile as S stands; cells beyond K and N hold +0 (R74). -/
def State.loadCells (s : State) (d : Desc) (g pass t : Nat) : Tbl Nat :=
  let w := d.tileCols g t
  (List.range (d.passK g pass * w)).foldl (fun c x =>
    tset 0 (cellReg g d.trans d.per (x / w) (x % w))
      (s.rawElem d d.sFmt d.sAddr d.sScale (d.sPos (pass * d.kPer g + x / w) (t * geomW g + x % w))) c) []

/-- The bytes that the load of a tile reads, by stored row. -/
def Desc.tileReads (d : Desc) (g pass t : Nat) : List (Nat × Nat) :=
  let k := d.tileKey g pass t
  (List.range k.rows).flatMap fun r => elemRange d.sFmt d.sAddr d.sScale ((k.row + r) * d.sLd + k.col) k.cols

/-- An array of a Span, and a change of it. -/
def Span.array (x : Span) (n : Nat) : SArray := tget SArray.reset n x.arrays
def Span.setArray (x : Span) (n : Nat) (a : SArray) : Span := { x with arrays := tset SArray.reset n a x.arrays }

/-- A step commit clears every array's record of its tiles (R93). -/
def Span.clearRecords (x : Span) : Span :=
  let clear (t : Tile) : Tile := { t with key := none }
  { x with arrays := x.arrays.foldl (fun t e => tset SArray.reset e.1
      { e.2 with active := clear e.2.active, shadow := e.2.shadow.map fun y => (y.1, y.2.1, clear y.2.2) } t) [] }

/-- REUSE skips the load of a tile that the array holds active (R93). -/
def Desc.skips (d : Desc) (a : SArray) (k : TileKey) : Bool := d.reuse && a.active.key == some k

/-- The shadow registers are copied to the active ones at a pass boundary (R71). A tile whose load is skipped stays; one that
could not be loaded in time is loaded first (R78, R80). Answers false when S cannot be read. -/
def State.swapIn (s : State) (pos : Nat) (x : RowSlot) (fs : Finds) (at' : Nat × Nat) : Bool × State :=
  let n := 4 * x.core + at'.1
  let a := (s.span pos).array n
  let k := x.d.tileKey x.p.geom x.pass at'.2
  if x.d.skips a k then (true, s)
  else match a.shadow with
    | some (serial, turn, tile) =>
      if serial = x.d.serial ∧ turn = x.turn then
        (true, s.updSpan pos fun y => y.setArray n { a with active := tile, shadow := none })
      else load s a n k
    | none => load s a n k
where
  load (s : State) (a : SArray) (n : Nat) (k : TileKey) : Bool × State :=
    let r := s.readSees pos (x.d.tileReads x.p.geom x.pass at'.2) fs
    (r.1, r.2.updSpan pos fun y =>
      y.setArray n { a with active := { key := some k, cells := r.2.loadCells x.d x.p.geom x.pass at'.2 }, shadow := none })

/-- Weights of a coming turn enter the shadow registers of a core (R71, R78, R92). A tile that cannot be read stays out, so that the
error ends the operation that takes it. -/
def State.shadowLoad (s : State) (pos : Nat) (core turn : Nat) (t : Turn) (d : Desc) (p : RunPlan) (pass : Nat) (fs : Finds) : State :=
  (List.range 4).foldl (fun s a => match d.tileOf p.geom t.item a with
    | none => s
    | some n =>
      let y := (s.span pos).array (4 * core + a)
      let k := d.tileKey p.geom pass n
      if d.skips y k then s
      else
        let r := s.readSees pos (d.tileReads p.geom pass n) fs
        if !r.1 then r.2
        else r.2.updSpan pos fun z => z.setArray (4 * core + a)
          { y with shadow := some (d.serial, turn, { key := some k, cells := r.2.loadCells d p.geom pass n }) }) s

/-- The next turn in which a position holds a pass. -/
def State.nextTurn (s : State) (pos : Nat) (plans : List RunPlan) (q from' : Nat) (ts : List Turn) : Option (Nat × Turn × Desc × RunPlan × Nat) :=
  (List.range (ts.length - from')).findSome? fun i => match ts[from' + i]? with
    | none => none
    | some t => (s.passIn pos plans q t).map fun y => (from' + i, t, y)

/-- While a round streams, the shadow registers take the tiles of the core's next pass; in the last round, the first tiles of the
operation that has been chosen to run next (R92). -/
def State.loadAhead (s : State) (pos : Nat) (x : RowSlot) (fs : Finds) : State :=
  let y := s.span pos
  match s.nextTurn pos y.plans x.q (x.turn + 1) (s.turns pos y.plans x.chain) with
  | some (i, t, d, p, n) => s.shadowLoad pos x.core i t d p n fs
  | none => match y.nextPlans with
    | [] => s
    | p0 :: _ => match s.placeOf pos p0.s x.core with
      | none => s
      | some (chain, q) => match s.nextTurn pos y.nextPlans q 0 (s.turns pos y.nextPlans chain) with
        | some (i, t, d, p, n) => s.shadowLoad pos x.core i t d p n fs
        | none => s

/-- A tile that an operation with REUSE takes from an array has other weights than S now: its assertion is false (R93). -/
def State.staleIn (s : State) (pos : Nat) (plans : List RunPlan) (core : Nat) : Option Nat :=
  match plans with
  | [] => none
  | p0 :: _ => match s.placeOf pos p0.s core with
    | none => none
    | some (chain, q) => match s.nextTurn pos plans q 0 (s.turns pos plans chain) with
      | none => none
      | some (_, t, d, p, n) =>
        if (List.range 4).any fun a => match d.tileOf p.geom t.item a with
          | none => false
          | some i =>
            let y := (s.span pos).array (4 * core + a)
            d.skips y (d.tileKey p.geom n i) && y.active.cells != s.loadCells d p.geom n i
        then some d.serial else none

/-- The chosen operations begin to run when the Span is free (R70, R128). -/
def State.startSpan (s : State) (pos : Nat) : State :=
  let x := s.span pos
  if !x.plans.isEmpty || x.nextPlans.isEmpty || (s.job pos).st != .running then s
  else
    let stale := (s.spanCores pos).filterMap fun c => s.staleIn pos x.nextPlans c
    let s := s.updEngine 1 pos fun e => { e with
      running := (x.nextPlans.map RunPlan.serial).head?, partner := (x.nextPlans.map RunPlan.serial)[1]? }
    s.updSpan pos fun x =>
      { x with plans := x.nextPlans.map fun p => { p with stale := stale.contains p.serial }, nextPlans := [], chosen := false
               chains := [], flight := [], inbox := [] }

/-- SPAN_CHOOSE: a Span with no operation running takes its next one, or a PAIR as one (R127, R128, R131). While an operation runs,
the choice was made when its first chain began its last round. -/
def execSpanChoose (pos : Nat) (s : State) : Outc :=
  .next (if !(s.span pos).plans.isEmpty then s else (s.chooseNext pos).startSpan pos)

/-! ### Accumulator buffers (R73, R113, R114) -/

/-- The slot that a holder has for a band. -/
def SArray.slotOf (a : SArray) (h : Holder) (band : Nat) : Option Nat :=
  (a.owner.find? fun e => e.2 == some (h, band)).map Prod.fst

/-- A pair record of a holder: record i of a band's slot. A band with no slot yet reads as the seed (R73). -/
def SArray.record (a : SArray) (h : Holder) (band i : Nat) : PairRec :=
  match a.slotOf h band with
  | some k => tget PairRec.seed (4096 * k + i) a.buf
  | none => PairRec.seed

/-- Stores pair records in a holder's slot for a band; the first store takes the lowest free slot. -/
def SArray.store (a : SArray) (h : Holder) (band : Nat) (rs : List (Nat × PairRec)) : SArray :=
  let k := match a.slotOf h band with
    | some k => k
    | none => ((List.range 8).find? fun k => tget none k a.owner == none).getD 0
  { a with owner := tset none k (some (h, band)) a.owner
           buf := rs.foldl (fun t r => tset PairRec.seed (4096 * k + r.1) r.2 t) a.buf }

/-- A holder's slots are freed; their contents are not defined any more (R114). -/
def SArray.release (a : SArray) (h : Holder) : SArray :=
  let gone (k : Nat) : Bool := match tget none k a.owner with
    | some (g, _) => g == h
    | none => false
  { a with owner := a.owner.filter fun e => !gone e.1, buf := a.buf.filter fun e => !gone (e.1 / 4096) }

/-- Frees a holder's slots on some arrays. -/
def Span.release (x : Span) (h : Holder) (arrays : List Nat) : Span :=
  arrays.foldl (fun x n => x.setArray n ((x.array n).release h)) x

/-- Who holds the slots of an operation: its tie group, else itself (R114, R116). -/
def Desc.holder (d : Desc) : Holder := if d.tie = 0 then .op d.serial else .tie d.tie

/-- Bytes of a pair record in its slot: record (row of the band) * w + column (R113). -/
def RowSlot.recAt (x : RowSlot) (c : Nat) : Nat := x.row % (4096 / geomW x.p.geom) * geomW x.p.geom + c
def RowSlot.band (x : RowSlot) : Nat := x.row / (4096 / geomW x.p.geom)

/-- Where the seeds of a row come from (R73): the chain's start, the array's own accumulator buffer, or the towline. -/
inductive SeedFrom where
  | start
  | buffer
  | beat (recs : Tbl PairRec)
  | wait
deriving DecidableEq, Repr

/-- The seeds of a row slot: the first pass starts afresh or continues its tie group (R144), a pass whose predecessor ran on this core
reads the buffer, any other waits for its beat (R99, R118). -/
def State.seedFrom (s : State) (pos : Nat) (x : RowSlot) : SeedFrom :=
  if x.pass = 0 then (if x.d.tie = 0 then .start else .buffer)
  else if x.pass % x.p.s = 0 then .buffer
  else match tget [] x.core (s.span pos).inbox with
    | b :: _ => .beat b.recs
    | [] => .wait

/-- A row's pair at an array and column (R73). -/
def State.seedAt (s : State) (pos : Nat) (x : RowSlot) (a c : Nat) : PairRec :=
  match s.seedFrom pos x with
  | .buffer => ((s.span pos).array (4 * x.core + a)).record x.d.holder x.band (x.recAt c)
  | .beat recs => tget PairRec.seed (256 * a + c) recs
  | _ => PairRec.seed

/-! ### The rows of a pass (R72, R103 to R105) -/

/-- The product of K index t of a pass: a streamed element and a weight register, +0 beyond K (R71, R72, R74, R104). -/
def passProduct (d : Desc) (g pass : Nat) (row : List Val) (cells : Tbl Nat) (c t : Nat) : Val :=
  if d.passK g pass ≤ t then plusZero
  else (row.getD t plusZero).mul (elemVal d.sFmt (tget 0 (cellReg g d.trans d.per t c) cells))

/-- The pair that leaves the bottom of a column: the sections of the pass are combined in ascending order (R72, R103). -/
def passPair (d : Desc) (g pass : Nat) (row : List Val) (cells : Tbl Nat) (c : Nat) (p : PairRec) : PairRec :=
  (List.range (d.passSections g pass)).foldl (fun p q =>
    p.combine (sectionSum ((List.range 16).map fun t => passProduct d g pass row cells c (16 * q + t)))) p

/-- The exact product of index k for element (i, j), +0 beyond K, and the chain of an element from a pair (R85, R103, R104): what the
passes of R96 to R100 form, whatever the geometry (R120). -/
def State.product (s : State) (d : Desc) (i j k : Nat) : Val :=
  if d.k ≤ k then plusZero
  else (elemVal d.aFmt (s.rawElem d d.aFmt d.aAddr d.aScale (i * d.aLd + k))).mul
    (elemVal d.sFmt (s.rawElem d d.sFmt d.sAddr d.sScale (d.sPos k j)))
def State.chain (s : State) (d : Desc) (i j : Nat) (p : PairRec) : PairRec :=
  (List.range (ceilDiv d.k 16)).foldl (fun p q =>
    p.combine (sectionSum ((List.range 16).map fun t => s.product d i j (16 * q + t)))) p

/-- The pairs of a row at the bottom edge of an array, by column. -/
def State.rowPairs (s : State) (pos : Nat) (x : RowSlot) (at' : Nat × Nat) : List (Nat × PairRec) :=
  let row := s.streamed x.d x.p.geom x.pass x.rowOfC
  let cells := ((s.span pos).array (4 * x.core + at'.1)).active.cells
  (List.range (x.d.tileCols x.p.geom at'.2)).map fun c => (c, passPair x.d x.p.geom x.pass row cells c (s.seedAt pos x at'.1 c))

/-- The pass is the item's last (R99). -/
def RowSlot.last (x : RowSlot) : Bool := x.pass + 1 == x.d.passes x.p.geom
/-- The next pass of the item runs on this core (R99). -/
def RowSlot.stays (x : RowSlot) : Bool := (x.pass + 1) % x.p.s == 0
/-- The closing use of a tie group, and an operation outside any, write C (R144, R148). -/
def Desc.closes (d : Desc) : Bool := d.tie == 0 || d.tieLast

/-- The core to which the pairs of a row slot go on the towline. -/
def State.towardCore (s : State) (pos : Nat) (x : RowSlot) : Nat :=
  (s.spanCores pos).getD (x.chain * x.p.s + nextPos x.round x.q) 0

/-- Beats that a core's buffer has been promised or holds (R119). -/
def Span.beatsAt (x : Span) (core : Nat) : Nat := (tget [] core x.flight).length + (tget [] core x.inbox).length

/-- Bytes of the row of C that an item's last pass writes, by array. -/
def RowSlot.cRanges (x : RowSlot) : List (Nat × Nat) :=
  x.tiles.map fun y => (x.d.cAddr + (x.rowOfC * x.d.cLd + y.2 * geomW x.p.geom) * x.d.oF.bytes,
    x.d.tileCols x.p.geom y.2 * x.d.oF.bytes)

/-- A row slot turns into a weight-only slot (R78, R100, R119): its beat has not come, the receiver has no credit, or its row of C is
held at its home (R299). -/
def State.rowStalls (s : State) (pos : Nat) (x : RowSlot) : Bool :=
  s.seedFrom pos x == .wait ||
  (!x.last && !x.stays && decide (32 ≤ (s.span pos).beatsAt (s.towardCore pos x))) ||
  (x.last && x.d.closes && s.writesHeld pos x.cRanges)

/-! ### Output (R87, R111, R112) -/

/-- Mask bytes that a row of an item reads (R87). -/
def RowSlot.maskReads (x : RowSlot) : List (Nat × Nat) :=
  if x.d.cMask = 0 then []
  else if x.d.maskRows then [(x.d.cMask + x.rowOfC / 8, 1)]
  else x.tiles.map fun y =>
    let j := y.2 * geomW x.p.geom
    (x.d.cMask + j / 8, (j + x.d.tileCols x.p.geom y.2 - 1) / 8 - j / 8 + 1)

/-- The mask writes element (i, j) (R87). -/
def State.cWritten (s : State) (d : Desc) (i j : Nat) : Bool :=
  let k := if d.maskRows then i else j
  d.cMask == 0 || ((s.opBytes d (d.cMask + k / 8) 1).getD 0 0).getLsbD (k % 8)

/-- The number of the 64 x 64 output tile of an element (R112). -/
def Desc.tileNo (d : Desc) (i j : Nat) : Nat := i / 64 * ceilDiv d.n 64 + j / 64

/-- The flags of an element join those of its operation, masked elements included (R87, R112). -/
def RunPlan.flag (p : RunPlan) (d : Desc) (i j : Nat) (r : Rounded) : RunPlan :=
  let t := d.tileNo i j
  { p with sat := p.sat || r.sat, special := p.special || r.special
           tiles := if (r.sat || r.special) && !p.tiles.contains t then p.tiles ++ [t] else p.tiles }

/-- Changes the plan of a running operation. -/
def Span.updPlan (x : Span) (serial : Nat) (f : RunPlan → RunPlan) : Span :=
  { x with plans := updWhere (fun p => p.serial == serial) f x.plans }

/-- Element (i, j) of C is rounded once and written where the mask admits it (R99, R111). -/
def State.outElem (s : State) (d : Desc) (i j : Nat) (p : PairRec) : State :=
  let r := p.output d.oF d.oMode (if d.oMode = .sr then s.drawBits d (i * d.n + j) else 0)
  let s := s.updSpan d.pos fun x => x.updPlan d.serial fun y => y.flag d i j r
  if s.cWritten d i j then s.writeJob d.pos (d.cAddr + (i * d.cLd + j) * d.oF.bytes) (leBytes d.oF.bytes r.code) else s

/-! ### Completion -/

/-- A status word with ERR alone (R88, R148). -/
def errWord (err : Code) : List Byte := leBytes 8 (err.toNat * 2 ^ 48)

/-- The word of an operation that ended with an error: its other fields are free (log 102, DESIGN CHOICE, safe). -/
def failWord (err : Code) (v : W64) : List Byte :=
  leBytes 8 (err.toNat * 2 ^ 48 + v.toNat % 2 ^ 16 * 2 ^ 16 + bits v.toNat 16 2)

/-- The status word (R88). -/
def RunPlan.word (p : RunPlan) : List Byte :=
  leBytes 8 (Nat.min p.tiles.length 0xFFFF * 2 ^ 16 + (if p.special then 2 else 0) + (if p.sat then 1 else 0))

/-- An operation leaves the Span: status word, its slots, its entry, DONE_CTR; slot releases that waited for it settle; an error
faults the job (R83, R88, R91, R95, R114, R352). -/
def State.endSpan (s : State) (d : Desc) (err : Code) (word : List Byte) : State :=
  let s := if d.spanStatus = 0 then s else s.writeJob d.pos d.spanStatus word
  let s := s.updEngine 1 d.pos fun e => if e.running = some d.serial then { e with running := e.partner, partner := none } else e
  let s := s.updSpan d.pos fun x => (({ x with plans := x.plans.filter fun p => p.serial != d.serial } : Span).release (.op d.serial)
    (x.arrays.map Prod.fst))
  let s := ((s.freeEntry 1 d.pos d.serial).doneCtr d).settleReleases d.pos
  if err = E.ok then s else s.engineFault d err

/-- Elements of C with free contents (R93, R94). -/
def freeElem (d : Desc) (k0 x : Nat) : Rounded :=
  let code := (freeValue (k0 + x)).toNat % 2 ^ (8 * d.oF.bytes)
  let special := match d.oF.decode code with
    | .fin _ _ _ => false
    | _ => true
  { code := code, sat := bits (freeValue (k0 + x)).toNat 63 1 == 1, special := special }

/-- C gets free contents: all of it after a write that broke R94, what the mask admits after a stale tile (R93, R94; log 95, DESIGN
CHOICE, unsafe). -/
def State.freeC (s : State) (d : Desc) (all : Bool) : State :=
  let k0 := s.freeCount
  (List.range (d.m * d.n)).foldl (fun s x =>
    if all || s.cWritten d (x / d.n) (x % d.n) then
      s.writeJob d.pos (d.cAddr + (x / d.n * d.cLd + x % d.n) * d.oF.bytes) (leBytes d.oF.bytes (freeElem d k0 x).code)
    else s) { s with freeCount := k0 + d.m * d.n }

/-- A use of the operation's tie group, or the operation itself, broke R94, and took a stale tile (R93). -/
def State.brokenOp (s : State) (d : Desc) : Bool :=
  !d.operands.isEmpty || match s.tieOf d with
    | some t => t.broken
    | none => false
def State.staleOp (s : State) (d : Desc) (p : RunPlan) : Bool :=
  p.stale || match s.tieOf d with
    | some t => t.stale
    | none => false

/-- The operation's last pass has ended (R83, R88, R93, R94, R148). The status word is that of the operands without a forbidden write;
after a stale tile it describes the C written. -/
def State.finishSpan (s : State) (d : Desc) (p : RunPlan) : State :=
  let broken := s.brokenOp d
  let stale := s.staleOp d p
  if !d.closes then
    (s.updSpan d.pos fun y => { y with ties := updWhere (fun u => u.uid == d.tie) (fun u => { u with broken := broken, stale := stale }) y.ties
      }).endSpan d E.ok (errWord E.ok)
  else
    let word := if stale && !broken then
        ((List.range (d.m * d.n)).foldl (fun (q : RunPlan) x => q.flag d (x / d.n) (x % d.n) (freeElem d s.freeCount x))
          { p with tiles := [], sat := false, special := false }).word
      else p.word
    let s := if broken || stale then s.freeC d broken else s
    let s := s.updSpan d.pos fun x =>
      ({ x with ties := x.ties.filter fun u => u.uid != d.tie || d.tie == 0 } : Span).release d.holder (x.arrays.map Prod.fst)
    s.endSpan d E.ok word

/-- An error ends every operation of the pair that has not completed (R95, R115, R135). Elements of C already written stay. -/
def State.failSpan (s : State) (pos : Nat) : State :=
  let ds := (s.span pos).plans.filterMap fun p => s.spanOp pos p.serial
  let s := s.updSpan pos fun x => { x with chains := [], flight := [], inbox := [] }
  (ds.foldl (fun s d =>
    let (v, s) := s.takeFree
    (if s.brokenOp d then s.freeC d true else s).endSpan d E.uncorrectable (failWord E.uncorrectable v)) s).startSpan pos

/-! ### SPAN_MM -/

/-- The last turn of a chain begins: with the first chain's, the next operation is chosen (R128). -/
def State.chooseAtLast (s : State) (pos : Nat) (x : RowSlot) : State :=
  let y := s.span pos
  if !y.chosen && x.turn + 1 == (s.turns pos y.plans x.chain).length && (tget Chain.start x.chain y.chains).rows.all (fun r => r == 0)
  then s.chooseNext pos else s

/-- A pass begins at a core: the tiles of its arrays become active and the next ones are loaded (R71, R78, R92). -/
def State.beginPass (s : State) (pos : Nat) (x : RowSlot) (fs : Finds) : Bool × State :=
  if x.row ≠ 0 then (true, s)
  else
    let s := s.chooseAtLast pos x
    let r := x.tiles.foldl (fun (r : Bool × State) y => if r.1 then r.2.swapIn pos x fs y else r) (true, s)
    if r.1 then (true, r.2.loadAhead pos x fs) else r

/-- A turn ends when every core that holds a pass has streamed the item's rows (R100): slots of an item that has ended are freed
(R114), the chain goes on to its next turn, and an operation with no turn left completes. -/
def State.endTurn (s : State) (pos : Nat) (x : RowSlot) : State :=
  let y := s.span pos
  let c := tget Chain.start x.chain y.chains
  let rows := x.d.itemRows x.p.geom x.p.rpg x.item
  let t : Turn := { serial := x.d.serial, item := x.item, round := x.round }
  if (List.range x.p.s).any fun q => (s.passIn pos y.plans q t).isSome && decide (c.rows.getD q 0 < rows) then s
  else
    let s := s.updSpan pos fun y => { y with chains := tset Chain.start x.chain { turn := x.turn + 1, rows := [] } y.chains }
    let lastRound := x.round + 1 == ceilDiv (x.d.passes x.p.geom) x.p.s
    let s := if lastRound && x.d.tie == 0 then
        s.updSpan pos fun y => y.release x.d.holder (((List.range x.p.s).map fun q => (s.spanCores pos).getD (x.chain * x.p.s + q) 0).flatMap
          fun k => (List.range 4).map fun a => 4 * k + a)
      else s
    let left := (List.range ((s.spanCores pos).length / x.p.s)).any fun k =>
      ((s.turns pos (s.span pos).plans k).drop (tget Chain.start k (s.span pos).chains).turn).any fun t => t.serial == x.d.serial
    if left then s
    else match s.spanOp pos x.d.serial, (s.span pos).plans.find? fun p => p.serial == x.d.serial with
      | some d, some p => (s.finishSpan d p).startSpan pos
      | _, _ => s

/-- The pairs of a row go to the accumulator buffer, to the towline or to C (R72, R99). -/
def State.landPairs (s : State) (pos : Nat) (x : RowSlot) (ps : List ((Nat × Nat) × List (Nat × PairRec))) : State :=
  let s := match s.seedFrom pos x with
    | .beat _ => s.updSpan pos fun y => { y with inbox := tupd [] x.core (fun l => l.drop 1) y.inbox }
    | _ => s
  if x.last && x.d.closes then
    ps.foldl (fun s y => y.2.foldl (fun s r => s.outElem x.d x.rowOfC (y.1.2 * geomW x.p.geom + r.1) r.2) s) s
  else if x.last || x.stays then
    s.updSpan pos fun z => ps.foldl (fun z y => let n := 4 * x.core + y.1.1
      z.setArray n ((z.array n).store x.d.holder x.band (y.2.map fun r => (x.recAt r.1, r.2)))) z
  else
    let recs := ps.foldl (fun t y => y.2.foldl (fun t r => tset PairRec.seed (256 * y.1.1 + r.1) r.2 t) t) []
    let b : TBeat := { serial := x.d.serial, item := x.item, pass := x.pass + 1, row := x.row, recs := recs }
    s.updSpan pos fun y => { y with flight := tupd [] (s.towardCore pos x) (fun l => l ++ [b]) y.flight }

/-- Pair records that a row slot reads from accumulator buffers and that are corrected are counted (R115). -/
def State.accRead (s : State) (pos : Nat) (x : RowSlot) (corrected : Nat) : State :=
  if s.seedFrom pos x == .buffer && corrected != 0 then
    s.countBy (0x1100 + 8 * x.core) (Nat.min corrected (x.tiles.length * geomW x.p.geom))
  else s

/-- The operand bytes that a row slot reads. -/
def RowSlot.reads (x : RowSlot) : List (Nat × Nat) :=
  x.d.rowReads x.p.geom x.pass x.rowOfC ++ if x.last && x.d.closes then x.maskReads else []

/-- The row is streamed: its pairs land and the chain counts it (R99). -/
def State.rowDone (s : State) (pos : Nat) (x : RowSlot) : State :=
  let s := s.landPairs pos x (x.tiles.map fun y => (y, s.rowPairs pos x y))
  s.updSpan pos fun y => { y with chains := tupd Chain.start x.chain (fun c =>
    { c with rows := (List.range x.p.s).map fun q => c.rows.getD q 0 + if q = x.q then 1 else 0 }) y.chains }

/-- A core streams one row (R77, R99): `y` is what the pair records of its accumulator buffers (R115) and its operands (R95) show when
they are read. -/
def State.streamRow (s : State) (pos : Nat) (x : RowSlot) (y : RowReads) : State :=
  if s.rowStalls pos x then s
  else
    let r := (s.accRead pos x y.corrected).beginPass pos x y.finds
    let u := r.2.readSees pos x.reads y.finds
    if !r.1 || !u.1 || (s.seedFrom pos x == .buffer && y.bad) then u.2.failSpan pos
    else (u.2.rowDone pos x).endTurn pos x

/-- A chain is within a round: some of its cores has streamed a row of it. -/
def Span.midRound (x : Span) (chain : Nat) : Bool := (tget Chain.start chain x.chains).rows.any fun r => r != 0

/-- SPAN_MM: a core of the Span streams the next row of its pass; the row that is the operation's last writes the status word and
completes it (R83, R95, R99, R103, R115). When the job ends, the passes of a round that has begun still finish (R149, R254, R286). -/
def execSpanMm (pos core : Nat) (r : RowReads) (s : State) : Outc :=
  .next (match s.rowSlot pos core with
  | none => s
  | some x => if (s.job pos).st = .running || (s.span pos).midRound x.chain then s.streamRow pos x r else s)

/-! ### Towline beats (R117 to R119) -/

/-- The beat that a core takes next: serial, item, pass, row; none when its seeds do not come over the towline or all have come. -/
def State.beatWanted (s : State) (pos core : Nat) : Option (Nat × Nat × Nat × Nat) :=
  match s.rowSlot pos core with
  | none => none
  | some x =>
    let row := x.row + (tget [] core (s.span pos).inbox).length
    if x.pass % x.p.s = 0 ∨ x.d.itemRows x.p.geom x.p.rpg x.item ≤ row then none else some (x.d.serial, x.item, x.pass, row)

/-- The hop into a core comes over the bridge (R98, R119). -/
def State.bridgeHop (s : State) (pos core : Nat) : Bool :=
  match s.rowSlot pos core with
  | none => false
  | some x =>
    let from' := (s.spanCores pos).getD (x.chain * x.p.s + (if x.round % 2 = 0 then x.q - 1 else x.q + 1)) 64
    (from' == 7 && core == 32) || (from' == 32 && core == 7)

/-- TOWLINE_BEAT: a beat arrives at a core's buffer with the records that were sent, bit for bit (R117). A beat with another serial,
item, pass or row than the expected one, and an uncorrectable record, end the operation (R95, R118, R119). On the bridge the CRC of R23
covers the records. -/
def execTowlineBeat (pos core : Nat) (beat : Beat) (s : State) : Outc :=
  .next (if (s.span pos).plans.isEmpty then s
  else
    let bridge := s.bridgeHop pos core
    let want := s.beatWanted pos core
    if want ≠ some (beat.serial, beat.item, beat.pass, beat.row) ∨ (beat.bad && !bridge) then s.failSpan pos
    else match tget [] core (s.span pos).flight with
      | [] => s
      | b :: r =>
        let n := ((s.rowSlot pos core).map fun x => x.tiles.length * geomW x.p.geom).getD 0
        let s := if bridge then s else s.countBy (0x1100 + 8 * core) (Nat.min beat.corrected n)
        s.updSpan pos fun x => { x with flight := tset [] core r x.flight, inbox := tupd [] core (fun l => l ++ [b]) x.inbox })

end Sys2Proof.Machine
end

