-- ==== Sys2Proof/Machine/Accept.lean ====
section
/-! DEFINITION. The engine port: header checks (R629), each engine's checks, reservation, acceptance and blocking
(R158, R203 to R205, R247 to R250), ISSUE and the prefetch lane (R174 to R179). -/

namespace Sys2Proof.Machine

/-! ### Header checks -/

/-- Operations that a class open to threads and lanes defines (R82, R247, R248). -/
def opDefined (op : Nat) : Bool :=
  [0x0101, 0x0201, 0x0202, 0x0203, 0x0204, 0x0205, 0x0206, 0x0207, 0x0210, 0x0211, 0x0212, 0x0213, 0x0214, 0x0301, 0x0302,
   0x0401, 0x0402, 0x0403, 0x0404, 0x0501, 0x0502, 0x0503, 0x0504, 0x0801, 0x0802, 0x0803, 0x0804, 0x0810, 0x0811,
   0x0812].contains op

/-- The header checks of R629 in order. -/
def State.headerCheck (s : State) (d : Desc) : Code :=
  firstBad [ (!opDefined d.opcode, E.argFormat)
           , (decide (3 < fld d.raw 3 1) || fld d.raw 12 4 != 0, E.argFormat)
           , ((s.job d.pos).man.groups.getD d.group 0 == 0, E.argRange)
           , ((d.depEn || d.hold) && !ctrOk d.pos d.depCtr, E.argRange)
           , (fld d.raw 6 2 != 0xFFFF && !ctrOk d.pos (fld d.raw 6 2), E.argRange) ]

/-! ### Checks of ring descriptors (R447, R448) -/

/-- The ids of a ring table, which may stand in flash (R332, R447). -/
def State.ringTable (s : State) (d : Desc) : Option (List Nat) :=
  (s.readThrough d.pos d.rgIn (2 * d.rgCount)).map fun bs => (List.range d.rgCount).map fun i => fld bs (2 * i) 2

/-- Fields that an operation does not use are zero, INST is 0xFF, reserved bits are zero (R447). -/
def Desc.ringFormatBad (d : Desc) : Bool :=
  d.azInst != 0xFF || decide (15 < d.rgCtl) || fld d.raw 30 2 != 0 || fld d.aux 8 56 != 0 ||
  (match d.opcode with
   | 0x0810 => d.rgBucket != 0 || d.rgSettle != 0 || d.rgOut != 0 || d.rgWork != 0
   | 0x0811 => decide (1 < d.rgCtl) || d.rgBucket != 0 || d.rgGuard != 0 || d.rgCount != 0 || d.rgSettle != 0 ||
       d.rgIn != 0 || d.rgOut != 0 || d.rgWork != 0
   | _ => decide (1 < d.rgCtl) || d.rgGuard != 0)

/-- The lowest FREE context (R446). -/
def State.freeContext (s : State) : Option Nat := (List.range 64).find? fun k => (s.ring k).isNone

/-- The checks on AZ_RING_OPEN (R448). -/
def State.openChecks (s : State) (d : Desc) : List (Bool × Code) :=
  let n := d.rgCount
  let sized := decide (1 ≤ n) && decide (n ≤ 32768)
  let ids := if sized then (s.ringTable d).getD [] else []
  let own := match s.ownId with
    | some p => ids.contains p
    | none => true
  [ (d.rgIn % 2 != 0, E.argAlign)
  , (sized && (s.placesOf d.pos d.rgIn (2 * n)).any (fun r => s.ms.poisoned r.1 r.2), E.uncorrectable)
  , (!sized || ids.length != n || (ids.any fun p => decide (32767 < p)) || decide ((dedupNat ids).length < ids.length) || !own, E.argRange)
  , (d.rgMode == 3 || (d.rgMode == 2 && decide (4096 < n)), E.argFormat)
  , (if d.rgMode = 2 then d.rgGuard != 0 else d.rgGuard != 0 && (decide (d.rgGuard < n) || decide (32768 < d.rgGuard)), E.argRange)
  , ((s.ringOf d.rgJob).isSome, E.busy)
  , (s.freeContext.isNone, E.noSpace) ]

/-- IN, OUT and WORK of a bucket in a context (R448). -/
def RingCtx.areas (x : RingCtx) (d : Desc) : List (Nat × Nat) :=
  [(d.rgIn, 128 * d.rgCount), (d.rgOut, 128 * d.rgCount), (d.rgWork, x.workBytes d.rgCount)]

/-- The checks on AZ_REDUCE and AZ_RING_CLOSE (R448). -/
def State.reduceChecks (s : State) (d : Desc) : List (Bool × Code) :=
  let sized := decide (1 ≤ d.rgCount) && decide (d.rgCount ≤ 2 ^ 24)
  match s.ringOf d.rgJob with
  | none => [(true, E.argRange)]
  | some (_, x) =>
    if x.job ≠ d.pos ∨ x.closing.isSome then [(true, E.argRange)]
    else if d.opcode = 0x0811 then []
    else
      let id := d.rgBucket
      let areas := x.areas d
      let ended := x.ended.any fun e => e.id == id && !goneCode e.code
      [ (!sized || (d.rgSettle != 0xFFFF && !ctrOk d.pos d.rgSettle), E.argRange)
      , (decide (64 ≤ (id + 65536 - x.low) % 65536) || (x.bucket id).isSome || ended, E.argRange)
      , ((areas.any fun r => !s.inRegions d.pos r.1 r.2) ||
          meet d.rgIn (128 * d.rgCount) d.rgOut (128 * d.rgCount) ||
          meet d.rgIn (128 * d.rgCount) d.rgWork (x.workBytes d.rgCount) ||
          meet d.rgOut (128 * d.rgCount) d.rgWork (x.workBytes d.rgCount) ||
          (x.buckets.any fun b => areas.any fun r => meet r.1 r.2 b.desc.rgWork (x.workBytes b.desc.rgCount)), E.argRange) ]

/-- Operands of a ring descriptor for the common checks. -/
def Desc.ringExts (d : Desc) : List Ext :=
  match d.opcode with
  | 0x0810 => if d.rgCount ≤ 32768 then [{ addr := d.rgIn, n := 2 * d.rgCount, align := 1, rd := true }] else []
  | 0x0812 => [ { addr := d.rgIn, n := 128 * d.rgCount, align := 4, rd := true }
              , { addr := d.rgOut, n := 128 * d.rgCount, align := 4, wr := true }
              , { addr := d.rgWork, n := 128 * d.rgCount, align := 8, wr := true } ]
  | _ => []

/-- Acceptance checks of ring descriptors (R250, R447, R448). -/
def State.ringCheck (s : State) (d : Desc) (auxOk : Bool) : Code :=
  firstBad ([(d.ringFormatBad, E.argFormat)] ++
    s.commonChecks d auxOk (fun a n => s.inSpace d.pos a n) d.ringExts none ++
    (if d.opcode = 0x0810 then s.openChecks d else s.reduceChecks d))

/-! ### The engine's own checks and what acceptance reserves -/

/-- The checks of the engine that an opcode names (R89, R250). -/
def State.ownCheck (s : State) (d : Desc) (auxOk : Bool) : Code :=
  match d.cls with
  | 1 => s.spanCheck d auxOk
  | 2 => if d.opcode < 0x0210 then s.vecCheck d auxOk else s.keelCheck d auxOk
  | 3 => s.layCheck d auxOk
  | 4 => s.gatherCheck d auxOk
  | 5 => s.rndCheck d auxOk
  | _ => if d.opcode < 0x0810 then s.azCheck d auxOk else s.ringCheck d auxOk

/-- Blocks of its stream that an accepted descriptor reserves (R59, R90). -/
def State.drawOf (s : State) (d : Desc) : Nat :=
  match d.cls with
  | 1 => if d.oRnd = 2 then drawBlocks (d.m * d.n) else 0
  | 2 => if d.opcode < 0x0210 then d.vecDraw.getD 0 else 0
  | 3 => if d.rnd = .sr then drawBlocks (d.lDRows * d.lDCols) else 0
  | 4 => (d.gDraw (s.gTab d)).getD 0
  | 5 => d.rDraw.getD 0
  | _ => 0

/-! ### Instances and queues -/

/-- The instances that may take a descriptor, in the order in which the port tries them (R33, R70, R247; log 42, DEDUCED, safe): the
Span of the job, the core's own engine, the named port, or the ports of the core's shore and then the other's. -/
def Desc.instances (d : Desc) : List Nat :=
  match d.cls with
  | 1 => [d.pos]
  | 8 =>
    if d.azInst = 0xFF then
      (List.range 8).map (fun i => i + 8 * shoreOf d.core) ++ (List.range 8).map (fun i => i + 8 * (1 - shoreOf d.core))
    else [d.azInst]
  | _ => [d.core]

/-- An instance whose queue has room. -/
def State.roomAt (s : State) (cls : Nat) (ns : List Nat) : Option Nat :=
  ns.find? fun n => decide ((s.engine cls n).queue.length < queueCap cls)

/-- A context with 64 accepted buckets takes no further AZ_REDUCE (R449). -/
def State.contextFull (s : State) (d : Desc) : Bool :=
  d.opcode == 0x0812 && match s.ringOf d.rgJob with
    | some (_, x) => decide (64 ≤ x.buckets.length)
    | none => false

/-- OBJECT of a context that waits for an entry (R168): class and instance, 0xFF when the port chooses. -/
def Desc.awaited (d : Desc) : Nat := d.cls * 256 + (if d.cls = 8 then d.azInst else (d.instances.headD 0))

/-! ### Acceptance -/

/-- What the port answers to a descriptor: the queue is full, a check fails, or it is accepted. -/
inductive PortAns where
  | full (object : Nat)
  | bad (code : Code) (s : State)
  | ok (s : State)

/-- The auxiliary record at acceptance: its bytes, and whether it lies in the job's scratchpad (R86, R251). The earlier checks see a
record outside it as zero (log 106, DESIGN CHOICE, unsafe). -/
def State.auxOf (s : State) (pos : Nat) (raw : List Byte) : List Byte × Bool :=
  let a := fld raw 56 8
  if a = 0 then (List.replicate 64 0, true)
  else if s.inScratch pos a 64 then (s.readJob pos a 64, true)
  else (List.replicate 64 0, false)

/-- A descriptor as it would be accepted. A random-stream operation with OWN = 0 names its stream (R278). -/
def State.draft (s : State) (core : Nat) (issuer : Issuer) (stream : Nat) (raw : List Byte) : Desc :=
  let pos := s.posOf core
  let d : Desc :=
    { raw := raw, aux := (s.auxOf pos raw).1, core := core, pos := pos, issuer := issuer, account := 256 * pos + fld raw 2 1
      serial := s.ms.serial, stream := stream, draw := 0, cap := 0, started := false, progress := 0, waiting := []
      operands := [], part := Part.start, fetch := [], tie := 0, mate := none }
  if fld raw 1 1 = 5 ∧ !d.rOwn then { d with stream := d.rStream } else d

/-- What acceptance does in a reduction context (R446 to R449, R456): an open takes the lowest FREE context and the FORM
notices held for its RJOB, a bucket joins the contribution queue and is announced, a close marks the context CLOSING. -/
def State.ringAccept (s : State) (d : Desc) : State :=
  match d.opcode with
  | 0x0810 =>
    match s.freeContext with
    | none => s
    | some k =>
      let x : RingCtx :=
        { rjob := d.rgJob, nGuard := if d.rgMode = 2 then 0 else if d.rgGuard = 0 then d.rgCount else d.rgGuard, formEpoch := 0
          aborts := 0, retries := 0, stray := 0, rgen := 0, job := d.pos, refuse := bits d.rgCtl 1 1 == 1, tol := d.rgTol
          mode := d.rgMode, st := .forming, table := (s.ringTable d).getD [], excluded := [], opened := false
          openDesc := some d, closing := none, held := (s.az.forms.filter fun f => f.1 == d.rgJob).map Prod.snd
          accepts := [], asm := [], outbox := [], buckets := [], ended := [], next := 0, mixed := [], serves := []
          relayed := [] }
      { s with az := { s.az with
          rings := (s.az.rings.filter fun r => r.1 < k) ++ (k, x) :: (s.az.rings.filter fun r => k < r.1)
          forms := s.az.forms.filter fun f => f.1 != d.rgJob } }
  | 0x0811 => match s.ringOf d.rgJob with
    | none => s
    | some (k, _) => s.updRing k fun x => { x with closing := some d }
  | 0x0812 => match s.ringOf d.rgJob with
    | none => s
    | some (k, x) =>
      let b : Bucket :=
        { desc := d, id := d.rgBucket, started := false, attempt := 0, served := x.mixed.contains d.rgBucket, inbox := []
          partials := [], subs := [], finals := [], resent := [], verified := [], sentVerified := false }
      let s := s.updRing k fun x => { x with buckets := x.buckets ++ [b], ended := x.ended.filter fun e => e.id != d.rgBucket }
      if x.st = .ready then s.sendAccept k d.rgBucket else s
  | _ => s

/-- The entry joins the queue, the engine's clock runs again (R549) and a newly ready account starts at the lowest VT
(R403). -/
def State.enqueue (s : State) (cls num : Nat) (d : Desc) : State :=
  let s := s.updEngine cls num fun e => { e with queue := e.queue ++ [d], gated := false, idleRun := 0 }
  s.updEngine cls num fun e => s.refresh e

/-- Acceptance of a checked descriptor at an instance: its stream range is reserved (R59, R90), counter operations act
(R279), a Span use joins its tie group (R143) or the P that awaits a partner (R131) and wakes the job's cores (R548). -/
def State.accept (s : State) (num : Nat) (d : Desc) : State :=
  let s := s.updMs fun m => { m with serial := m.serial + 1 }
  let ctr := s.streamCtr d.pos d.stream
  let k := s.drawOf d
  let d := { d with draw := ctr, cap := BitVec.ofNat 64 ctr }
  let s := if k = 0 then s else s.setStream d.pos d.stream (ctr + k)
  let s := if d.opcode = 0x0503 then s.setStream d.pos d.stream d.rValue else s
  let (d, s) := if d.cls = 1 then
      let (d, s) := s.joinTie d
      let (d, s) := s.joinPair d
      (d, (s.coresOf d.pos).foldl (fun s c => s.wakeCore c) s)
    else (d, s)
  (s.enqueue d.cls num d).ringAccept d

/-- The port meets a descriptor (R203 to R205, R249, R629): an undefined operation fails at once, a full queue blocks, then
come the checks. An uncorrectable record fails before the engine's own checks (log 106, DESIGN CHOICE, unsafe). -/
def State.offer (s : State) (core : Nat) (issuer : Issuer) (stream : Nat) (raw : List Byte) (fs : Finds) : PortAns :=
  let d := s.draft core issuer stream raw
  if !opDefined d.opcode then .bad E.argFormat s
  else
    let named := d.cls != 8 || d.azInst == 0xFF || decide (d.azInst < 16)
    let room := s.roomAt d.cls d.instances
    if named && (room.isNone || s.contextFull d) then .full d.awaited
    else
      let h := s.headerCheck d
      if h ≠ E.ok then .bad h s
      else
        let auxOk := (s.auxOf d.pos raw).2
        match (if fld raw 56 8 ≠ 0 ∧ auxOk then s.readSees d.pos [(fld raw 56 8, 64)] fs else (true, s)) with
        | (false, s) => .bad E.uncorrectable s
        | (true, s) =>
          let c := s.ownCheck d auxOk
          if c ≠ E.ok then .bad c s
          else match room with
            | none => .bad E.argRange s
            | some num => .ok (s.accept num d)

/-! ### The prefetch lane (R174 to R177) -/

/-- The lane declared for a core (R388). -/
def State.laneOf (s : State) (core : Nat) : Option CoreDecl :=
  (s.job (s.posOf core)).man.cores.find? fun d => d.core == core && d.lane

/-- The job address of the lane's next entry, when TAIL_CTR exceeds HEAD_CTR (R174). -/
def State.laneNext (s : State) (core : Nat) : Option (CoreDecl × Nat) :=
  match s.laneOf core with
  | none => none
  | some l =>
    let pos := s.posOf core
    let h := (s.ctr pos l.headCtr).toNat
    if h < (s.ctr pos l.tailCtr).toNat then some (l, l.laneBase + 64 * (h % Nat.max 1 l.laneLength)) else none

/-- The lane stops at this descriptor's HOLD mark (R176); one whose DEP_CTR lies outside the space does not stop (R629). -/
def State.laneHeld (s : State) (core : Nat) (raw : List Byte) : Bool :=
  let pos := s.posOf core
  let id := fld raw 4 2
  bits (fld raw 3 1) 1 1 == 1 && ctrOk pos id && decide ((s.ctr pos id).toNat < fld raw 8 4)

/-- The lane of a running job has a descriptor that it may issue (R176). -/
def State.laneReady (s : State) (core : Nat) : Bool :=
  decide ((s.job (s.posOf core)).st = .running) && match s.laneNext core with
  | none => false
  | some (_, a) => !s.laneHeld core (s.readJob (s.posOf core) a 64)

/-! ### ISSUE (R203 to R205) -/

/-- A requester of the port has a descriptor to present: a pipeline with a ready berth, or the lane (R158). -/
def State.mayPresent (s : State) (core q : Nat) : Bool := if q = 4 then s.laneReady core else !(s.readyBerths core q).isEmpty

/-- The requester whose descriptor the port accepts of those that reach it in one cycle: the first after the one it accepted last, in
the order pipelines 0 to 3, lane (R158). -/
def State.portWinner (s : State) (core me : Nat) (rivals : List Nat) : Nat :=
  (((List.range 5).map fun i => ((s.core core).portLast + 1 + i) % 5).find? fun q => q == me || (rivals.contains q && s.mayPresent core q)).getD me

/-- Runs an ISSUE. One that loses the arbitration does not retire, its berth stays ready, and its pipeline presents it again and
issues from no other berth (R158). -/
def State.issueAt (s : State) (t : Thr) (rs : List Reg) (p : PortIn) (body : Ctx → State → State) : State :=
  match s.ready t with
  | none => s
  | some c =>
    if !c.awaits rs [] && s.portWinner t.core (t.berth % 4) p.rivals != t.berth % 4 then
      s.updCore t.core fun k => { k with atPort := tset 0 (t.berth % 4) (t.berth + 1) k.atPort }
    else s.issue t rs [] false body

/-- ISSUE of a thread: the port writes CTRL.GROUP into the descriptor; a full queue blocks the thread, a failed check faults
it, an accepted descriptor retires the instruction. It is a release (R205). -/
def State.issueDesc (s : State) (t : Thr) (c : Ctx) (raw : List Byte) (fs : Finds) : State :=
  if !s.storesDone c.tid then s
  else
    match s.offer t.core (.thread c.tid t.berth c.pc) c.stream.toNat (patch raw 2 [c.group]) fs with
    | .full o => s.block t c .blockedEngine { WaitRec.idle with object := o }
    | .bad e s => s.faultAt c e
    | .ok s => (s.updCore t.core fun k => { k with portLast := t.berth % 4 }).retire t c

/-- ISSUE.R: the descriptor is g(RA) to g(RA + 7) (R203). -/
def execIssueR (t : Thr) (ra : IssueRa) (s : State) : Outc :=
  let ok := ra.ra.toNat % 8 == 0 && decide (8 ≤ ra.ra.toNat)
  let srcs : List Reg := if ok then (List.range 8).map fun i => ra.ra + BitVec.ofNat 6 i else []
  .next (s.issueAt t srcs ra.port fun c s =>
    if !ok then s.faultAt c E.argFormat
    else s.issueDesc t c (srcs.flatMap fun r => leBytes 8 (c.reg r).toNat) ra.port.finds)

/-- ISSUE.M: the descriptor is 16 words of the core's own scratchpad (R203), read when the port accepts it (R204). -/
def execIssueM (t : Thr) (ra : IssueRa) (imm : Imm) (s : State) : Outc :=
  .next (s.issueAt t [ra.ra] ra.port fun c s =>
    if (c.byteAddr ra.ra imm) % 16 ≠ 0 then s.faultAt c E.argAlign
    else match c.wordIndex ra.ra imm with
      | none => s.faultAt c E.argRange
      | some i =>
        if i / 2 ^ 20 ≠ t.core then s.faultAt c E.argRange
        else if !s.storesDone c.tid then s
        else match s.readSees (s.posOf t.core) [(wordAddr i, 64)] ra.port.finds with
          | (false, s) => s.faultAt c E.uncorrectable
          | (true, s) => s.issueDesc t c (rdBytes s.ms.mem (wordAddr i) 64) ra.port.finds)

/-! ### The lane issues (R176 to R179) -/

/-- PREFETCH_LANE_ISSUE: the lane's next descriptor goes to the port; it is presented again when it loses the arbitration (R158) and
while the queue is full (R176), a failed check faults the job (R179), an accepted one advances HEAD_CTR (R174). -/
def execPrefetchLaneIssue (lane : LaneAt) (s : State) : Outc :=
  .next (
    let core := lane.core
    let pos := s.posOf core
    if (s.job pos).st ≠ .running ∨ (s.core core).power ≠ .run then s
    else match s.laneNext core with
    | none => s
    | some (l, a) =>
      let head := (s.ctr pos l.headCtr).toNat
      match s.spanOf pos a 64 false with
      | .bad => s.laneFault core head E.argRange
      | .absent ps => ps.foldl (fun s p => s.faultIn pos p (shoreOf core) (256 * pos + l.laneGroup.toNat)) s
      | .runs _ =>
        if s.laneHeld core (s.readJob pos a 64) || s.portWinner core 4 lane.port.rivals != 4 then s
        else match s.readSees pos [(a, 64)] lane.port.finds with
          | (false, s) => s.laneFault core head E.uncorrectable
          | (true, s) =>
            match s.offer core (.lane head) l.laneStream.toNat (s.readJob pos a 64) lane.port.finds with
            | .full _ => s
            | .bad c s => s.laneFault core head c
            | .ok s => (s.updCore core fun k => { k with portLast := 4, idle := 0 }).bumpCtr pos l.headCtr)

end Sys2Proof.Machine
end

