-- ==== Sys2Proof/Machine/Engines.lean ====
section
/-! DEFINITION. Arbitration: choice, slices, debts and clock gates of engine instances, and errors in their account structures
(R399 to R408, R549, R585). -/

namespace Sys2Proof.Machine

/-- An instance of R399: the Spans, four engines of each core, the shared engines (R32). -/
def instanceExists (cls num : Nat) : Bool :=
  match cls with
  | 1 => decide (num < 2)
  | 2 | 3 | 4 | 5 => decide (num < 64)
  | 6 => decide (num < 8)
  | 7 => decide (num < 4)
  | 8 => decide (num < 16)
  | 9 => decide (num < 2)
  | 10 => num == 0
  | _ => false

/-- The instance keeps an operation in progress (R399): a running one, one that waits for pages (R343), or a window or ring
operation that has started; the oldest, where the instance overlaps several. -/
def Engine.busyWith (e : Engine) : Option Desc :=
  let started := e.queue.filter fun d => d.started
  if e.cls = 4 ∨ e.cls = 8 then minBy Desc.serial (e.current.toList ++ started)
  else match e.current with
    | some d => some d
    | none => minBy Desc.serial started

/-- An uncorrectable error in a toll structure (R407, R408): a VT or debt is reset and counted, a toll total reads as
unknown and is counted, a lost count loses law 6. Log 60: DEDUCED, safe. -/
def State.acctError (s : State) (cls num : Nat) (err : AcctErr) : State :=
  let low (e : Engine) : Nat := lowest ((s.readyAccounts e).map fun a => (e.toll a).vt.toNat)
  let reset (a : Nat) (s : State) : State :=
    (s.updEngine cls num fun e => e.setToll a { e.toll a with vt := BitVec.ofNat 64 (low e), debt := 0 }).count 0x1038
  match err with
  | .none => s
  | .vt a => reset a s
  | .debt a => reset a s
  | .total a => ({ s with totals := tset 0 (a * 16 + cls) (BitVec.allOnes 64) s.totals } : State).count 0x1038
  | .count => s.lostLaw 6 (cls * 256 + num) (if 2 ≤ cls ∧ cls ≤ 5 then num else 0xFFFF)

/-! ### Held first writes (R355, R357, R398) -/

/-- Job ranges that a running operation writes in DRAM: a layout's destination, the table of a SCATTER_ROWS, the place of an AZ_GET. -/
def State.writesOf (s : State) (d : Desc) : List (Nat × Nat) :=
  match d.cls with
  | 3 => (d.layExts.filter fun e => e.wr).map fun e => (e.addr, e.n)
  | 4 => if d.opcode = 0x0403 then [((s.gTab d).base, (s.gTab d).total * (s.gTab d).rowBytes)] else []
  | 8 => if d.opcode = 0x0804 then [(d.azLocal, d.azLen)] else []
  | _ => []

/-- Writes that may be held at a home: their job, range, and account (R355, R398). -/
def State.writers (s : State) : List (Nat × (Nat × Nat) × Nat) :=
  (s.ms.stores.map fun p => (p.pos, (p.va, p.size), (s.thread p.tid).elim 512 fun c => 256 * p.pos + c.group.toNat)) ++
  (s.engines.flatMap fun e => e.current.toList.flatMap fun d => (s.writesOf d).map fun r => (d.pos, r, d.account)) ++
  ([0, 1] : List Nat).flatMap fun pos => ((s.job pos).feeds.zip (List.range 8)).flatMap fun f =>
    if f.1.pulling then ((s.job pos).man.feeds.filter fun d => d.feed == f.2).map fun d =>
      (pos, (d.buf, d.bufBlocks * (d.blockRecs * d.recBytes)), 512) else []

/-- The account of a write that is held for a first-write copy of a page in these physical bytes. -/
def State.heldWriter (s : State) (pa n : Nat) : Option Nat :=
  (s.writers.find? fun w => (s.job w.1).pages.any fun e => meet e.2.frame (pageSize e.2.large) pa n && s.needsCopy w.1 (some e) &&
    meet (e.1 * 0x10000) (pageSize e.2.large) w.2.1.1 w.2.1.2).map fun w => w.2.2

def Desc.mLarge (d : Desc) : Bool := fld d.raw 17 1 % 2 == 1
def Desc.mCount (d : Desc) : Nat := fld d.raw 20 4
def Desc.mSrc (d : Desc) : Nat := fld d.raw 24 8
def Desc.mPage (d : Desc) : Nat := pageSize d.mLarge

/-- A mooring operation copies a page for a held first write. -/
def State.firstWrite (s : State) (d : Desc) : Bool :=
  d.opcode == 0x0702 || (d.opcode == 0x0701 && (s.heldWriter d.mSrc (d.mCount * d.mPage)).isSome)

/-! ### Choice, slices and gates -/

/-- What an instance may run now: eligible descriptors; at a mooring engine those of held first writes before any other (R402). -/
def State.candidates (s : State) (e : Engine) : List Desc :=
  let ds := e.queue.filter fun d => !d.started && s.descEligible d
  let first := ds.filter s.firstWrite
  if e.cls = 7 ∧ !first.isEmpty then first else ds

/-- An idle instance goes on with the account whose slice is not over, else chooses one by virtual toll and debt, and runs that account's
earliest ready descriptor (R402, R404). -/
def State.chooseEngine (s : State) (cls num : Nat) : State :=
  let e := s.refresh (s.engine cls num)
  if e.running.isSome then s
  else
    let ds := s.candidates e
    let of (a : Nat) : List Desc := ds.filter fun d => d.account == a
    let run (e : Engine) (a slice : Nat) : State := s.updEngine cls num fun _ =>
      { e with running := (minBy Desc.serial (of a)).map Desc.serial, sliceAccount := some a, slice := slice, idleRun := 0, gated := false }
    match e.sliceAccount.filter fun a => decide (0 < e.slice) && !(of a).isEmpty with
    | some a => run e a e.slice
    | none => match e.choose ((s.readyAccounts e).filter fun a => !(of a).isEmpty) with
      | (e, none) => s.updEngine cls num fun _ => e
      | (e, some (a, slice)) => run e a slice

/-- ENGINE_CHOOSE (R402). What the account structures show when they are read comes first (R407, R408). The Span does not
choose this way. -/
def execEngineChoose (cls eng : Nat) (err : AcctErr) (s : State) : Outc :=
  .next (if !s.live || !instanceExists cls eng then s
    else
      let s := s.acctError cls eng err
      if cls = 1 || !s.live then s else s.chooseEngine cls eng)

/-- SLICE_END: the running operation is preempted at its next preemption point and keeps its progress; the cycles past the
slice become debt (R254, R405). Outstanding lookups of a gather operation finish first. -/
def execSliceEnd (cls eng overrun : Nat) (s : State) : Outc :=
  .next (let e := s.engine cls eng
    if !s.live || cls == 1 || e.running.isNone || e.current.any (fun d => d.fetch.any fun f => f.2.pending) then s
    else match e.sliceAccount with
      | none => s
      | some a => s.updEngine cls eng fun e =>
          let e := e.setToll a { e.toll a with debt := (e.toll a).debt + overrun }
          { e with running := none, partner := none, sliceAccount := none, slice := 0 })

/-- ENGINE_CLOCK_GATE: an engine without an operation in progress gates its clock (R549); no result depends on it. -/
def execEngineClockGate (cls eng : Nat) (s : State) : Outc :=
  .next (if !s.live || !instanceExists cls eng || (s.engine cls eng).busyWith.isSome then s
    else s.updEngine cls eng fun e => { e with gated := true })

end Sys2Proof.Machine
end

