-- ==== Sys2Proof/Machine/Cores.lean ====
section
/-! DEFINITION. Swap-in, eviction and rotation of contexts (R166 to R173), and the power states of a core (R38, R545 to
R548). -/

namespace Sys2Proof.Machine

/-! ### Berth counts -/

def Berth.isBallast : Berth → Bool
  | .ballast => true
  | _ => false

/-- A context is on its way to or from a swap record. -/
def Berth.moving : Berth → Bool
  | .swappingOut _ => true
  | .swappingIn _ => true
  | _ => false

def Core.ballastCount (c : Core) : Nat := (c.berths.filter fun b => b.2.isBallast).length

/-- The lowest FREE berth. -/
def Core.freeBerth (c : Core) : Option Nat := (List.range 768).find? fun b => !c.berths.any fun e => e.1 == b
def Core.ballastBerth (c : Core) : Option Nat := (c.berths.find? fun b => b.2.isBallast).map Prod.fst

/-- The core's job runs. -/
def State.jobRuns (s : State) (core : Nat) : Bool := (s.job (s.posOf core)).st == .running

/-! ### Swap -/

/-- SWAP_IN: the context that became runnable first takes a FREE berth, otherwise a BALLAST berth, which firmware then owes an
eviction; swap-ins of a core proceed one after another (R170, R171, R173). -/
def execSwapIn (core : Nat) (s : State) : Outc :=
  .next (
    let k := s.core core
    if !s.jobRuns core || k.power != .run || (k.berths.any fun b => match b.2 with | .swappingIn _ => true | _ => false) then s
    else match k.swapQueue with
    | [] => s
    | (tid, _) :: rest => match k.freeBerth with
      | some b => s.setCore core { k.setBerth b (.swappingIn tid) with swapQueue := rest }
      | none => match k.ballastBerth with
        | some b => s.setCore core { k.setBerth b (.swappingIn tid) with swapQueue := rest, evictOwed := k.evictOwed + 1 }
        | none => s)

/-- SWAP_IN_COMPLETE: the context stands in its berth and its record is no longer VALID (R167, R173). An uncorrectable
granule of the record loses law 5 (R585). -/
def execSwapInComplete (core berth : Nat) (ecc : Ecc) (s : State) : Outc :=
  .next (match (s.core core).berth berth with
    | .swappingIn tid =>
      let (ok, s) := s.readRecord tid ecc
      if !ok then s.lostLaw 5 core core
      else match s.record tid with
        | none => s
        | some c =>
          let s := s.updCore core fun k => { k.setBerth berth (.resident { c with since := s.aoc }) with idle := 0 }
          (s.updJob (s.posOf core) fun j => { j with swap := tset SwapRec.empty tid SwapRec.empty j.swap }).putRecord tid 516 [0]
    | _ => s)

/-- A context that may be swapped out: it has no open crossing (R165). -/
def Ctx.movable (c : Ctx) : Bool := c.xing.isNone

def Status.blocked : Status → Bool
  | .blockedCounter | .blockedToken | .blockedEngine | .blockedPage => true
  | _ => false

/-- The resident contexts of a core that satisfy a test, with their berths. -/
def Core.residents (k : Core) (p : Ctx → Bool) : List (Nat × Ctx) :=
  k.berths.filterMap fun b => match b.2 with
    | .resident c => if p c then some (b.1, c) else none
    | _ => none

/-- A resident context starts to leave its berth. -/
def Core.swapOut (k : Core) (b : Nat) (c : Ctx) : Core :=
  { (k.setBerth b (.swappingOut c)).leaveSets b with evictOwed := k.evictOwed - 1 }

/-- Contexts of the swap queue that have waited longer than the rotation limit (R172). -/
def State.overdue (s : State) (core : Nat) : Nat :=
  ((s.core core).swapQueue.filter fun w => decide (2 ^ (s.job (s.posOf core)).man.rotateLog2 < 80 * (s.aoc - w.2))).length

/-- EVICTION: for a BALLAST berth consumed, the BLOCKED context that has been blocked longest leaves (R169, R170). -/
def execEviction (core : Nat) (s : State) : Outc :=
  .next (
    let k := s.core core
    if !s.jobRuns core || k.power != .run || k.evictOwed == 0 then s
    else match minBy (fun x : Nat × Ctx => x.2.wait.blockedAt) (k.residents fun c => c.status.blocked && c.movable) with
    | none => s
    | some (b, c) => s.setCore core (k.swapOut b c))

/-- EVICTION_COMPLETE: the record is written in full, with every result that was on its way (log 96, DEDUCED, unsafe), and VALID; the
berth becomes BALLAST, or FREE when 16 are BALLAST already (R167, R173). A context that woke on the way joins the swap queue. -/
def execEvictionComplete (core berth : Nat) (s : State) : Outc :=
  .next (match (s.core core).berth berth with
    | .swappingOut c =>
      if !c.out.isEmpty then s else
      let s := s.putRecord c.tid 0 c.recordBytes
      let s := s.updCore core fun k =>
        let k := { k.setBerth berth (if k.ballastCount < 16 then .ballast else .free) with rotating := k.rotating.filter fun b => b != berth }
        if c.status = .runnable then { k with swapQueue := k.swapQueue ++ [(c.tid, s.aoc)] } else k
      s.updJob (s.posOf core) fun j => { j with swap := tset SwapRec.empty c.tid { valid := true, ctx := some c } j.swap }
    | _ => s)

/-- ROTATION: a context has waited in the swap area longer than the rotation limit and no berth is FREE or BALLAST, so the RUNNABLE context
resident longest outside a crossing leaves; each waiting context has one berth emptied for it (R172). A context whose next instruction
waits for a result is PENDING (R157) and stays. -/
def execRotation (core : Nat) (s : State) : Outc :=
  .next (
    let k := s.core core
    if !s.jobRuns core || k.power != .run || s.overdue core ≤ k.rotating.length || k.freeBerth.isSome || k.ballastBerth.isSome then s
    else match minBy (fun x : Nat × Ctx => x.2.since) (k.residents fun c => s.ctxReady core c && c.movable) with
    | none => s
    | some (b, c) => s.setCore core { k.swapOut b c with rotating := k.rotating ++ [b] })

/-! ### Power states -/

/-- A context of the core that is ready or PENDING. -/
def Core.working (k : Core) : Bool :=
  !(k.residents fun c => c.status == .runnable || c.status == .pending).isEmpty || k.berths.any fun b => b.2.moving

/-- A per-core engine holds an operation in progress. -/
def State.coreEngineBusy (s : State) (core : Nat) : Bool :=
  [2, 3, 4, 5].any fun cls => (s.engine cls core).current.isSome

/-- The conditions of R546 for SLEEP, but for their duration. -/
def State.maySleep (s : State) (core : Nat) : Bool :=
  !(s.core core).working && !s.coreEngineBusy core && (s.engine 1 (s.posOf core)).running.isNone && !s.laneReady core

/-- Something wakes the core (R547): a held event, or work that is due. -/
def State.wakeDue (s : State) (core : Nat) : Bool :=
  let k := s.core core
  k.wakeHeld || (s.jobRuns core && (k.working || !k.swapQueue.isEmpty ||
    (k.evictOwed != 0 && !(k.residents fun c => c.status.blocked && c.movable).isEmpty) || s.laneReady core ||
    [2, 3, 4, 5].any fun cls => (s.engine cls core).queue.any fun d => s.descEligible d))

/-- CORE_SLEEP, after 64 idle fabric cycles (R546). -/
def execCoreSleep (core : Nat) (s : State) : Outc :=
  .next (if s.live && s.jobRuns core && (s.core core).power == .run && s.maySleep core && decide (64 ≤ (s.core core).idle) then
      s.updCore core fun k => { k with power := .sleep, idle := 0 }
    else s)

/-- CORE_DEEP: DEEP_DELAY has passed in SLEEP and the Span queue of the core's job is empty (R546, R548). -/
def execCoreDeep (core : Nat) (s : State) : Outc :=
  .next (
    let pos := s.posOf core
    if s.live && s.jobRuns core && (s.core core).power == .sleep && !s.wakeDue core &&
        (s.job pos).man.deepLog2 != 0xFF && decide (2 ^ (s.job pos).man.deepLog2 ≤ (s.core core).idle) &&
        (s.engine 1 pos).queue.isEmpty then
      s.updCore core fun k => { k with power := .deep, idle := 0, tlb := [], tlbLarge := [], walks := [] }
    else s)

/-- CORE_WAKE: the core reaches RUN and acts on the held event (R547). -/
def execCoreWake (core : Nat) (s : State) : Outc :=
  .next (if s.live && (s.core core).power != .run && s.wakeDue core then
      s.updCore core fun k => { k with power := .run, wakeHeld := false, idle := 0 }
    else s)

/-- PLL_LOCK_TIMEOUT: an array PLL did not lock within 6 µs of a wake from DEEP; its core is reported and the device enters
FAULTED (R38, R586). -/
def execPllLockTimeout (core : Nat) (s : State) : Outc :=
  .next (if s.live && (s.core core).power == .deep && s.wakeDue core then
      (s.updCore core fun k => { k with pllFailed := true }).enterFaulted 7 E.uncorrectable 0 0xFFFFFFFF core
    else s)

end Sys2Proof.Machine
end

