-- ==== Sys2Proof/Machine/CompMoor.lean ====
section
/-! DEFINITION. The compression and mooring engines and the descriptors that firmware issues to them (R32, R248 to R254, R281 to R284, R355,
R356, R366, R398). -/

namespace Sys2Proof.Machine

/-! ### Firmware's descriptors -/

/-- A descriptor that firmware issues: physical addresses, the device account (R248, R398). AUX_ADDR = 0 gives the auxiliary fields their
defaults (R251). The main job's counters are those it names (log 105, DESIGN CHOICE, safe). -/
def fwDesc (raw aux : List Byte) : Desc :=
  { raw := raw, aux := if fld raw 56 8 = 0 then [] else aux, core := 0, pos := 0, issuer := .firmware, account := 512, serial := 0
    stream := 0, draw := 0, cap := 0, started := false, progress := 0, waiting := [], operands := [], part := Part.start, fetch := []
    tie := 0, mate := none }

/-- An address range that exists for firmware: DRAM, scratchpad, the flash tier with the mooring store (R313, R368). -/
def implemented (a n : Nat) : Bool :=
  n == 0 || within a n 0 dramEnd || within a n spBase spSize || within a n flashBase (flashEnd - flashBase) ||
  within a n storeBase 0x2000000000

/-- The header checks of R629 on a firmware descriptor: its operation, its reserved bits, the counters of the main job; it belongs to no
group (log 105, DESIGN CHOICE, safe). -/
def State.fwHeader (s : State) (d : Desc) (op : Nat) : List (Bool × Code) :=
  let ctr (id : Nat) : Bool := ctrOk 0 id && (s.job 0).st != .none
  [ (d.raw.length != 64 || d.opcode != op, E.argFormat)
  , (decide (3 < fld d.raw 3 1) || fld d.raw 12 4 != 0, E.argFormat)
  , ((d.depEn || d.hold) && !ctr d.depCtr, E.argRange)
  , (fld d.raw 6 2 != 0xFFFF && !ctr (fld d.raw 6 2), E.argRange) ]

/-- The common checks of R250 on a firmware descriptor: reserved fields, INST and counts, addresses that exist and operands that do not
overlap, alignment. -/
def Desc.fwCommon (d : Desc) (insts : Nat) (reserved counts : Bool) (es : List Ext) : List (Bool × Code) :=
  let es := es ++ d.statusExt
  [ (reserved || fld d.aux 8 56 != 0, E.argFormat)
  , (counts || (decide (insts ≤ fld d.raw 16 1) && fld d.raw 16 1 != 0xFF), E.argRange)
  , ((es.any fun e => !implemented e.addr e.n) || clashes es, E.argRange)
  , (fld d.raw 56 8 % 64 != 0 || es.any fun e => e.addr % e.align != 0, E.argAlign) ]

/-- Interrupt source of a compression or mooring engine: completion or error (R550). -/
def fwSource (cls num : Nat) : Nat := if cls = 6 then 236 + num else 232 + num

/-- A completion or an error is reported to firmware (R248, R550); where its code stands is log 91, DEDUCED, safe. -/
def State.fwReport (s : State) (cls num : Nat) (c : Code) : State :=
  (s.updEngine cls num fun e => { e with report := c }).setInput (fwSource cls num) true

/-- Firmware issues a descriptor to an instance: one that fails a check is reported and does not start (R248); a full queue takes none;
an accepted one takes an entry (R249). -/
def State.fwIssue (s : State) (cls num : Nat) (d : Desc) (bad : Code) : State :=
  let named := fld d.raw 16 1
  if bad ≠ E.ok then s.fwReport cls num bad
  else if (named ≠ 0xFF ∧ named ≠ num) ∨ queueCap cls ≤ (s.engine cls num).queue.length then s
  else
    let s := (s.updMs fun m => { m with serial := m.serial + 1 }).updEngine cls num fun e =>
      { e with queue := e.queue ++ [{ d with serial := s.ms.serial }], gated := false, idleRun := 0 }
    s.updEngine cls num fun e => s.refresh e

/-- A firmware operation ends: its status record at a physical address, then DONE_CTR, then the entry frees (R249, R251); firmware hears
of it. -/
def State.fwDone (s : State) (cls num : Nat) (d : Desc) (e : Ending) : State :=
  let s := if d.statusAddr = 0 then s else s.poke d.statusAddr e.bytes
  ((s.freeEntry cls num d.serial).doneCtr d).fwReport cls num e.err

/-- A crossing holds a granule of these ranges at its home (R296, R299). -/
def State.rangesHeld (s : State) (rs : List (Nat × Nat)) : Bool := rs.any fun r => s.rangeHeld r.1 r.2

/-- A firmware engine reads a physical range: the errors that it finds there take effect (R236, R319), and no bytes come from an
uncorrectable word. -/
def Acc.physRead (a : Acc) (pa n : Nat) : Option (List Byte) × Acc :=
  let f := splitFinds a.finds [(pa, n)]
  let s := a.s.meetFinds f.1
  (if s.ms.poisoned pa n then none else some (rdBytes s.ms.mem pa n), { a with s := s, finds := f.2 })

/-- The operation ends with a code. -/
def Acc.fail (a : Acc) (c : Code) : Acc := { a with part := { a.part with err := c } }

/-- How a firmware operation runs: its units (R254), what one does, the ranges it writes, and its status. -/
structure FwOp where
  units : Desc → Nat
  unit : Desc → Nat → Acc → Acc
  writes : Desc → List (Nat × Nat)
  ending : Part → Ending

/-- Runs the next units of the running operation, and completes it after the last or at an error (R252, R254). It waits while a
crossing holds what it writes (R296, R299). -/
def State.fwRun (s : State) (cls op : Nat) (r : EngRun) (o : FwOp) : State :=
  match s.runningOp cls r.num op with
  | none => s
  | some d =>
    if s.rangesHeld (o.writes d ++ if d.statusAddr = 0 then [] else [(d.statusAddr, 16)]) then s
    else
      let n := Nat.min (o.units d - d.progress) r.units
      let a := ((List.range n).map fun k => d.progress + k).foldl (fun (a : Acc) k => if a.part.err = E.ok then o.unit d k a else a)
        { s := s, part := d.part, finds := r.finds }
      if a.part.err = E.ok ∧ d.progress + n < o.units d then
        a.s.saveDesc cls r.num d.serial fun d => { d with progress := d.progress + n, part := a.part }
      else a.s.fwDone cls r.num d (o.ending a.part)

/-- A command of a firmware engine: a descriptor that firmware issues with it, if any, is offered to the instance, an idle instance
chooses (R249, R402), and the running operation goes on (log 62, DESIGN CHOICE, safe). -/
def State.fwCommand (s : State) (cls op : Nat) (r : EngRun) (raw aux : List Byte) (account : Desc → Nat) (bad : Desc → Code) (o : FwOp) : State :=
  if !s.live then s
  else
    let d := fwDesc raw aux
    let s := if raw.isEmpty then s else s.fwIssue cls r.num { d with account := account d } (bad d)
    (s.chooseEngine cls r.num).fwRun cls op r o

/-! ### Compression (R281, R282) -/

def Desc.cBytes (d : Desc) : Nat := fld d.raw 20 4
def Desc.cSrc (d : Desc) : Nat := fld d.raw 24 8
def Desc.cDst (d : Desc) : Nat := fld d.raw 32 8
def Desc.cCap (d : Desc) : Nat := fld d.raw 40 4

/-- The checks on a compression descriptor, in order (R250, R281, R629). -/
def State.compBad (s : State) (op : Nat) (d : Desc) : Code :=
  firstBad (s.fwHeader d op ++ d.fwCommon 8 (fld d.raw 17 3 != 0 || fld d.raw 44 12 != 0)
    (op == 0x0601 && d.cBytes != 65536 && d.cBytes != 2097152)
    [{ addr := d.cSrc, n := d.cBytes, align := 1, rd := true }, { addr := d.cDst, n := d.cCap, align := 1, wr := true }])

/-- The whole page is one unit: its source is read, its output of at most DST_CAP bytes written; DETAIL is the length (R254, R281,
R282). -/
def compUnit (f : List Byte → Option (List Byte)) (d : Desc) (_ : Nat) (a : Acc) : Acc :=
  match a.physRead d.cSrc d.cBytes with
  | (none, a) => a.fail E.uncorrectable
  | (some bs, a) => match f bs with
    | none => a.fail E.uncorrectable
    | some out =>
      if d.cCap < out.length then a.fail E.noSpace
      else { a with s := a.s.poke d.cDst out, part := { a.part with first := some out.length } }

def compOp (f : List Byte → Option (List Byte)) : FwOp :=
  { units := fun _ => 1, unit := compUnit f, writes := fun d => [(d.cDst, d.cCap)], ending := Part.ending }

/-- COMP_PAGE (R281, R282). -/
def execCompPage (eng : EngRun) (desc aux : List Byte) (s : State) : Outc :=
  .next (s.fwCommand 6 0x0601 eng desc aux (fun _ => 512) (s.compBad 0x0601) (compOp fun bs => some (zstdFrame bs)))

/-- DECOMP_PAGE: a malformed frame or a failing checksum ends it with E_UNCORRECTABLE (R282). -/
def execDecompPage (eng : EngRun) (desc aux : List Byte) (s : State) : Outc :=
  .next (s.fwCommand 6 0x0602 eng desc aux (fun _ => 512) (s.compBad 0x0602) (compOp zstdPage))

/-! ### Moorings (R283, R284) -/

def Desc.mDst (d : Desc) : Nat := fld d.raw 32 8
def Desc.mPte (d : Desc) : Nat := fld d.raw 40 8
def Desc.mEpoch (d : Desc) : Nat := fld d.raw 48 4

/-- The source and destination of a mooring operation (R283). -/
def Desc.moorExts (d : Desc) (op : Nat) : List Ext :=
  let pages := d.mCount * d.mPage
  let x (n align : Nat) (m : Nat) (dalign : Nat) : List Ext :=
    [{ addr := d.mSrc, n := n, align := align, rd := true }, { addr := d.mDst, n := m, align := dalign, wr := true }]
  match op with
  | 0x0703 => x (8 * d.mCount) 8 (8 * d.mCount) 8
  | 0x0704 => x d.mCount 1 64 1
  | _ => x pages 1 pages 1

/-- The checks on a mooring descriptor, in order (R250, R283, R629); the entry that MOOR_VERSION names is 16 bytes (R321). -/
def State.moorBad (s : State) (op : Nat) (d : Desc) : Code :=
  firstBad (s.fwHeader d op ++ d.fwCommon 4 (decide (1 < fld d.raw 17 1) || fld d.raw 18 2 != 0 || fld d.raw 52 4 != 0)
    (op == 0x0702 && d.mCount != 1)
    (d.moorExts op ++ if op = 0x0702 then [{ addr := d.mPte, n := 16, align := 16, rd := true }] else []))

/-- The account of a page copy: the group of the write that the copy holds, else the device account (R355, R398). -/
def State.copyAccount (s : State) (d : Desc) : Nat := (s.heldWriter d.mSrc (d.mCount * d.mPage)).getD 512

/-- Copies one page between physical addresses. -/
def State.copyPage (s : State) (src dst n : Nat) : State :=
  let s := s.conflictRange dst n
  { s with ms := { (s.ms.cleared dst n) with mem := copyCells s.ms.mem src dst n } }

/-- A page of the open mooring is in the staging area: it counts as staged and, when it is not versioned, its MGEN is the
generation (R355, R363). A frame kept for the mooring of an ended job is released (R365). -/
def State.markStaged (s : State) (src dst : Nat) : State :=
  match s.moor.pages.find? fun p => p.slot == dst && !p.staged with
  | none => s
  | some p =>
    let s := { s with moor := { s.moor with pages := updWhere (fun q => q.slot == dst) (fun q => { q with staged := true }) s.moor.pages } }
    if (s.job 0).st = .none then
      s.updMs fun m => { m with frames := m.frames.filter fun f => !(f.base == src && f.use == .version 0) }
    else if p.versioned || p.frame != src then s
    else s.updJob 0 fun j => { j with prot := tupd Prot.reset p.page (fun x => { x with mgen := s.moor.gen }) j.prot }

/-- STAGING goes on: MOOR_HOLD of the mooring's epoch clears when its last versioned page is staged, and WRITING begins when
every page is (R363). -/
def State.settleMoor (s : State) : State :=
  if s.moor.st ≠ .staging then s
  else
    let left := s.moor.pages.filter fun p => !p.staged
    let s := if left.any fun p => p.versioned then s
      else s.updJob 0 fun j => { j with epochs := j.epochs.map fun e => if e.epoch == s.moor.epoch then { e with moorHold := false } else e }
    if left.isEmpty then { s with moor := { s.moor with st := .writing } } else s

/-- One page of MOOR_COPY: a consistent snapshot (R284). -/
def copyUnit (d : Desc) (i : Nat) (a : Acc) : Acc :=
  let src := d.mSrc + i * d.mPage
  let dst := d.mDst + i * d.mPage
  match a.physRead src d.mPage with
  | (none, a) => a.fail E.uncorrectable
  | (some _, a) => { a with s := ((a.s.copyPage src dst d.mPage).markStaged src dst).settleMoor }

/-- MOOR_COPY: COUNT consecutive pages (R283, R284). -/
def execMoorCopy (eng : EngRun) (desc aux : List Byte) (s : State) : Outc :=
  .next (s.fwCommand 7 0x0701 eng desc aux s.copyAccount (s.moorBad 0x0701)
    { units := Desc.mCount, unit := copyUnit, writes := fun d => [(d.mDst, d.mCount * d.mPage)], ending := Part.ending })

/-- The versioned page whose page-table entry a MOOR_VERSION names, when its build has not written it yet, its live frame is the source, a
version frame of it that holds no live epoch the destination, and EPOCH the current epoch: position, page, frame (R355). -/
def State.versionPage (s : State) (d : Desc) : Option (Nat × Nat × Nat) :=
  (List.range 2).findSome? fun pos =>
    let j := s.job pos
    match j.pageAt d.mPte with
    | none => none
    | some (k, e) => match moorIndex k 0 j.man.moorSet with
      | some (_, _, true) =>
        let p := tget Prot.reset k j.prot
        let into (f : Nat) : Bool := j.verFrame k e.large f == d.mDst && p.spare f j.oldestLive j.current
        if e.frame ≠ d.mSrc ∨ e.large ≠ d.mLarge ∨ d.mEpoch ≠ j.current % 2 ^ 32 ∨ p.lastw = (j.current + 1) % 2 ^ 32 then none
        else if into 0 then some (pos, k, 0) else if into 1 then some (pos, k, 1) else none
      | _ => none

/-- A protection entry after a copy into frame `f` in epoch `e` (R355). -/
def Prot.versioned (x : Prot) (f e : Nat) : Prot :=
  let b := (e + 1) % 2 ^ 32
  if f = 0 then { x with from0 := x.lastw, to0 := e, v0 := true, lastw := b }
  else { x with from1 := x.lastw, to1 := e, v1 := true, lastw := b }

/-- The ordinal of a page at a physical address: its position in the mooring order of the open mooring, or of the main job's mooring set;
a page of neither has its position in the list (R366; log 92, DESIGN CHOICE, unsafe). -/
def State.ordinalOf (s : State) (a i : Nat) : Nat :=
  match s.moor.pages.find? fun p => p.slot == a || p.frame == a with
  | some p => p.ordinal
  | none =>
    let j := s.job 0
    match j.pages.findSome? fun e => if e.2.frame = a then (moorIndex e.1 0 j.man.moorSet).map Prod.fst else none with
    | some n => n
    | none => i

/-- The PAGE_VERSION crossing of a page: version-table entry, page-table granule, TLB set (R288); its counts are the version references,
with the page's ordinal (R585). -/
def versionCross (pos page ordinal : Nat) (err : XErr) : Cross :=
  { reads := [], wset := [.protect pos page, .pte pos page, .tlb pos page], err := err, laws := 1#11 <<< 8, loc := ordinal }

/-- MOOR_VERSION copies a page into a version frame and commits its PAGE_VERSION crossing (R283, R312, R355, R356); one that aborts leaves
the page-table entry as it was, and the operation ends with its code (R300). -/
def versionUnit (err : XErr) (d : Desc) (_ : Nat) (a : Acc) : Acc :=
  match a.s.versionPage d with
  | none => a.fail E.argRange
  | some (pos, page, f) => match a.physRead d.mSrc d.mPage with
    | (none, a) => a.fail E.uncorrectable
    | (some _, a) =>
      let x := versionCross pos page (a.s.ordinalOf d.mSrc 0) err
      let s := a.s.copyPage d.mSrc d.mDst d.mPage
      if s.freeFwEntry.isNone then ({ a with s := s.xingFull } : Acc).fail E.xingFull
      else if err = .validation || x.wset.any s.entBad then ({ a with s := s } : Acc).fail E.uncorrectable
      else { a with s := s.cross x (fun _ s => s) fun s =>
        (s.updJob pos fun j => { j with prot := tupd Prot.reset page (fun x => x.versioned f d.mEpoch) j.prot }).setPte pos page fun e => e }

/-- MOOR_VERSION (R283, R355, R356); it waits while another crossing holds an entry of its crossing (R296, R299). -/
def execMoorVersion (eng : EngRun) (desc aux : List Byte) (s : State) : Outc :=
  let held : Bool := match (s.runningOp 7 eng.num 0x0702).bind s.versionPage with
    | some (pos, page, _) => s.heldByXing (versionCross pos page 0 eng.xing).wset
    | none => false
  .next (s.fwCommand 7 0x0702 (if held then { eng with units := 0 } else eng) desc aux s.copyAccount (s.moorBad 0x0702)
    { units := fun _ => 1, unit := versionUnit eng.xing, writes := fun d => [(d.mDst, d.mPage), (d.mPte, 16)], ending := Part.ending })

/-- P and K of R366. -/
def digestP : Nat := 2 ^ 64 - 59
def digestK : Nat := 0x9E3779B97F4A7C15

/-- Words of a page folded into the digest (R366). -/
def digestWords : List Byte → Nat → Nat
  | b0 :: b1 :: b2 :: b3 :: b4 :: b5 :: b6 :: b7 :: r, h =>
    digestWords r ((h * digestK + leNat [b0, b1, b2, b3, b4, b5, b6, b7] % digestP) % digestP)
  | _, h => h

/-- The page digest (R366). -/
def pageDigest (ordinal : Nat) (page : List Byte) : Nat := digestWords page (ordinal % digestP)

/-- One page of MOOR_DIGEST: the list names it, and its digest is written. A page that does not exist ends the operation with E_ARG_RANGE
(R4, R250; log 92, DESIGN CHOICE, unsafe). -/
def digestUnit (d : Desc) (i : Nat) (a : Acc) : Acc :=
  match a.physRead (d.mSrc + 8 * i) 8 with
  | (none, a) => a.fail E.uncorrectable
  | (some l, a) =>
    let page := leNat l
    if !implemented page d.mPage then a.fail E.argRange
    else match a.physRead page d.mPage with
      | (none, a) => a.fail E.uncorrectable
      | (some bs, a) => { a with s := a.s.poke (d.mDst + 8 * i) (leBytes 8 (pageDigest (a.s.ordinalOf page i) bs)) }

/-- MOOR_DIGEST: the page digests of COUNT listed pages, in the order of the list (R283, R366). -/
def execMoorDigest (eng : EngRun) (desc aux : List Byte) (s : State) : Outc :=
  .next (s.fwCommand 7 0x0703 eng desc aux (fun _ => 512) (s.moorBad 0x0703)
    { units := Desc.mCount, unit := digestUnit, writes := fun d => [(d.mDst, 8 * d.mCount)], ending := Part.ending })

/-- Bytes of MOOR_SHA512 in one unit (R254). -/
def shaChunk : Nat := 0x100000

/-- The hash value so far; it starts at the initial value. -/
def Part.hash (p : Part) : List W64 := if p.band.isEmpty then shaInit else p.band.map fun n => BitVec.ofNat 64 n

/-- One MiB of MOOR_SHA512: its blocks are hashed; the last unit pads the message and writes the digest (FIPS 180-4). -/
def shaUnit (d : Desc) (i : Nat) (a : Acc) : Acc :=
  let n := Nat.min shaChunk (d.mCount - i * shaChunk)
  let last := decide (d.mCount ≤ (i + 1) * shaChunk)
  match a.physRead (d.mSrc + i * shaChunk) n with
  | (none, a) => a.fail E.uncorrectable
  | (some bs, a) =>
    let m := if last then (shaPad (List.replicate (d.mCount - n) 0 ++ bs)).drop (d.mCount - n) else bs
    let h := shaBlocks shaK (m.length / 128) a.part.hash m
    if last then { a with s := a.s.poke d.mDst (h.flatMap fun w => beBytes 8 w.toNat) }
    else { a with part := { a.part with band := h.map BitVec.toNat } }

/-- MOOR_SHA512: the SHA-512 digest of COUNT bytes (R283). -/
def execMoorSha512 (eng : EngRun) (desc aux : List Byte) (s : State) : Outc :=
  .next (s.fwCommand 7 0x0704 eng desc aux (fun _ => 512) (s.moorBad 0x0704)
    { units := fun d => Nat.max 1 (ceilDiv d.mCount shaChunk), unit := shaUnit, writes := fun d => [(d.mDst, 64)], ending := Part.ending })

end Sys2Proof.Machine
end

