-- ==== Sys2Proof/Machine/FlashCtl.lean ====
section
/-! DEFINITION. The flash translation layer (R326 to R330, R339 to R342, R575), residency (R333, R336), and the scrubbers and
the bridge (R23, R238, R320). -/

namespace Sys2Proof.Machine

/-! ### Blocks and programming (R326, R328, R329) -/

def numBlocks : Nat := 524288
/-- NAND pages of a block. -/
def blockPages : Nat := 1024

def Flash.blk (f : Flash) (b : Nat) : Blk := tget Blk.fresh b f.blocks

/-- A mapped unit or a page of a compressed frame stands in the block. -/
def Flash.holdsData (f : Flash) (b : Nat) : Bool := f.map.any fun e => (e.2 - 1) / blockPages == b

/-- A block's state follows its content (R583): valid, or invalid once everything in it is stale. -/
def Flash.settleBlk (f : Flash) (b : Nat) : Flash :=
  f.updBlk b fun k => match k.st with
    | .valid => if f.holdsData b then k else { k with st := .invalid }
    | .invalid => if f.holdsData b then { k with st := .valid } else k
    | _ => k

/-- The first block number that the table does not list. -/
def firstGap : Nat → Tbl Blk → Nat
  | n, [] => n
  | n, (k, _) :: r => if k = n then firstGap (n + 1) r else n

/-- The free block of lowest erase count (R328). -/
def Flash.freshBlock (f : Flash) : Option Nat :=
  let gap := firstGap 0 f.blocks
  let listed := minBy (fun e : Nat × Blk => e.2.erases) (f.blocks.filter fun e => e.2.st == .free)
  match listed with
  | some (b, k) => if gap < numBlocks ∧ 0 < k.erases then some gap else some b
  | none => if gap < numBlocks then some gap else none

/-- The block that takes the next `n` NAND pages: the open one while they fit, else a free one. -/
def Flash.openFor (f : Flash) (n : Nat) : Option (Nat × Flash) :=
  let next : Option (Nat × Flash) := match f.freshBlock with
    | none => none
    | some b => some (b, { (f.updBlk b (fun k => { k with st := .valid, used := 0 })) with openBlock := some b })
  match f.openBlock with
  | some b => if (f.blk b).used + n ≤ blockPages ∧ (f.blk b).st ≠ .bad then some (b, f) else next
  | none => next

/-- The tier can take `n` more NAND pages. -/
def Flash.room (f : Flash) (n : Nat) : Bool := (f.openFor n).isSome

/-- NAND pages that can be programmed before a block is erased. -/
def Flash.freePages (f : Flash) : Nat :=
  let left := match f.openBlock with
    | some b => if (f.blk b).st == .bad then 0 else blockPages - (f.blk b).used
    | none => 0
  left + blockPages * (numBlocks - (f.blocks.filter fun e => e.2.st != .free).length)

/-- Maps units to `n` NAND pages programmed from the block's next page on; the blocks they leave settle. With `spread` each
unit takes the next page, otherwise all name the first (R341). -/
def Flash.program (f : Flash) (units : List Nat) (n : Nat) (spread : Bool) : Flash :=
  match f.openFor n with
  | none => f
  | some (b, f) =>
    let page := b * blockPages + (f.blk b).used
    let old := (units.map fun u => tget 0 u f.map).filter fun p => p != 0
    let f := f.updBlk b fun k => { k with used := k.used + n, st := .valid }
    let f := (units.zip (List.range units.length)).foldl (fun f u => f.setMap u.1 (page + (if spread then u.2 else 0) + 1)) f
    old.foldl (fun f p => f.settleBlk ((p - 1) / blockPages)) f

/-- Everything mapped in a block is programmed elsewhere; compressed pages keep one start (R329, R341). -/
def Flash.moveAll (f : Flash) (b : Nat) : Flash :=
  let here := (f.map.filter fun e => (e.2 - 1) / blockPages == b).map Prod.fst
  let packed := dedupNat ((here.map fun u => u / 4).filter f.packed)
  let f := packed.foldl (fun f p => f.program ((List.range 4).map (unitOf p)) (ceilDiv (tget 0 p f.sizes) 0x4000) false) f
  (here.filter fun u => !packed.contains (u / 4)).foldl (fun f u => f.program [u] 1 true) f

/-- A program of `n` NAND pages fails: its block is bad, and what stood in it is programmed elsewhere (R329). -/
def Flash.retire (f : Flash) (n : Nat) : Flash :=
  match f.openFor n with
  | none => f
  | some (b, f) => ({ (f.updBlk b fun k => { k with st := .bad }) with openBlock := none } : Flash).moveAll b

/-- Programs of `n` NAND pages that fail before one succeeds (R329). -/
def Flash.failing (f : Flash) (n : Nat) : Nat → Flash
  | 0 => f
  | k + 1 => (f.retire n).failing n k

/-! ### Free spare (R339, R342) -/

/-- NAND pages of good blocks, and those that hold valid data (R339). -/
def Flash.goodPages (f : Flash) : Nat := (numBlocks - (f.blocks.filter fun e => e.2.st == .bad).length) * blockPages
def Flash.validPages (f : Flash) : Nat :=
  f.map.length - f.sizes.foldl (fun n e => n + (4 - ceilDiv e.2 0x4000)) 0

/-- Free spare is below `pct` per cent. -/
def Flash.below (f : Flash) (pct : Nat) : Bool := decide ((f.goodPages - f.validPages) * 100 < pct * f.goodPages)

/-- The actions of R339 and the one report of R342 after a change of free spare. -/
def State.spareCheck (s : State) : State :=
  let f := s.ms.flash
  let s := s.updFlash fun f => { f with fallback := f.below 8 || (f.below 10 && f.fallback) }
  if f.below 2 ∧ !f.wornSent then
    (s.updFlash fun f => { f with wornSent := true }).evFault E.flashWorn {}
  else s

/-! ### Pools (R333, R334) -/

/-- Frames of the job's cache pool on a stack. -/
def State.poolFrames (s : State) (pos stack : Nat) : List Nat :=
  s.ms.frames.flatMap fun f => if f.use == .pool pos && stackOf f.base == stack
    then (List.range (f.size / 0x10000)).map fun i => f.base + 0x10000 * i else []

def Job.holdsFrame (j : Job) (a : Nat) : Bool := j.pages.any fun e => e.2.flash && e.2.resident && e.2.frame == a

/-- Free frames of a pool. -/
def State.freePool (s : State) (pos stack : Nat) : List Nat :=
  (s.poolFrames pos stack).filter fun a => !(s.job pos).holdsFrame a

/-- The frame for a fault-in: from the preferred stack, else from the other (R333). -/
def State.frameFor (s : State) (pos stack : Nat) : Option Nat :=
  match (s.freePool pos stack).head? with
  | some a => some a
  | none => (s.freePool pos (1 - stack)).head?

/-- A page that the sweep could drop without writing back (R334). -/
def State.evictable (s : State) (pos : Nat) : Bool :=
  (s.job pos).pages.any fun e => e.2.flash && e.2.resident && !e.2.pin && e.2.dirty == 0

/-! ### Fault-in (R330, R333, R342) -/

/-- The page's content enters its frame: resident, clean (R333, R335). Crossings that hold granules of the frame meet the write (R298). -/
def State.makeResident (s : State) (pos page frame : Nat) : State :=
  match (s.job pos).pages.find? fun e => e.1 == page with
  | none => s
  | some (_, e) =>
    let s := (s.conflictRange frame 0x10000).spanGuard frame 0x10000
    let s := { s with ms := { (s.ms.cleared frame 0x10000) with mem := copyCells s.ms.mem (flashAddr e.flashPage) frame 0x10000 } }
    let s := s.setPte pos page fun q => { q with resident := true, frame := frame, dirty := 0 }
    s.touch (some (page, { e with frame := frame }))

/-- Threads that wait for a page (R163). -/
def State.pageWaiters (s : State) (pos page : Nat) : List Nat :=
  s.threadsWhere pos fun c => c.status == .blockedPage && c.wait.object == page * 0x10000

/-- The operations of a job, with their engines; firmware's own belong to no job (R248). -/
def State.jobDescs (s : State) (pos : Nat) : List (Nat × Nat × Desc) :=
  s.engines.flatMap fun e => (e.queue.filter fun d => d.issuer != .firmware && d.pos == pos).map fun d => (e.cls, e.num, d)

/-- A fault-in fails: threads and stores that wait on the page fault, operations that wait on it end with the code (R330,
R342). -/
def State.failPage (s : State) (pos page : Nat) (code : Code) : State :=
  let touches (va n : Nat) : Bool := match s.spanOf pos va n false with
    | .absent ps => ps.contains page
    | _ => false
  let descs := s.jobDescs pos
  let lost := s.ms.stores.filter fun p => p.pos == pos && !isScratch p.va && p.va / 0x10000 == page
  let waiters := s.pageWaiters pos page
  let s := s.updMs fun m => { m with stores := m.stores.filter fun p => !lost.contains p }
  let s := descs.foldl (fun s x =>
    let (cls, num, d) := x
    let fail (s : State) : State := s.saveDesc cls num d.serial fun d =>
      { d with waiting := [], part := { d.part with err := if d.part.err = E.ok then code else d.part.err } }
    if d.waiting.contains page then fail s
    else if cls = 8 ∧ d.started ∧ (d.opcode = 0x0803 ∨ d.opcode = 0x0804) ∧ touches (d.azLocal + d.progress) (Nat.min 4096 (d.azLen - d.progress)) then
      (fail s).azEnd d.serial
    else if cls = 8 ∧ d.opcode = 0x0812 then
      match s.ringOf d.rgJob with
      | none => s
      | some (k, x) =>
        if touches d.rgIn (128 * d.rgCount) || touches d.rgOut (128 * d.rgCount) || touches d.rgWork (x.workBytes d.rgCount) then
          s.failLap k d.rgBucket code
        else s
    else s) s
  let s := waiters.foldl (fun s tid => match s.thread tid with
    | some c => s.threadFault tid c.pc code
    | none => s) s
  lost.foldl (fun s p => s.threadFault p.tid p.pc code) s

/-- Everything that waits for a page goes on (R163, R333, R343). -/
def State.pageCame (s : State) (pos page : Nat) : State :=
  let s := (s.pageWaiters pos page).foldl (fun s tid => s.wake tid fun c => c) s
  let s := (s.jobDescs pos).foldl (fun s x =>
    if x.2.2.waiting.contains page then
      (s.saveDesc x.1 x.2.1 x.2.2.serial fun d => { d with waiting := d.waiting.filter fun p => p != page }).wakeCore x.2.2.core
    else s) s
  s.rxRetry

/-- FAULT_IN_COMPLETE: with a frame from the pool, the page is read; it becomes resident in a RESIDENCY crossing and its waiters run
again, or its waiters fault (R330, R333). Without a frame the fault-in waits, unless the tier is worn out (R334, R342). Log 61: DESIGN
CHOICE, safe. -/
def execFaultInComplete (pos page : Nat) (r : PageRead) (s : State) : Outc :=
  .next (match s.ms.faultIns.find? fun f => f.pos == pos && f.page == page with
    | none => s
    | some f =>
      let done (s : State) : State := s.updMs fun m => { m with faultIns := m.faultIns.filter fun g => g != f }
      match (s.job pos).pages.find? fun e => e.1 == page with
      | none => done s
      | some (_, e) =>
        if e.resident then done s
        else match s.frameFor pos f.stack with
        | none => if s.ms.flash.below 2 ∧ !s.evictable pos then (done s).failPage pos page E.flashWorn else s
        | some frame =>
          match s.readPage e.flashPage r with
          | (false, s) => ((done s).failPage pos page E.uncorrectable).flashReport false
          | (true, s) => s.cross (pageCross pos page [.unitMap e.flashPage])
              (fun c s => if c = E.xingFull then s else (done s).failPage pos page c)
              (fun s => (((done s).makeResident pos page frame).pageCame pos page).flashReport true))

/-! ### Write-back (R336, R341, R342) -/

/-- Unit u of a page has a DIRTY sub-page. -/
def Pte.unitDirty (e : Pte) (u : Nat) : Bool := (e.dirty >>> (4 * u)) &&& 0xF != 0

/-- WRITE_BACK: one crossing clears the unit's DIRTY bits and copies its 16 KiB into the controller's buffer (R336). Below 2 %
free spare none is accepted (R342). -/
def execWriteBack (pos page unit : Nat) (s : State) : Outc :=
  .next (match (s.job pos).pages.find? fun e => e.1 == page with
    | none => s
    | some (_, e) =>
      if !s.live || 4 ≤ unit || !e.flash || !e.resident || !e.unitDirty unit || s.ms.flash.below 2 ||
          (s.ms.writeBacks.any fun w => w.pos == pos && w.page == page && w.unit == unit) then s
      else s.cross (pageCross pos page []) (fun _ s => s) fun s =>
        let s := s.setPte pos page fun e => { e with dirty := e.dirty &&& ~~~ (0xF#16 <<< (4 * unit)) }
        s.updMs fun m =>
          { m with writeBacks := m.writeBacks ++
              [({ pos := pos, page := page, unit := unit, flashPage := e.flashPage
                  bytes := rdBytes m.mem (e.frame + 0x4000 * unit) 0x4000, serial := m.serial } : WriteBack)]
                   serial := m.serial + 1 })

/-- WRITE_BACK_ACK: the unit is programmed and mapped and its journal entry is in flash (R336). A program failure retires the
block and the buffer is programmed again (R329). A unit of a compressed page takes its page's other units along,
uncompressed (R341). While no block can take the data, it is not acknowledged. -/
def execWriteBackAck (pos page unit : Nat) (programOk : Bool) (s : State) : Outc :=
  .next (match s.ms.writeBacks.find? fun w => w.pos == pos && w.page == page && w.unit == unit with
    | none => s
    | some w =>
      let packed := s.ms.flash.packed w.flashPage
      let units := if packed then (List.range 4).map (unitOf w.flashPage) else [unitOf w.flashPage w.unit]
      if !programOk then ((s.updFlash fun f => f.retire units.length).spareCheck).flashReport false
      else if !s.ms.flash.room units.length then s
      else
        let a := flashAddr w.flashPage + 0x4000 * w.unit
        let s := { s with ms := { (s.ms.cleared a 0x4000) with
          mem := wrBytes s.ms.mem a w.bytes
          writeBacks := s.ms.writeBacks.filter fun v => v != w } }
        let s := s.updFlash fun f =>
          { (f.program units units.length true) with
              sizes := f.sizes.filter (fun e => e.1 != w.flashPage), lifetimeBytes := f.lifetimeBytes + 0x4000 * units.length }
        (s.youngPage w.flashPage).spareCheck.flashReport true)

/-! ### Ages, compression, relocation, wear, erase -/

/-- PAGE_AGE_TICK: every age advances (R340). -/
def execPageAgeTick (s : State) : Outc :=
  .next (if s.live then s.updFlash fun f => { f with ageTicks := f.ageTicks + 1 } else s)

/-- Age of a logical page (R340). -/
def Flash.age (f : Flash) (p : Nat) : Nat := f.ageTicks - tget 0 p f.ages

/-- A page that the fall-back may take: of the exported range (R331, R368), cold, stored whole and uncompressed, not skipped (R340). -/
def State.packable (s : State) (p : Nat) : Bool :=
  let f := s.ms.flash
  decide (flashAddr p < flashEnd) && decide (10 ≤ f.age p) && !f.packed p && decide (tget 0 p f.skip ≤ s.aoc) &&
  (List.range 4).all fun u => tget 0 (unitOf p u) f.map != 0 && !s.ms.flashBad.contains (unitOf p u)

/-- 24 h in AOC counts. -/
def dayAoc : Nat := 2160000000000

/-- COMPRESSION_FALLBACK: the oldest cold page is compressed; its frame is kept when it fits in 48 KiB, and the page is skipped
for 24 h otherwise (R339 to R341). A program that fails retires its block (R329). -/
def execCompressionFallback (page : FlashPut) (s : State) : Outc :=
  .next (
    let f := s.ms.flash
    let older := f.map.any fun e => s.packable (e.1 / 4) && decide (f.age page.num < f.age (e.1 / 4))
    if !s.live || !f.fallback || !s.packable page.num || older then s
    else
      let n := (zstdFrame (rdBytes s.ms.mem (flashAddr page.num) 0x10000)).length
      let k := ceilDiv n 0x4000
      if 49152 < n then s.updFlash fun f => { f with skip := tset 0 page.num (s.aoc + dayAoc) f.skip }
      else
        let g := f.failing k page.fails
        (s.updFlash fun _ =>
          if g.room k then { (g.program ((List.range 4).map (unitOf page.num)) k false) with sizes := tset 0 page.num n g.sizes } else g).spareCheck)

/-- BLOCK_RELOCATION: a block read 100,000 times since its erase, or one that needed a retry, is emptied (R329). -/
def execBlockRelocation (block : FlashPut) (s : State) : Outc :=
  .next (
    let b := block.num
    let k := s.ms.flash.blk b
    if !s.live || k.st != .valid || !(decide (100000 ≤ k.reads) || k.retry) then s
    else (s.updFlash fun f =>
      let f := if f.openBlock = some b then { f with openBlock := none } else f
      ((f.failing 1 block.fails).moveAll b).settleBlk b).spareCheck)

/-- The erase count of the least-worn free block (R328); a block that the table does not list was never erased. -/
def Flash.leastFree (f : Flash) : Nat :=
  if firstGap 0 f.blocks < numBlocks then 0 else lowest ((f.blocks.filter fun e => e.2.st == .free).map fun e => e.2.erases)

/-- WEAR_LEVEL_MOVE: cold data leaves the least-worn block for the free block of lowest erase count while the erase counts of two good
blocks differ by more than 200 (R328). -/
def execWearLevelMove (src : FlashPut) (dst : Nat) (s : State) : Outc :=
  .next (
    let f := s.ms.flash
    let b := src.num
    let good (e : Nat × Blk) : Bool := e.2.st != .bad
    let least := lowest ((f.blocks.filter fun e => e.2.st == .valid).map fun e => e.2.erases)
    let spread := f.blocks.any fun e => good e && decide ((f.blk b).erases + 200 < e.2.erases)
    if !s.live || (f.blk b).st != .valid || (f.blk dst).st != .free || numBlocks ≤ dst || f.leastFree < (f.blk dst).erases || !spread ||
        least < (f.blk b).erases then s
    else (s.updFlash fun f =>
      let keep := if f.openBlock = some b then none else f.openBlock
      let f := { (f.updBlk dst (fun k => { k with st := .valid, used := 0 })) with openBlock := some dst }
      { (((f.failing 1 src.fails).moveAll b).settleBlk b) with openBlock := keep }).spareCheck)

/-- BLOCK_ERASE: an invalid block becomes free (R575), or bad when its erase fails (R329); a block-table entry that can be read nowhere
loses law 9 (R585). -/
def execBlockErase (block : Nat) (bad : EraseErr) (s : State) : Outc :=
  .next (if s.live && bad == .table && decide (block < numBlocks) then s.lostLaw 9 block 0xFFFF
    else if s.live && bad != .table && (s.ms.flash.blk block).st == .invalid then
      (s.updFlash fun f =>
        { (f.updBlk block fun k => if bad = .failed then { k with st := .bad } else { Blk.fresh with erases := k.erases + 1 }) with
            openBlock := if f.openBlock = some block then none else f.openBlock }).spareCheck
    else s)

/-! ### Scrubbers and the bridge -/

/-- Global word index of a core's bank, row and column (R220). -/
def wordOfRow (core bank row col : Nat) : Nat := core * 2 ^ 20 + row * 2 ^ 11 + col * 2 ^ 6 + bank

/-- SCRUB_WORD: the scrubber of a bank reads the next of the bank's 16,640 words, those of the spare rows included (R238). A row in use
answers for a ROW (R239); the word of a row out of use is corrected and counted, and no more. -/
def execScrubWord (core bank idx : Nat) (ecc : Ecc) (s : State) : Outc :=
  .next (
    let b := core * 64 + bank
    if !s.live || 64 ≤ bank || 64 ≤ core || tget 0 b s.ms.scrubAt != idx then s
    else
      let s := s.updMs fun m => { m with scrubAt := tset 0 b ((idx + 1) % 16640) m.scrubAt }
      match s.answers b (idx / 32) with
      | some r => (s.checkRead (spBase + 4 * wordOfRow core bank r (idx % 32)) 4 ecc).2
      | none => match ecc with
        | .clean => s
        | .single => (s.count (0x1300 + 8 * core)).fire 246
        | .double => s.count (0x1500 + 8 * core))

/-- The granule holds part of a valid swap record (R319). -/
def State.inSwapRecord (s : State) (granule : Nat) : Option Nat :=
  [0, 1].findSome? fun pos => (s.job pos).swap.findSome? fun r =>
    if r.2.valid && (s.recordAt r.1 0 576).any fun x => meet x.pa x.n (64 * granule) 64 then some (coreOfTid r.1) else none

/-- The translation map (R317): a poisoned granule of it is reloaded from the map journal (R319). -/
def inTranslationMap (granule : Nat) : Bool := within (64 * granule) 64 0x1760000000 0x80000000

/-- DRAM_PATROL_SCRUB: a granule is read, but not in standby (R319, R320, R544). -/
def execDramPatrolScrub (granule : Nat) (ecc : Ecc) (s : State) : Outc :=
  .next (if !s.live || s.pw.standby || dramEnd / 64 ≤ granule then s
    else if ecc = .double ∧ inTranslationMap granule then s.count (0x1060 + 8 * stackOf (64 * granule))
    else
      let s := (s.checkRead (64 * granule) 64 ecc).2
      match s.inSwapRecord granule with
      | some core => if ecc = .double then s.lostLaw 5 core core else s
      | none => s)

/-- BRIDGE_UNIT_RECEIVE: a unit that fails its CRC is resent; the sixteenth failure in a row is a bridge fault (R23, R586). -/
def execBridgeUnitReceive (toShore : Nat) (crcOk : Bool) (s : State) : Outc :=
  .next (if !s.live then s
    else if crcOk then s.updMs fun m => { m with bridgeRetries := lset m.bridgeRetries toShore 0 }
    else
      let n := s.ms.bridgeRetries.getD toShore 0 + 1
      let s := s.updMs fun m => { m with bridgeRetries := lset m.bridgeRetries toShore n }
      if 16 ≤ n then s.enterFaulted 5 E.uncorrectable 0 0xFFFFFFFF 0xFFFF else s.count 0x1000)

end Sys2Proof.Machine
end

