-- ==== Sys2Proof/Machine/Xings.lean ====
section
/-! DEFINITION. Firmware crossings: the table's firmware entries, the sweep of a cache pool, map-out of marked rows, and their
commit (R242 to R244, R287 to R301, R334, R337). -/

namespace Sys2Proof.Machine

/-! ### The sweep (R334, R337) -/

/-- The index of a pool's clock hand. -/
def handOf (pos stack : Nat) : Nat := 2 * pos + stack

/-- What the hand finds at a frame. -/
inductive Swept where
  | past
  | cleared
  | stop
  | victim (page : Nat)

/-- The page in a frame, as the sweep meets it: free, pinned or waiting for its write-back is passed over; a set reference bit
is cleared; a dirty page stops the hand until it is written back, or is passed over when nothing is accepted (R342). -/
def State.sweptAt (s : State) (pos frame : Nat) : Swept :=
  match (s.job pos).pages.find? fun e => e.2.flash && e.2.resident && e.2.frame == frame with
  | none => .past
  | some (k, e) =>
    if e.pin || (s.ms.writeBacks.any fun w => w.pos == pos && w.page == k) ||
        (s.xings.any fun x => x.2.opener == .evict pos k) then .past
    else if s.ms.refBits.contains frame then .cleared
    else if e.dirty ≠ 0 then (if s.ms.flash.below 2 then .past else .stop)
    else .victim k

/-- The hand goes round until it finds a victim or must stop. -/
def State.sweep (s : State) (pos stack : Nat) (frames : List Nat) : Nat → Option Nat × State
  | 0 => (none, s)
  | n + 1 =>
    let i := s.ms.hands.getD (handOf pos stack) 0 % Nat.max 1 frames.length
    let f := frames.getD i 0
    let on (s : State) : State := s.updMs fun m => { m with hands := lset m.hands (handOf pos stack) ((i + 1) % Nat.max 1 frames.length) }
    match s.sweptAt pos f with
    | .past => State.sweep (on s) pos stack frames n
    | .cleared => State.sweep (on (s.updMs fun m => { m with refBits := m.refBits.filter fun a => a != f })) pos stack frames n
    | .stop => (none, s)
    | .victim k => (some k, on s)

/-- EVICT_SWEEP: while a pool has fewer than 64 free frames, the hand looks for a victim; a clean one is evicted in a RESIDENCY
crossing whose read set holds its entry (R334, R337). -/
def execEvictSweep (pos stack : Nat) (s : State) : Outc :=
  .next (
    let frames := s.poolFrames pos stack
    if !s.live || (s.job pos).st != .running || frames.isEmpty || 64 ≤ (s.freePool pos stack).length then s
    else match s.freeFwEntry with
    | none => s.xingFull
    | some k => match s.sweep pos stack frames (2 * frames.length) with
      | (none, s) => s
      | (some page, s) => s.openXing k (s.newXing (.evict pos page) pos [.pte pos page] [.pte pos page, .tlb pos page, .unitMap (((s.job pos).pte (page * 0x10000)).elim 0 fun e => e.2.flashPage)] 1))

/-! ### Map-out (R241 to R244) -/

/-- A row with the spare that takes it: the number of its physical row times 8, plus the spare. -/
def rowSpare (row spare : Nat) : Nat := row * 8 + spare

/-- Spares of a row's bank that are neither fused, nor in the field map, nor failed in test, nor taken in this crossing (R242). -/
def State.spareOf (s : State) (row : Nat) (taken : List Nat) : List Nat :=
  let b := row / bankRows
  (List.range 8).filter fun i => decide (fusedSpares (b / 64) (b % 64) ≤ i) &&
    !(s.ms.remaps.any fun r => r.core * 64 + r.bank == b && r.spare == i) &&
    bits (tget 0 b s.ms.sparesFailed) i 1 == 0 && !taken.any fun t => t / 8 / bankRows == b && t % 8 == i

/-- What a map-out is to do: rows with their spares, spares that failed their test, rows that stay (R242, R244). -/
structure MapOut where
  rows : List Nat
  failed : List Nat
  unrepaired : List Nat

/-- A row is planned: of its bank's spares the lowest whose test passes; one that fails is skipped (R242). `failing` lists the spares whose
test fails, as 8 times the bank's number plus the spare. -/
def State.planRow (s : State) (failing : List Nat) (m : MapOut) (row : Nat) : MapOut :=
  let b := row / bankRows
  let free := (s.spareOf row m.rows).filter fun i => !m.failed.contains (b * 8 + i)
  let bad := (free.takeWhile fun i => failing.contains (b * 8 + i)).map fun i => b * 8 + i
  if 1024 ≤ s.ms.remaps.length + m.rows.length then { m with unrepaired := m.unrepaired ++ [row] }
  else match free.find? fun i => !failing.contains (b * 8 + i) with
    | some i => { m with rows := m.rows ++ [rowSpare row i], failed := m.failed ++ bad }
    | none => { m with failed := m.failed ++ bad, unrepaired := m.unrepaired ++ [row] }

/-- Spares that failed their test are skipped from now on and counted; rows that no spare or map entry can take stay in use and are counted
as unrepaired (R242, R244). -/
def State.noteRows (s : State) (failed unrepaired : List Nat) : State :=
  let s := failed.foldl (fun (s : State) n =>
    (s.updMs fun m => { m with sparesFailed := tset 0 (n / 8) (tget 0 (n / 8) m.sparesFailed ||| 2 ^ (n % 8)) m.sparesFailed }).count 0x1010) s
  unrepaired.foldl (fun (s : State) row =>
    (s.updMs fun m => { m with marked := m.marked.filter (fun r => r != row), unrepaired := m.unrepaired ++ [row] }).count 0x1018) s

/-- A JOB_START of the position is reading its PIN pages. -/
def State.starting (s : State) (pos : Nat) : Bool :=
  [0, 1].any fun p => match (s.port p).running with
    | some r => r.opcode == Cap.jobStart && r.arg 12 1 == pos
    | none => false

/-- A map-out crossing is open for a position (R243). -/
def State.mapOutOpen (s : State) (pos : Nat) : Bool := s.xings.any fun x => match x.2.opener with
  | .rowMapOut .. => x.2.pos == pos
  | _ => false

/-- The write set of a map-out: remap entries, spare rows, the repair map's record (R288). -/
def mapOutSet (rows : List Nat) : List XEnt :=
  rows.map (fun n => .remap (n / 8)) ++ rows.map (fun n => .spareRow (n / 8 / bankRows) (n % 8)) ++ [.logbook Rec.repairMap]

/-- ROW_MAP_OUT: at a job boundary up to 16 marked rows of the position's cores get spares in one crossing, unless the repair
map was stored less than a second ago or a job is about to start (R241 to R244). Nothing changes before the commit (R295). -/
def execRowMapOut (pos : Nat) (failing : List Nat) (s : State) : Outc :=
  .next (
    let st := (s.job pos).st
    let mine := (s.ms.marked.filter fun r => s.posOf (r / bankRows / 64) == pos).take 16
    if !s.live || !(st == .none || st == .loaded) || s.starting pos || mine.isEmpty || s.logBusy Rec.repairMap ||
        s.mapOutOpen 0 || s.mapOutOpen 1 then s
    else
      let m := mine.foldl (s.planRow failing) { rows := [], failed := [], unrepaired := [] }
      if m.rows.isEmpty then s.noteRows m.failed m.unrepaired
      else match s.freeFwEntry with
        | none => s.xingFull
        | some k => s.openXing k (s.newXing (.rowMapOut m.rows m.failed m.unrepaired) pos [] (mapOutSet m.rows) m.rows.length))

/-- An entry of the field repair map (R244). -/
def Remap.word (r : Remap) : Nat := 2 ^ 31 + r.core * 2 ^ 25 + r.bank * 2 ^ 19 + r.spare * 2 ^ 16 + r.row * 2 ^ 7

/-- The REPAIR_MAP payload (R244, R529). -/
def repairBytes (rs : List Remap) : List Byte := slice (rs.flatMap fun r => leBytes 4 r.word) 0 4096

/-- The field map entry of a row and its spare: the ROW that the row answered for (R244). -/
def State.remapOf (s : State) (n : Nat) : Remap :=
  let b := n / 8 / bankRows
  { core := b / 64, bank := b % 64, spare := n % 8, row := (s.answers b (n / 8 % bankRows)).getD 0 }

/-- The map-out lands: the repair map is stored, the spares answer for their rows, which are no longer marked (R242). A refused store
aborts it (R532). -/
def State.landRows (s : State) (k : Nat) (x : XEntry) (rows failed unrepaired : List Nat) : State :=
  let new := rows.map s.remapOf
  match (s.logRec Rec.repairMap).store s.aoc (repairBytes (s.ms.remaps ++ new)) with
  | (c, r) =>
    if c ≠ E.ok then s.abortXing k c
    else
      let s := (s.landXing k x).setLog Rec.repairMap r
      let s := s.updMs fun m =>
        { m with remaps := m.remaps ++ new, marked := m.marked.filter fun r => !(rows.map fun n => n / 8).contains r }
      (s.countBy 0x1008 rows.length).noteRows failed unrepaired

/-! ### Commit (R296, R298, R301) -/

/-- The page of an eviction can still be dropped (R334, R337). -/
def State.evictsClean (s : State) (pos page : Nat) : Bool := match (s.job pos).pages.find? fun e => e.1 == page with
  | some (_, e) => e.resident && !e.pin && e.dirty == 0
  | none => false

/-- The eviction lands: the page is not resident any more (R337). -/
def State.landEvict (s : State) (k : Nat) (x : XEntry) (pos page : Nat) : State :=
  match (s.job pos).pages.find? fun e => e.1 == page with
  | none => s.landXing k x
  | some (_, e) =>
    let s := (s.landXing k x).setPte pos page fun q => { q with resident := false, frame := 0 }
    s.updMs fun m => { m with refBits := m.refBits.filter fun a => a != e.frame }

/-- The laws whose counts a crossing touches (R301, R585): version references for a step commit. -/
def XOpener.laws : XOpener → BitVec 11
  | .stepCommit _ => 1#11 <<< 8
  | _ => 0

/-- The locator of those laws (R585, R588): 0 for the epoch table. -/
def XOpener.locator : XOpener → Nat
  | .stepCommit _ => 0
  | _ => 0xFFFFFFFF

/-- Validation finds an action's own condition broken (R296): the code. A conflict of an eviction is that its page is dirty again (R337). -/
def State.xingCode (s : State) (x : XEntry) : Code :=
  if (x.reads ++ x.wset).any s.entBad then E.uncorrectable
  else match x.opener with
    | .evict pos page => if s.evictsClean pos page then E.ok else E.xingConflict
    | _ => E.ok

/-- A crossing passes validation: it is COMMITTING, holds its entries, and every crossing that it meets aborts (R296, R298). -/
def State.validated (s : State) (k : Nat) (x : XEntry) : State :=
  (s.updXing k fun x => { x with st := .committing }).beats x.reads x.wset

/-- CROSSING_COMMIT: a firmware crossing begins to commit, with its validation, unless its timeout has run out (R293, R296); once COMMITTING
it lands, in FAULTED too (R312). An uncorrectable entry found in validation aborts it; one found in its own held writes during commit
leaves it half landed, and the device enters FAULTED (R301). Thread crossings, capsule groups and step commits land by commands of
their own. -/
def execCrossingCommit (entry : Nat) (err : XErr) (s : State) : Outc :=
  .next (match s.xing entry with
    | none => s
    | some x =>
      if !s.fwUp || s.timedOut x then s
      else match x.opener with
      | .evict pos page =>
        if x.st = .committing then
          if err = .commit then (s.dropXing entry).enterFaulted 8 E.uncorrectable 0 0xFFFFFFFF 0xFFFF else s.landEvict entry x pos page
        else if err = .validation then s.abortXing entry E.uncorrectable
        else if s.xingCode x ≠ E.ok then s.abortXing entry (s.xingCode x)
        else s.validated entry x
      | .rowMapOut rows failed unrepaired =>
        if x.st = .committing then
          if err = .commit then (s.dropXing entry).enterFaulted 8 E.uncorrectable 0 0xFFFFFFFF 0xFFFF else s.landRows entry x rows failed unrepaired
        else if err = .validation then s.abortXing entry E.uncorrectable
        else s.validated entry x
      | _ => s)

end Sys2Proof.Machine
end

