-- ==== Sys2Proof/Machine/Epochs.lean ====
section
/-! DEFINITION. Step commits (R302, R358 to R361), crossing timeouts (R293, R309), the tide (R369 to R371), and the states of a
mooring (R362 to R368, R632). -/

namespace Sys2Proof.Machine

/-! ### The step request (R358, R359) -/

/-- The page number under which a crossing holds the protection entry of the whole mooring set (R288). -/
def moorSetEntry : Nat := 2 ^ 40

/-- Commit cursors of a step request record. -/
def requestCursors (record : List Byte) : List Nat := (List.range 8).map fun f => fld record (8 * f) 8

/-- A request is refused: a cursor past an open feed's cursor, below the previous commit's, or set for a feed that is not open
(R359). -/
def Job.refusesCursors (j : Job) (cs : List Nat) : Bool :=
  (List.range 8).any fun f =>
    let c := cs.getD f 0
    let x := j.feeds.getD f Feed.closed
    if x.isOpen then decide (x.cursor < c) || decide (c < j.cursors.getD f 0) else c != 0

/-- A step commit ends: its status record, then one more request served, then COMMIT_CTR (R361). -/
def State.stepAnswer (s : State) (d : EpochDecl) (code : Code) (detail : Nat) : State :=
  let s := s.writeJob 0 d.stepStatus (({ err := code, detail := detail } : Ending).bytes)
  let s := s.updJob 0 fun j => { j with reqServed := j.reqServed + 1 }
  s.bumpCtr 0 d.commitCtr

/-- The step commit's crossing. -/
def State.stepXing (s : State) : Option (Nat × XEntry) := s.xings.find? fun e => e.2.opener == .stepCommit 0

/-- A step commit or mooring may act: the main job runs and declares epochs. -/
def State.epochDecl (s : State) : Option EpochDecl :=
  if s.live && (s.job 0).st == .running then (s.job 0).man.epochs else none

/-- The granule of STEP_WORD. -/
def State.stepGranule (s : State) (d : EpochDecl) : List XEnt := match s.xlate 0 d.stepWord false with
  | .phys pa _ => [.granule (pa / 64)]
  | _ => []

/-- STEP_COMMIT: the next request of the main job is served. Its record is read when the commit crossing opens; a refused request
commits nothing (R358 to R360). With no free entry the crossing aborts, and the request is still to be served (R292, R361). A record
with an uncorrectable word ends it with E_UNCORRECTABLE (R361). Log 72: DEDUCED, unsafe. -/
def execStepCommit (s : State) : Outc :=
  .next (match s.epochDecl with
    | none => s
    | some d =>
      if s.stepXing.isSome || (s.ctr 0 d.stepCtr).toNat ≤ (s.job 0).reqServed then s
      else match s.freeFwEntry with
      | none => s.xingFull
      | some k =>
        if s.badRange 0 d.stepReq 64 then s.stepAnswer d E.uncorrectable (2 ^ 64 - 1)
        else
          let record := s.readJob 0 d.stepReq 64
          if (s.job 0).refusesCursors (requestCursors record) then s.stepAnswer d E.argRange (2 ^ 64 - 1)
          else
            let due := s.moor.st == .due
            let wset := XEnt.epochTable :: s.stepGranule d ++ (if due then [.protect 0 moorSetEntry] else [])
            let x := s.newXing (.stepCommit 0) 0 [] wset (if due then 3 else 2)
            s.openXing k { x with writes := [(0, record)], st := if (s.job 0).pinned then .waiting else .opened })

/-! ### The mooring point (R360, R362, R363, R632) -/

/-- First address of a stack's staging area (R317, R526). -/
def State.stagingBase (s : State) (stack : Nat) : Nat :=
  (if stack = 0 then 0x1760000000 else 0x2FE0000000) - s.cfg.moorStaging * 2 ^ 30

/-- The state record (R632). -/
def stateRecord (step : Nat) (cursors : List Nat) (key : List Byte) (streams : List (W64 × W64)) : List Byte :=
  leBytes 8 step ++ (List.range 8).flatMap (fun f => leBytes 8 (cursors.getD f 0)) ++ slice key 0 32 ++
  leBytes 4 streams.length ++ List.replicate 20 0 ++ streams.flatMap fun x => leBytes 8 x.1.toNat ++ leBytes 8 x.2.toNat

/-- The pages of the mooring set with their slots in the staging areas, which fill in mooring order (log 49, DESIGN CHOICE, unsafe). -/
def State.moorPages (s : State) : List MoorPage :=
  let j := s.job 0
  (j.man.moorSet.foldl (fun (a : List MoorPage × Nat × Nat) p =>
    let st := j.man.stackOfPage p.1
    let at' := if st = 0 then a.2.1 else a.2.2
    let n := pageSize p.2.1
    let frame := match j.pte (p.1 * 0x10000) with
      | some e => e.2.frame
      | none => 0
    let m : MoorPage := { ordinal := a.1.length, page := p.1, large := p.2.1, versioned := p.2.2, stack := st, frame := frame
                          slot := at', staged := false }
    (a.1 ++ [m], if st = 0 then at' + n else a.2.1, if st = 0 then a.2.2 else at' + n)) ([], s.stagingBase 0, s.stagingBase 1)).1

/-- The half of the mooring store that the catalogue does not name; half 0 when it names none (R368, log 49, DESIGN CHOICE, unsafe). -/
def State.freeHalf (s : State) : Nat :=
  match (s.logRec Rec.moorCatalogue).payload with
  | some p => if fld p 0 1 = 0 then 1 else 0
  | none => 0

/-- MOOR_PROTECT: generation G + 1 opens on epoch M, whose entry gets MOOR_HOLD (R360). -/
def State.moorProtect (s : State) (epoch : Nat) (cursors : List Nat) : State :=
  let j := s.job 0
  let s := s.updJob 0 fun j =>
    { j with epochs := j.epochs.map fun e => if e.st == .current then { e with moorHold := true } else e }
  { s with moor :=
      { st := .staging, gen := (s.moor.gen + 1) % 2 ^ 32, epoch := epoch, pages := s.moorPages
        stateRec := stateRecord epoch cursors j.key j.streams, digests := none, half := s.freeHalf, time := s.aoc
        tag := j.man.tag, code := 0, owner := j.owner, lastPoint := s.aoc } }

/-! ### Landing of a step commit -/

/-- EPOCH_PUBLISH on the epoch table: E becomes PREVIOUS and E + 1 is CURRENT (R360). -/
def publishEpochs (es : List EpEnt) (e : Nat) : List EpEnt :=
  { epoch := e + 1, st := .current, moorHold := false, slots := 0 } ::
    (es.filter fun x => x.st == .current).map fun x => { x with st := .previous }

/-- STEP_WORD is written at its home; a page of it that awaits a first-write copy makes the commit wait (R355). -/
def State.stepHeld (s : State) (d : EpochDecl) : Bool := match s.xlate 0 d.stepWord true with
  | .phys _ pg => s.needsCopy 0 pg
  | _ => false

/-- The commit's effects; `moors` says that MOOR_PROTECT is among its actions (R302, R349, R360). -/
def State.publishStep (s : State) (d : EpochDecl) (record : List Byte) (moors : Bool) : State :=
  let e := (s.job 0).current
  let cs := requestCursors record
  let s := s.updJob 0 fun j => { j with epochs := publishEpochs j.epochs e, cursors := cs }
  let s := s.writeJob 0 d.stepWord (leBytes 8 (e + 1))
  let s := [0, 1].foldl (fun s p => s.updSpan p Span.clearRecords) s
  if moors && s.moor.st == .due then s.moorProtect (e + 1) cs else s

/-- The request record that a step commit read at its opening. -/
def XEntry.record (x : XEntry) : List Byte := (x.writes.headD (0, [])).2

/-- The step commit ends without landing: its code goes into its status record (R300, R361). -/
def State.stepFails (s : State) (k : Nat) (d : EpochDecl) (code : Code) : State :=
  (s.abortXing k code).stepAnswer d code (2 ^ 64 - 1)

/-- The COMMITTING step commit lands, and its status record follows (R360, R361). -/
def State.landStep (s : State) (k : Nat) (x : XEntry) (d : EpochDecl) : State :=
  let e := (s.job 0).current
  ((s.landXing k x).publishStep d x.record (x.wset.contains (.protect 0 moorSetEntry))).stepAnswer d E.ok (e + 1)

/-- STEP_COMMIT_LAND: once the previous epoch has no references, the step commit is validated, with its request's conditions checked again,
and is COMMITTING; then it lands, after the end of its job too (R294, R296, R302). An uncorrectable entry aborts it in validation, and loses
law 8 in commit (R301, R360, R361). -/
def execStepCommitLand (err : XErr) (s : State) : Outc :=
  .next (match s.stepXing, (s.job 0).man.epochs with
    | some (k, x), some d =>
      if x.st == .committing then
        if err = .commit then (s.dropXing k).enterFaulted 8 E.uncorrectable x.opener.laws x.opener.locator 0xFFFF else s.landStep k x d
      else if s.epochDecl.isNone || s.timedOut x || (s.job 0).pinned || s.stepHeld d then s
      else if err = .validation || (x.reads ++ x.wset).any s.entBad then s.stepFails k d E.uncorrectable
      else if (s.job 0).refusesCursors (requestCursors x.record) then s.stepFails k d E.argRange
      else s.validated k x
    | some (k, x), none => if x.st == .committing then s.landXing k x else s
    | none, _ => s)

/-! ### Crossing timeout (R293, R302, R309) -/

/-- A crossing aborts at its timeout: a step commit is answered E_VERSION_PINNED, and the host of a capsule group gets EV_FAULT with the
handle. -/
def State.timeoutXing (s : State) (entry : Nat) (x : XEntry) : State := match x.opener with
  | .stepCommit _ => match s.epochDecl with
    | none => s.abortXing entry E.versionPinned
    | some d => s.stepFails entry d E.versionPinned
  | .group p h => (s.abortXing entry E.xingTimeout).post p (s.mkEvent 4 0 E.xingTimeout ({ obj := h } : FaultEv).body)
  | _ => s.abortXing entry E.xingTimeout

/-- CROSSING_TIMEOUT: a crossing that has not begun to commit within its timeout, counted from its opening, aborts. -/
def execCrossingTimeout (entry : Nat) (s : State) : Outc :=
  .next (match s.xing entry with
    | none => s
    | some x => if s.timedOut x then s.timeoutXing entry x else s)

/-! ### The tide (R369 to R371) -/

/-- AOC counts of a second. -/
def secAoc : Nat := 25000000

/-- Points of a count against three limits. -/
def pointsAt (n a b c : Nat) : Nat := if c ≤ n then 3 else if b ≤ n then 2 else if a ≤ n then 1 else 0

/-- Times within a window before now. -/
def State.recent (s : State) (window : Nat) (ts : List Nat) : Nat := (ts.filter fun t => decide (s.aoc ≤ t + window)).length

/-- The lower temperature margin in sixteenths of a degree: logic to 105 °C, DRAM to 95 °C (R369). -/
def Power.margin (p : Power) : Int :=
  Min.min (105 * 16 - p.tLogic.toInt) (Min.min (95 * 16 - p.tDram0.toInt) (95 * 16 - p.tDram1.toInt))

/-- Points of the seven inputs, in the row order of R369. `fec` is the points of the worst pre-FEC error rate, which no rule lets
the model compute (log 48, DESIGN CHOICE, safe); the retrains of all links add up (log 119, DEDUCED, unsafe). -/
def State.tidePoints (s : State) (fec : Nat) : List Nat :=
  let t := s.tide
  let retr := s.recent (60 * secAoc) (t.retrains.map Prod.fst)
  let reads := t.flashReads.filter fun r => decide (s.aoc ≤ r.1 + secAoc)
  let nReads := reads.foldl (fun n r => n + r.2.1) 0
  let nRetry := reads.foldl (fun n r => n + r.2.2) 0
  let m := s.pw.margin
  let loss := s.recent (60 * secAoc) t.peerLoss
  [ pointsAt (s.recent secAoc t.dramErrs) 1 10 100
  , if s.ms.unrepaired.isEmpty then Nat.min 2 (pointsAt (s.recent dayAoc t.rowMarks) 1 4 5) else 3
  , Nat.max fec (pointsAt retr 1 3 10)
  , if m < 80 then 3 else if m < 160 then 2 else if m < 240 then 1 else 0
  , pointsAt (s.recent secAoc t.droops) 1 10 100
  , if 4 ≤ loss then 3 else if 1 ≤ loss then 2 else 0
  , if nReads = 0 then 0 else pointsAt (nRetry * 1000000 / nReads) 100 1000 10000 ]

/-- A trigger makes a mooring DUE (R363, R371, R372); a capsule group that holds the mooring's state conflicts (R298). -/
def State.moorDue (s : State) : State :=
  let s := s.conflict [.mooring]
  { s with moor := { s.moor with st := .due } }

/-- The conditions of R371. -/
def State.tideDue (s : State) : Bool :=
  let since := if s.moor.lastPoint = 0 then (s.job 0).startedAt else s.moor.lastPoint
  (s.job 0).st == .running && s.moor.st == .idle && decide (s.setting 0x1001 ≤ s.tide.level) &&
  decide (since + s.setting 0x1002 * secAoc ≤ s.aoc)

/-- EV_TIDE (R370, R490). -/
def State.evTide (s : State) : State :=
  s.postBoth (s.mkEvent 5 0 E.ok (evBody ((24, 1, s.tide.level) :: (List.range 7).map fun i => (26 + i, 1, s.tide.points.getD i 0))))

/-- The level after an evaluation: it rises at once and falls by one level a second, a second after it last changed (R370).
Log 97: DEDUCED, unsafe. -/
def nextTide (now level lastChange raw : Nat) : Nat :=
  if level < raw then raw else if raw < level ∧ lastChange + secAoc ≤ now then level - 1 else level

/-- TIDE_EVALUATE (R369 to R371). -/
def execTideEvaluate (s : State) : Outc :=
  .next (if !s.live then s
    else
      let (v, s) := s.takeFree
      let ps := s.tidePoints (v.toNat % 4)
      let level := nextTide s.aoc s.tide.level s.tide.lastChange (Nat.min 7 (ps.foldl (fun a b => a + b) 0))
      let changed := level != s.tide.level
      let s := { s with tide := { s.tide with points := ps, level := level, lastChange := if changed then s.aoc else s.tide.lastChange } }
      let s := if changed then s.evTide else s
      if s.tideDue then s.moorDue else s)

/-! ### STAGING, WRITING and MOORED (R363 to R368) -/

/-- Where a page of the mooring set stands as epoch M had it: the frame that holds M, else the live frame (R354, R363); after the
job's end the place that was kept (R365). -/
def State.moorSrc (s : State) (p : MoorPage) : Nat :=
  if (s.job 0).st = .none || !p.versioned then p.frame
  else
    let e := tget Prot.reset p.page (s.job 0).prot
    let m := s.moor.epoch
    if e.holds 0 m then (s.job 0).verFrame p.page p.large 0
    else if e.holds 1 m then (s.job 0).verFrame p.page p.large 1
    else p.frame

/-- The page drained next: versioned pages come first (R363). -/
def Moor.nextPage (m : Moor) : Option MoorPage :=
  match m.pages.find? fun p => !p.staged && p.versioned with
  | some p => some p
  | none => m.pages.find? fun p => !p.staged

/-- A mooring engine without an operation: copies for held first writes go ahead of drain work (R357). -/
def State.drainEngine (s : State) : Bool := (List.range 4).any fun n => (s.engine 7 n).queue.isEmpty

/-- MOOR_STAGING: one page is drained into the staging area; an uncorrectable error in it abandons the mooring (R357, R363). -/
def execMoorStaging (ecc : Ecc) (s : State) : Outc :=
  .next (if !s.live || s.moor.st != .staging || !s.drainEngine then s
    else match s.moor.nextPage with
    | none => s.settleMoor
    | some p =>
      let src := s.moorSrc p
      match s.checkRead src (pageSize p.large) ecc with
      | (false, s) => s.abandon E.uncorrectable
      | (true, s) => ((s.copyPage src p.slot (pageSize p.large)).markStaged src p.slot).settleMoor)

/-- First address of a half of the mooring store (R368). -/
def halfBase (half : Nat) : Nat := storeBase + half * 0x1000000000

/-- Offsets in a half: the state record after the digest list, and the first page (R368). -/
def stateOffset (pages : Nat) : Nat := roundUp (256 + 8 * pages) 0x10000
def pagesOffset (pages state : Nat) : Nat := roundUp (stateOffset pages + state) 0x200000

/-- Offsets of pages in mooring order, each at the next boundary of its own size (R368). -/
def pageOffsets : Nat → List Bool → List Nat
  | _, [] => []
  | o, large :: r => let a := roundUp o (pageSize large); a :: pageOffsets (a + pageSize large) r

/-- The manifest record of a mooring (R367). -/
def moorRecord (m : Moor) (digests : List Byte) : List Byte :=
  leBytes 4 1 ++ leBytes 4 m.pages.length ++ leBytes 8 m.epoch ++ leBytes 8 m.time ++ leBytes 8 m.tag.toNat ++
  sha512 m.stateRec ++ sha512 digests ++ List.replicate 96 0

/-- Bytes go to the mooring store: every flash unit they touch is programmed, and the ages of its pages are zero (R328, R340, R368). -/
def State.storeUnits (s : State) (a n : Nat) : State :=
  let u0 := (a - flashBase) / 0x4000
  let us := if n = 0 then [] else (List.range ((a + n - 1 - flashBase) / 0x4000 - u0 + 1)).map fun i => u0 + i
  let s := s.updFlash fun f =>
    { (us.foldl (fun f u => f.program [u] 1 true) f) with lifetimeBytes := f.lifetimeBytes + 0x4000 * us.length }
  (dedupNat (us.map fun u => u / 4)).foldl (fun s p => s.youngPage p) s

def State.storeBytes (s : State) (a : Nat) (bs : List Byte) : State :=
  ({ s with ms := { (s.ms.cleared a bs.length) with mem := wrBytes s.ms.mem a bs } } : State).storeUnits a bs.length

/-- The staged pages, their digests and the records go to the free half (R363, R366 to R368). -/
def State.writeMooring (s : State) : State :=
  let m := s.moor
  let base := halfBase m.half
  let ds := m.pages.map fun p => pageDigest p.ordinal (rdBytes s.ms.mem p.slot (pageSize p.large))
  let list := ds.flatMap fun d => leBytes 8 d
  let offs := pageOffsets (pagesOffset m.pages.length m.stateRec.length) (m.pages.map fun p => p.large)
  let s := s.storeBytes base (moorRecord m list ++ list)
  let s := s.storeBytes (base + stateOffset m.pages.length) m.stateRec
  let s := (m.pages.zip offs).foldl (fun (s : State) x =>
    (s.copyPage x.1.slot (base + x.2) (pageSize x.1.large)).storeUnits (base + x.2) (pageSize x.1.large)) s
  { s with moor := { s.moor with digests := some (ds.map fun d => BitVec.ofNat 64 d) } }.spareCheck

/-- Flash units that a mooring takes at most (R368). -/
def Moor.units (m : Moor) : Nat :=
  m.pages.foldl (fun n p => n + pageSize p.large / 0x4000) (2 + (256 + 8 * m.pages.length) / 0x4000 + 2 + m.stateRec.length / 0x4000)

/-- MOOR_WRITING: the mooring is written to the free half. An uncorrectable error in a staged page (`ok` false, or a page already
poisoned) and a tier that takes no more writes abandon it (R342, R363). Programs that fail retire their blocks (R329); while too few blocks
are free, the write waits. -/
def execMoorWriting (ok : MoorPut) (s : State) : Outc :=
  .next (if !s.live || s.moor.st != .writing || s.moor.digests.isSome then s
    else if !ok.ok || s.moor.pages.any (fun p => s.ms.poisoned p.slot (pageSize p.large)) then s.abandon E.uncorrectable
    else if s.ms.flash.below 2 then s.abandon E.flashWorn
    else
      let s := (s.updFlash fun f => f.failing 1 ok.fails).spareCheck
      if s.ms.flash.freePages < s.moor.units then s else s.writeMooring)

/-- The catalogue's payload: half, STEP (R529; layout log 41, DESIGN CHOICE, unsafe). -/
def catalogueBytes (half step : Nat) : List Byte :=
  leBytes 8 half ++ leBytes 8 step ++ List.replicate 16 0

/-- EV_MOORED (R490). -/
def State.evMoored (s : State) : State :=
  let list := (s.moor.digests.getD []).flatMap fun d => leBytes 8 d.toNat
  let body := evBody [(24, 8, s.moor.epoch), (32, 8, s.moor.time), (40, 4, s.moor.pages.length)]
  s.postBoth (s.mkEvent 7 0 E.ok (patch body 20 ((sha512 list).take 16)))

/-- MOORED: the writes are acknowledged, the catalogue names the half, and EV_MOORED goes out; the store waits for the second of
R533. A write or a store that is refused abandons the mooring (R363, R364). -/
def execMoored (ok : Bool) (s : State) : Outc :=
  .next (if !s.live || s.moor.digests.isNone || !(s.moor.st == .writing || s.moor.st == .moored) then s
    else if !ok then s.abandon E.flashWorn
    else
      let s := { s with moor := { s.moor with st := .moored } }
      if s.logBusy Rec.moorCatalogue then s
      else match s.logStore Rec.moorCatalogue (catalogueBytes s.moor.half s.moor.epoch) with
        | (c, t) =>
          if c = E.xingFull then t
          else if c ≠ E.ok then t.abandon c
          else
            let t := t.evMoored
            { t with moor := { Moor.closed with gen := t.moor.gen, lastPoint := t.moor.lastPoint } })

end Sys2Proof.Machine
end

