-- ==== Sys2Proof/Machine/JobEnd.lean ====
section
/-! DEFINITION. The end of a job (R185, R286, R312, R365, R376, R381 to R385, R444, R475): what ENDING clears, and the return to
NONE. -/

namespace Sys2Proof.Machine

/-- Every accepted descriptor of the job is discarded; packets and reads of its operations report to nobody any more (R286). Entries of
a shared queue that free let the other job's contexts go on (R163, R249). -/
def State.discardDescs (s : State) (pos : Nat) : State :=
  let gone := (s.jobDescs pos).map fun x => x.2.2.serial
  let s := gone.foldl (fun (s : State) n => s.dropOwner n) s
  let out (o : Option Nat) : Option Nat := match o with
    | some n => if gone.contains n then none else some n
    | none => none
  let freed := (s.engines.filter fun e => isShared e.cls && (e.queue.any fun d => gone.contains d.serial)).map fun e => (e.cls, e.num)
  let s : State := { s with engines := s.engines.map fun e =>
      let keep := e.queue.filter fun d => !gone.contains d.serial
      if keep.length = e.queue.length then e
      else { e with queue := keep, running := out e.running, partner := out e.partner } }
  freed.foldl (fun s e => s.wakeEngine e.1 e.2) s

/-- The windows of a job. -/
def State.jobWindows (s : State) (pos : Nat) : List Nat := (s.az.wins.filter fun w => w.2.isOpen && w.2.job == pos).map Prod.fst

/-- The job's windows close as by AZ_WIN_CLOSE, each in a WINDOW_CHANGE crossing (R444). -/
def State.closeWindows (s : State) (pos : Nat) : State :=
  (s.jobWindows pos).foldl (fun (s : State) w => (((s.beats [] [.window w]).count 0x1040).setWin w (s.win w).close)) s

/-- The job's reduction contexts are free after their LEAVE laps (R475). -/
def State.leaveRings (s : State) (pos : Nat) : State :=
  ((s.az.rings.filter fun r => r.2.job == pos)).foldl (fun (s : State) r =>
    (if r.2.opened then s.lapOn r.1 (s.note r.2 10 E.ok 0 0) else s).freeRing r.1) s

/-- A feed that closes: a FEED_CLOSE that waited for its block is answered with the cursor, and so is the XING_COMMIT of a group whose last
FEED_CLOSE it was (R308, R506). -/
def State.feedClosed (s : State) (pos f : Nat) : State :=
  [0, 1].foldl (fun (s : State) p => match (s.port p).running with
    | some r =>
      if r.opcode = Cap.feedClose ∧ r.arg 12 1 = pos ∧ r.arg 13 1 = f then
        s.answer p E.ok (leBytes 8 (((s.job pos).feeds.getD f Feed.closed).cursor))
      else if r.opcode = Cap.xingCommit ∧ (s.port p).landing.contains (pos, f) then
        let s := s.updPort p fun q => { q with landing := q.landing.filter fun x => x != (pos, f) }
        if (s.port p).landing.isEmpty then s.answer p E.ok [] else s
      else s
    | none => s) s

/-- Every feed of the job closes at once (R382, R506); a capsule group that holds one aborts (R298; what counts as a write of a feed's entry
is log 116, DEDUCED, unsafe). -/
def State.closeFeeds (s : State) (pos : Nat) : State :=
  let s := s.conflict ((List.range 8).map fun f => .feed pos f)
  let s := (List.range 8).foldl (fun (s : State) f => s.feedClosed pos f) s
  s.updJob pos fun j => { j with feeds := j.feeds.map fun f => { f with isOpen := false, pulling := false, closing := false } }

/-- The position's cores hold nothing of the job any more (R185). -/
def State.clearCores (s : State) (pos : Nat) : State :=
  (s.coresOf pos).foldl (fun (s : State) c => s.updCore c fun k => { Core.reset with power := k.power, pllFailed := k.pllFailed }) s

/-- Slot bindings are dropped (R376). -/
def Job.unbind (j : Job) : Job :=
  { j with bound := [], releases := [], epochs := j.epochs.map fun e => { e with slots := 0 } }

/-- The Span of a position is within a tile pass (R254). -/
def State.spanBusy (s : State) (pos : Nat) : Bool := (s.span pos).chains.any fun c => (s.span pos).midRound c.1

/-- JOB_ENDING: steps 1 to 3 of R382, once the passes in progress have finished (R286) and a step commit that is COMMITTING has landed
(R296). -/
def execJobEnding (pos : Nat) (s : State) : Outc :=
  .next (if (s.job pos).st != .ending || (s.job pos).cleared || s.spanBusy pos || (pos == 0 && (s.stepXing.elim false fun x => x.2.st == .committing)) ||
      (!(s.jobWindows pos).isEmpty && (s.freeFwEntry.isNone || s.heldByXing ((s.jobWindows pos).map .window))) then s
    else
      let s := s.abortWhere (fun x => x.st != .committing && (match x.opener with
        | .thread core _ => s.posOf core == pos
        | .stepCommit p => p == pos
        | _ => false)) E.noJob
      let s := ((s.discardDescs pos).leaveRings pos).closeWindows pos
      let s := (s.clearCores pos).updSpan pos fun _ => Span.reset
      let s := s.closeFeeds pos
      s.updJob pos fun j => { j.unbind with swap := [], cleared := true })

/-- Dirty 16 KiB units of the job's resident flash pages (R336, R346). -/
def Job.dirtyUnits (j : Job) : Nat :=
  j.pages.foldl (fun n e => n + ((List.range 4).filter fun u => e.2.flash && e.2.resident && e.2.unitDirty u).length) 0

/-- Unstaged pages of a mooring in STAGING with the places they stand at, and the frames that stay for them (R365). -/
def State.moorKept (s : State) (pos : Nat) : List MoorPage × List Frame :=
  if pos = 0 ∧ s.moor.st = .staging then
    let ps := s.moor.pages.map fun p => if p.staged then p else { p with frame := s.moorSrc p }
    (ps, (ps.filter fun p => !p.staged).map fun p => ({ base := p.frame, size := pageSize p.large, use := .version 0 } : Frame))
  else (s.moor.pages, [])

/-- The position that holds a frame. -/
def FrameUse.pos : FrameUse → Nat
  | .region p | .table p | .streams p | .swap p | .version p | .pool p => p

/-- The frames of a position are released (R382 step 5). -/
def State.releaseFrames (s : State) (pos : Nat) : State :=
  s.updMs fun m => { m with frames := m.frames.filter fun f => f.use.pos != pos }

/-- A mooring that is DUE, and no more than that, ends with the job (R363, R376: at job start the state is IDLE; DEDUCED, log 63, unsafe). -/
def State.dropDue (s : State) (pos : Nat) : State :=
  if pos = 0 ∧ s.moor.st = .due then { s with moor := { s.moor with st := .idle } } else s

/-- The job leaves its position: frames, owner's event, NONE, answers (R382 steps 5 and 6, R383, R633). Write-backs that the tier
refuses are lost (R346). Log 68: DEDUCED, unsafe. -/
def State.leaveJob (s : State) (pos : Nat) : State :=
  let j := s.job pos
  let refused := j.dirtyUnits
  let s := if refused = 0 then s else s.countBy 0x1030 refused
  let kept := s.moorKept pos
  let s := (s.dropDue pos).releaseFrames pos
  let s := { s with ms := { s.ms with frames := s.ms.frames ++ kept.2 }, moor := { s.moor with pages := kept.1 } }
  let s := s.evDoneJob pos j.reason (if refused = 0 then j.code else E.flashWorn) (j.lost + refused)
  let s := s.updJob pos fun j => { Job.absent with owner := j.owner }
  let s := (s.coresOf pos).foldl (fun (s : State) c => s.updCore c fun k => { k with power := .deep }) s
  s.answerJob Cap.jobStop pos E.ok

/-- JOB_END_DONE: after the last write-back acknowledgement the job leaves (R382). Retired stores, fault-ins and publication copies
of the job are over by then. Log 71: DEDUCED, unsafe. -/
def execJobEndDone (pos : Nat) (s : State) : Outc :=
  .next (
    let j := s.job pos
    if j.st != .ending || !j.cleared then s
    else if s.ms.stores.any (fun p => p.pos == pos) || s.ms.faultIns.any (fun f => f.pos == pos) ||
        s.ms.writeBacks.any (fun w => w.pos == pos) || j.pubs.any (fun c => c.copying.isSome) then s
    else if j.dirtyUnits != 0 && !s.ms.flash.below 2 then s
    else s.leaveJob pos)

end Sys2Proof.Machine
end

