-- ==== Sys2Proof/Machine/Restore.lean ====
section
/-! DEFINITION. The phases of a restore (R373 to R375). -/

namespace Sys2Proof.Machine

/-- The stored mooring of a half: offsets of its pages, manifest record, digest list, state record (R367, R368). -/
structure Stored where
  base : Nat
  record : List Byte
  list : List Byte
  state : List Byte
  pages : List (MoorPage × Nat)

/-- STREAMS of the state record that stands in a half (R632). -/
def State.storedStreams (s : State) (base pages : Nat) : Nat := rdNat s.ms.mem (base + stateOffset pages + 104) 4

def State.stored (s : State) (half : Nat) : Stored :=
  let base := halfBase half
  let ps := s.moorPages
  let n := ps.length
  let size := 128 + 16 * s.storedStreams base n
  { base := base, record := rdBytes s.ms.mem base 256, list := rdBytes s.ms.mem (base + 256) (8 * n)
    state := rdBytes s.ms.mem (base + stateOffset n) size
    pages := ps.zip (pageOffsets (pagesOffset n size) (ps.map fun p => p.large)) }

/-- The flash pages it occupies: records, then pages (R368). -/
def Stored.flashPages (x : Stored) : List Nat :=
  let of (a n : Nat) : List Nat := (List.range ((a + n - 1) / 0x10000 - a / 0x10000 + 1)).map fun i => (a - flashBase) / 0x10000 + i
  of x.base (256 + x.list.length) ++ of (x.base + stateOffset x.pages.length) x.state.length ++
  x.pages.flatMap fun p => of (x.base + p.2) (pageSize p.1.large)

/-- MANIFEST_DIGEST of a manifest record (R367). -/
def manifestDigest (record : List Byte) : List Byte := slice record 96 64

/-- Every digest agrees (R374 step 2); pages are read where they were loaded. -/
def Stored.verified (x : Stored) (m : Memory) : Bool :=
  (x.pages.all fun p => fld x.list (8 * p.1.ordinal) 8 == pageDigest p.1.ordinal (rdBytes m p.1.slot (pageSize p.1.large))) &&
  sha512 x.list == manifestDigest x.record && sha512 x.state == slice x.record 32 64

/-- A restore ends before Apply: the loaded job stays as it was, and its owner learns the code (R375). -/
def State.restoreFails (s : State) (code : Code) : State :=
  ({ s with restore := Restore.closed } : State).evFault code { job := 0 }

/-- RESTORE_LOAD_VERIFY: the mooring is read into the staging areas and its digests are verified (R330, R374 steps 1 and 2); `reads` gives
the outcomes of its flash pages. -/
def execRestoreLoadVerify (reads : List (Nat × PageRead)) (s : State) : Outc :=
  .next (if !s.live || s.restore.phase != .loading then s
    else
      let x := s.stored s.restore.half
      match s.readPages (x.flashPages.map fun p => (p, p)) reads with
      | (false, s) => s.restoreFails E.uncorrectable
      | (true, s) =>
        let s := x.pages.foldl (fun (s : State) p => s.copyPage (x.base + p.2) p.1.slot (pageSize p.1.large)) s
        if x.verified s.ms.mem then { s with restore := { s.restore with phase := .comparing } }
        else s.restoreFails E.uncorrectable)

/-- Stream-table entries of a state record (R632). -/
def recordStreams (state : List Byte) : List (W64 × W64) :=
  (List.range (fld state 104 4)).map fun i =>
    (BitVec.ofNat 64 (fld state (128 + 16 * i) 8), BitVec.ofNat 64 (fld state (136 + 16 * i) 8))

/-- The state of the job that Apply writes beside its pages (R374 step 4). -/
def Job.applied (j : Job) (m : Nat) (state : List Byte) : Job :=
  { j with
    epochs := [{ epoch := m, st := .current, moorHold := false, slots := 0 }]
    prot := j.man.moorSet.foldl (fun t p => tset Prot.reset p.1 { Prot.reset with lastw := m % 2 ^ 32 } t) []
    key := slice state 72 32, streams := recordStreams state
    cursors := requestCursors (slice state 8 64)
    feeds := (j.feeds.zip (requestCursors (slice state 8 64))).map fun f => { f.1 with restored := some f.2 }
    restored := some m }

/-- Apply: pages, then the final crossing, then EV_DONE (restore) (R374 step 4). -/
def State.applyRestore (s : State) (x : Stored) : State :=
  let m := fld x.record 8 8
  let s := x.pages.foldl (fun (s : State) p => s.copyPage p.1.slot p.1.frame (pageSize p.1.large)) s
  let s := match (s.job 0).man.epochs with
    | some d => s.writeJob 0 d.stepWord (leBytes 8 m)
    | none => s
  let s := (s.updJob 0 fun j => j.applied m x.state).count 0x1040
  ({ s with restore := Restore.closed } : State).postOwner 0 (s.mkEvent 2 3 E.ok (evBody [(24, 8, m)]))

/-- What an Apply with an uncorrectable error has written: the first pages, and how many of them is free (R375; DESIGN CHOICE,
log 64, safe). -/
def State.applyPart (s : State) (x : Stored) : State :=
  let (v, s) := s.takeFree
  (x.pages.take (v.toNat % (x.pages.length + 1))).foldl (fun (s : State) p => s.copyPage p.1.slot p.1.frame (pageSize p.1.large)) s

/-- RESTORE_COMPARE: the replica's answer is compared, and the restore is applied. An uncorrectable error in Apply leaves the job
unstartable (R374 steps 3 and 4, R375). -/
def execRestoreCompare (reply : DigestReply) (ecc : Ecc) (s : State) : Outc :=
  .next (if !s.live || s.restore.phase != .comparing then s
    else
      let x := s.stored s.restore.half
      match reply with
      | .noMooring => s.restoreFails E.noMooring
      | .unreachable => s.restoreFails E.peerGone
      | .digest d =>
        if d != manifestDigest x.record then s.restoreFails E.digestMismatch
        else
          let bad := ecc == .double || x.pages.any fun p => s.ms.poisoned p.1.slot (pageSize p.1.large)
          if bad then ((s.applyPart x).updJob 0 fun j => { j with unstartable := true }).restoreFails E.uncorrectable
          else s.applyRestore x)

end Sys2Proof.Machine
end

