-- ==== Sys2Proof/Machine/Manifest.lean ====
section
/-! DEFINITION. The job manifest (R386 to R391): its parts, and the checks of JOB_LOAD in the order of R390. -/

namespace Sys2Proof.Machine

/-! ### Container (R386, R387) -/

/-- A directory entry. -/
structure DirEnt where
  type : Nat
  zero : Nat
  count : Nat
  off : Nat
deriving DecidableEq, Repr

def dirEntries (raw : List Byte) : List DirEnt :=
  (List.range (Nat.min 32 (fld raw 28 4))).map fun i =>
    let b := 256 + 16 * i
    { type := fld raw b 2, zero := fld raw (b + 2) 2, count := fld raw (b + 4) 4, off := fld raw (b + 8) 8 }

/-- Entry sizes by TYPE; 0 for a reserved TYPE. -/
def tableSize (type : Nat) : Nat :=
  match type with
  | 1 => 32 | 2 => 64 | 3 => 32 | 4 => 8 | 5 => 16 | 6 => 32 | 7 => 2 | 8 => 16 | 9 => 8 | 10 => 32 | 11 => 16 | 12 => 128
  | 13 => 16 | 14 => 16 | _ => 0

/-- COUNT lies in what the Entries column fixes for the table by itself (R390 step 2). -/
def countOk (pos type n : Nat) : Bool :=
  decide (1 ≤ n) && match type with
    | 3 => decide (n ≤ 4096) | 4 => n == 2 | 6 => decide (n ≤ 8) | 7 => n == 256 | 8 => decide (n ≤ 65536)
    | 9 => decide (n ≤ if pos = 0 then 65535 else 4096) | 10 => decide (n ≤ 65536) | 11 => decide (n ≤ 8) | 12 => n == 1
    | 13 => decide (n ≤ 64) | 14 => decide (n ≤ 256) | _ => true

/-- The entries of a table. -/
def tabOf (raw : List Byte) (type : Nat) : List (List Byte) :=
  match (dirEntries raw).find? fun d => d.type == type with
  | none => []
  | some d => (List.range d.count).map fun i => slice raw (d.off + i * tableSize type) (tableSize type)

def hasTab (raw : List Byte) (type : Nat) : Bool := (dirEntries raw).any fun d => d.type == type

/-! ### Entries -/

def threadOf (e : List Byte) : ThreadDecl :=
  { core := fld e 0 1, group := BitVec.ofNat 8 (fld e 1 1), stream := BitVec.ofNat 16 (fld e 2 2)
    startPc := BitVec.ofNat 32 (fld e 4 4), g1 := BitVec.ofNat 64 (fld e 8 8), g2 := BitVec.ofNat 64 (fld e 16 8)
    g3 := BitVec.ofNat 64 (fld e 24 8) }

def coreDeclOf (e : List Byte) : CoreDecl :=
  { core := fld e 0 1, lane := fld e 1 1 % 2 == 1, laneGroup := BitVec.ofNat 8 (fld e 2 1)
    laneStream := BitVec.ofNat 16 (fld e 4 2), swapBase := fld e 8 8, laneBase := fld e 16 8, laneLength := fld e 24 4
    tailCtr := fld e 28 2, headCtr := fld e 30 2 }

def regionOf (e : List Byte) : Region :=
  let f := fld e 17 1
  { va := fld e 0 8, length := fld e 8 8, flash := fld e 16 1 == 2, large := bits f 0 1 == 1, writable := bits f 1 1 == 1
    pin := bits f 2 1 == 1, stack := bits f 3 1, load := bits f 4 1 == 1, flashBase := fld e 24 8 }

def ringDeclOf (e : List Byte) : RingDecl :=
  { base := fld e 0 4, sizeLog2 := fld e 4 1, core := fld e 5 1, slots := fld e 6 2, initFull := fld e 8 2 }

def feedOf (e : List Byte) : FeedDecl :=
  { buf := fld e 0 8, recBytes := fld e 8 4, blockRecs := fld e 12 4, bufBlocks := fld e 16 4, fillCtr := fld e 20 2
    freeCtr := fld e 22 2, feed := fld e 24 1 }

def dataOf (e : List Byte) : DataDecl := { dest := fld e 0 8, length := fld e 8 8, source := fld e 16 8 }

def pubOf (e : List Byte) : PubDecl := { recAddr := fld e 0 8, pubCtr := fld e 8 2, ackCtr := fld e 10 2 }

def epochOf (e : List Byte) : EpochDecl :=
  { viewVa := fld e 0 8, slotCtr := (List.range 16).map fun i => fld e (8 + 2 * i) 2, stepCtr := fld e 40 2
    commitCtr := fld e 42 2, replica := fld e 44 2, stepReq := fld e 48 8, stepStatus := fld e 56 8, stepWord := fld e 64 8 }

/-- A limit field, 0 standing for its default (R386). -/
def limitOf (v dflt : Nat) : Nat := if v = 0 then dflt else v

/-- The manifest as its bytes give it; unchecked. -/
def parseManifest (raw : List Byte) : Manifest :=
  let tab := tabOf raw
  { raw := raw, sqBuild := fld raw 12 4, stallLog2 := limitOf (fld raw 25 1) 24, rotateLog2 := limitOf (fld raw 26 1) 20
    deepLog2 := limitOf (fld raw 27 1) 17, jobKey := slice raw 32 32, codeVa := fld raw 64 8, codeWords := fld raw 72 8
    threads := (tab 1).map threadOf, cores := (tab 2).map coreDeclOf, regions := (tab 3).map regionOf
    pool := (tab 4).map fun e => fld e 0 8, rings := (tab 5).map ringDeclOf, feeds := (tab 6).map feedOf
    groups := (tab 7).map fun e => fld e 0 2
    streams := (tab 8).map fun e => (BitVec.ofNat 64 (fld e 0 8), BitVec.ofNat 64 (fld e 8 8))
    counters := (tab 9).map fun e => (fld e 0 2, fld e 4 4), data := (tab 10).map dataOf, publish := (tab 11).map pubOf
    epochs := ((tab 12).map epochOf).head?, versioned := (tab 13).map fun e => (fld e 0 8, fld e 8 8)
    moored := (tab 14).map fun e => (fld e 0 8, fld e 8 8), tag := BitVec.ofNat 64 (fld (sha512 raw) 0 8) }

/-! ### Steps 1 to 3 of R390 -/

/-- All bytes of a range of an entry are zero. -/
def zeroBytes (e : List Byte) (i n : Nat) : Bool := (slice e i n).all fun b => b == 0

/-- No two of the ranges meet. -/
def disjoint : List (Nat × Nat) → Bool
  | [] => true
  | x :: r => (r.all fun y => !meet x.1 x.2 y.1 y.2) && disjoint r

def magicJob : List Byte := [0x4D, 0x42, 0x46, 0x2D, 0x4A, 0x4F, 0x42, 0x31]

/-- Step 2: structure. -/
def structureBad (raw : List Byte) (pos : Nat) : Bool :=
  let n := fld raw 28 4
  let ds := dirEntries raw
  slice raw 0 8 != magicJob || fld raw 8 4 != 1 || !zeroBytes raw 80 176 || n == 0 || decide (32 < n) ||
  decide (raw.length < 256 + 16 * n) ||
  (ds.any fun d => tableSize d.type == 0 || d.zero != 0 || !countOk pos d.type d.count) ||
  !(dedupNat (ds.map fun d => d.type)).length == ds.length ||
  ([1, 2, 3, 7, 8, 10].any fun t => !hasTab raw t) ||
  (!hasTab raw 4 && (tabOf raw 3).any fun e => fld e 16 1 == 2) ||
  hasTab raw 13 != hasTab raw 12 || (hasTab raw 14 && !hasTab raw 12) || (hasTab raw 12 && pos != 0)

/-- The header, the directory and the tables as ranges of the manifest. -/
def containerRanges (raw : List Byte) : List (Nat × Nat) :=
  (0, 256 + 16 * fld raw 28 4) :: (dirEntries raw).map fun d => (d.off, d.count * tableSize d.type)

def limitBad (v lo hi : Nat) : Bool := v != 0 && !(decide (lo ≤ v) && decide (v ≤ hi))

/-- A range of job addresses lies in one region with a property. -/
def Manifest.inRegion (m : Manifest) (a n : Nat) (p : Region → Bool) : Bool :=
  decide (0 < n) && m.regions.any fun r => within a n r.va r.length && p r

/-- Step 3: header values. -/
def headerChecks (raw : List Byte) (pos length : Nat) : List (Bool × Code) :=
  let m := parseManifest raw
  [ (fld raw 16 8 != length || fld raw 24 1 != pos, E.argRange)
  , (limitBad (fld raw 25 1) 20 30 || limitBad (fld raw 26 1) 16 26 || (fld raw 27 1 != 0xFF && limitBad (fld raw 27 1) 12 26) ||
      m.codeWords == 0 || decide (2 ^ 32 < m.codeWords), E.argRange)
  , ((containerRanges raw).any fun r => decide (raw.length < r.1 + r.2), E.argRange)
  , (!disjoint (containerRanges raw), E.argRange)
  , (!m.inRegion m.codeVa (8 * m.codeWords) fun r => !r.flash && r.load, E.argRange)
  , ((dirEntries raw).any (fun d => d.off % 64 != 0) || m.codeVa % 0x10000 != 0, E.argAlign) ]

/-! ### Step 4: tables -/

/-- The code of the first entry that fails. -/
def entryCode {α : Type} (f : Nat → α → List (Bool × Code)) : Nat → List α → Code
  | _, [] => E.ok
  | i, e :: r => let c := firstBad (f i e); if c = E.ok then entryCode f (i + 1) r else c

/-- A core of the position (R27, R380). -/
def State.coreOf (s : State) (pos core : Nat) : Bool := decide (core < 64) && s.posOf core == pos

/-- In the job's memory: its scratchpad, or one region with a property. -/
def State.inJob (s : State) (m : Manifest) (pos a n : Nat) (p : Region → Bool) : Bool := s.inScratch pos a n || m.inRegion a n p

def Manifest.groupOk (m : Manifest) (g : Nat) : Bool := m.groups.getD g 0 != 0

/-- THREADS (R388, R393, R397); at most 2^26 threads a core. -/
def State.threadChecks (s : State) (m : Manifest) (pos i : Nat) (t : ThreadDecl) : List (Bool × Code) :=
  [ (!s.coreOf pos t.core || !m.groupOk t.group.toNat || decide (m.streams.length ≤ t.stream.toNat) ||
      decide (m.codeWords ≤ t.startPc.toNat) ||
      decide (2 ^ 26 ≤ ((m.threads.take i).filter fun u => u.core == t.core).length), E.argRange) ]

/-- Threads of a core, in order (R151). -/
def Manifest.threadsOf (m : Manifest) (core : Nat) : List ThreadDecl := m.threads.filter fun t => t.core == core

/-- The swap area of a CORES entry. -/
def Manifest.swapArea (m : Manifest) (d : CoreDecl) : Nat × Nat := (d.swapBase, 576 * (m.threadsOf d.core).length)
def CoreDecl.laneArea (d : CoreDecl) : Nat × Nat := if d.lane then (d.laneBase, 64 * d.laneLength) else (0, 0)

def rangesMeet (a b : Nat × Nat) : Bool := meet a.1 a.2 b.1 b.2

def isPow2 (n : Nat) : Bool := n != 0 && 2 ^ Nat.log2 n == n

/-- CORES (R174, R177, R388). -/
def State.coreChecks (s : State) (m : Manifest) (pos i : Nat) (e : List Byte) : List (Bool × Code) :=
  let d := coreDeclOf e
  let before := m.cores.take i
  let n := (m.threadsOf d.core).length
  let swap := m.swapArea d
  let code := (m.codeVa, 8 * m.codeWords)
  [ (decide (2 ≤ fld e 1 1) || fld e 3 1 != 0 || fld e 6 2 != 0 || !zeroBytes e 32 32 ||
      (!d.lane && !(zeroBytes e 2 6 && zeroBytes e 16 16)), E.argFormat)
  , (!s.coreOf pos d.core || before.any fun c => c.core == d.core, E.argRange)
  , (if n = 0 then d.swapBase != 0 else !m.inRegion swap.1 swap.2 fun r => !r.flash && r.stack == shoreOf d.core, E.argRange)
  , (rangesMeet swap code || rangesMeet swap d.laneArea ||
      before.any fun c => rangesMeet swap (m.swapArea c) || rangesMeet swap c.laneArea || rangesMeet d.laneArea (m.swapArea c), E.argRange)
  , (d.lane && (!m.groupOk d.laneGroup.toNat || decide (m.streams.length ≤ d.laneStream.toNat) || !isPow2 d.laneLength ||
      decide (d.laneLength < 64) || decide (65536 < d.laneLength) || !ctrOk pos d.tailCtr || !ctrOk pos d.headCtr ||
      !s.inJob m pos d.laneBase (64 * d.laneLength) fun _ => true), E.argRange)
  , (d.swapBase % 64 != 0 || d.laneBase % 64 != 0, E.argAlign) ]

/-- First byte beyond the flash tier's exported space (R313). -/
def flashSize : Nat := 0x68000000000

/-- REGIONS (R315). `taken` are the flash ranges of the other job. -/
def regionChecks (m : Manifest) (taken : List (Nat × Nat)) (i : Nat) (e : List Byte) : List (Bool × Code) :=
  let r := regionOf e
  let n := pageSize r.large
  [ (!(fld e 16 1 == 1 || fld e 16 1 == 2) || decide (32 ≤ fld e 17 1) || !zeroBytes e 18 6 || (r.flash && r.large) ||
      (!r.flash && (r.pin || r.flashBase != 0)), E.argFormat)
  , (r.length == 0 || decide (2 ^ 52 < r.va + r.length) || meet r.va r.length spBase spSize ||
      (m.regions.take i).any fun q => meet r.va r.length q.va q.length, E.argRange)
  , (r.flash && (decide (flashSize < r.flashBase + r.length) || taken.any fun t => meet r.flashBase r.length t.1 t.2), E.argRange)
  , (r.va % n != 0 || r.length % n != 0 || r.flashBase % 0x10000 != 0, E.argAlign) ]

/-- PIN pages of a stack. -/
def Manifest.pins (m : Manifest) (stack : Nat) : Nat :=
  (m.regions.filter fun r => r.flash && r.pin && r.stack == stack).foldl (fun n r => n + r.length / 0x10000) 0

/-- POOL (R333). -/
def poolBad (m : Manifest) : Bool :=
  m.regions.any (fun r => r.flash) && [0, 1].any fun k => decide (m.pool.getD k 0 < m.pins k + 64)

/-- The words of a ring, as a range of global word indices. -/
def RingDecl.range (r : RingDecl) : Nat × Nat := (r.core * 2 ^ 20 + r.base, r.slots * 2 ^ r.sizeLog2)

/-- RINGS (R228). -/
def State.ringChecks (s : State) (m : Manifest) (pos i : Nat) (e : List Byte) : List (Bool × Code) :=
  let r := ringDeclOf e
  [ (!zeroBytes e 10 6, E.argFormat)
  , (decide (16 < r.sizeLog2) || r.slots == 0 || decide (4096 < r.slots) || decide (r.slots < r.initFull) || !s.coreOf pos r.core ||
      decide (2 ^ 20 < r.base + r.slots * 2 ^ r.sizeLog2) || (m.rings.take i).any fun q => rangesMeet r.range q.range, E.argRange)
  , (r.base % 2 ^ r.sizeLog2 != 0, E.argAlign) ]

def ringsFull (m : Manifest) : Bool :=
  m.rings.any fun r =>
    let mine := m.rings.filter fun q => q.core == r.core
    decide (64 < mine.length) || decide (4096 < mine.foldl (fun n q => n + q.slots) 0)

/-- Initial value of a counter (R389). -/
def Manifest.ctrInit (m : Manifest) (id : Nat) : Nat := match m.counters.find? fun c => c.1 == id with
  | some c => c.2
  | none => 0

def FeedDecl.blockBytes (f : FeedDecl) : Nat := f.recBytes * f.blockRecs

/-- FEEDS (R502). -/
def State.feedChecks (s : State) (m : Manifest) (pos i : Nat) (e : List Byte) : List (Bool × Code) :=
  let f := feedOf e
  [ (!zeroBytes e 25 7 || decide (f.recBytes < 64) || decide (65536 < f.recBytes) || f.recBytes % 64 != 0 || f.blockRecs == 0 ||
      decide (65536 < f.blockRecs) || !isPow2 f.bufBlocks || decide (65536 < f.bufBlocks), E.argFormat)
  , (decide (7 < f.feed) || ((m.feeds.take i).any fun g => g.feed == f.feed) ||
      !s.inJob m pos f.buf (f.blockBytes * f.bufBlocks) (fun r => r.writable) || !ctrOk pos f.fillCtr || !ctrOk pos f.freeCtr ||
      m.ctrInit f.fillCtr != 0 || m.ctrInit f.freeCtr != 0, E.argRange) ]

/-- COUNTERS (R389). -/
def counterChecks (m : Manifest) (pos i : Nat) (e : List Byte) : List (Bool × Code) :=
  [ (fld e 2 2 != 0, E.argFormat)
  , (!ctrOk pos (fld e 0 2) || (m.counters.take i).any fun c => c.1 == fld e 0 2, E.argRange) ]

/-- DATA (R389). -/
def State.dataChecks (s : State) (m : Manifest) (pos i : Nat) (e : List Byte) : List (Bool × Code) :=
  let d := dataOf e
  [ (!zeroBytes e 24 8, E.argFormat)
  , (d.length == 0 || decide (m.raw.length < d.source + d.length) ||
      ((containerRanges m.raw).any fun r => meet d.source d.length r.1 r.2) ||
      !s.inJob m pos d.dest d.length (fun r => r.load) || (m.data.take i).any fun x => meet d.dest d.length x.dest x.length, E.argRange) ]

/-- At least one DATA entry overlaps the code region (R389). -/
def codeUnloaded (m : Manifest) : Bool := !m.data.any fun d => meet d.dest d.length m.codeVa (8 * m.codeWords)

/-- PUBLISH (R389, R508). -/
def State.pubChecks (s : State) (pos _i : Nat) (e : List Byte) : List (Bool × Code) :=
  let p := pubOf e
  [ (!zeroBytes e 12 4, E.argFormat)
  , (!s.inScratch pos p.recAddr 64 || !ctrOk pos p.pubCtr || !ctrOk pos p.ackCtr, E.argRange)
  , (p.recAddr % 64 != 0, E.argAlign) ]

/-- EPOCHS (R347, R389). -/
def State.epochChecks (s : State) (m : Manifest) (pos _i : Nat) (e : List Byte) : List (Bool × Code) :=
  let d := epochOf e
  let view := (d.viewVa, 16 * m.vspan)
  [ (fld e 46 2 != 0 || !zeroBytes e 72 56, E.argFormat)
  , (decide (2 ^ 52 < view.1 + view.2) || meet view.1 view.2 spBase spSize ||
      m.regions.any fun r => meet view.1 view.2 r.va r.length, E.argRange)
  , ((d.stepCtr :: d.commitCtr :: d.slotCtr).any fun c => !ctrOk pos c, E.argRange)
  , (!s.inScratch pos d.stepReq 64 || !s.inScratch pos d.stepStatus 16 || !m.inRegion d.stepWord 8 (fun r => !r.flash), E.argRange)
  , (d.stepReq % 64 != 0 || d.stepStatus % 8 != 0 || d.stepWord % 8 != 0, E.argAlign) ]

/-- VERSIONED and MOORED (R347). -/
def versionedChecks (m : Manifest) (_i : Nat) (x : Nat × Nat) : List (Bool × Code) :=
  [ (!m.inRegion x.1 x.2 (fun r => !r.flash && r.writable && x.1 % pageSize r.large == 0 && x.2 % pageSize r.large == 0), E.argRange) ]
def mooredChecks (m : Manifest) (_i : Nat) (x : Nat × Nat) : List (Bool × Code) :=
  [ (!m.inRegion x.1 x.2 fun r => !r.flash, E.argRange) ]

/-- The first code that is not E_OK. -/
def firstCode : List Code → Code
  | [] => E.ok
  | c :: r => if c = E.ok then firstCode r else c

/-- Step 4: every table, in ascending TYPE order. -/
def State.tableCode (s : State) (m : Manifest) (pos : Nat) : Code :=
  let taken := ((s.job (1 - pos)).man.regions.filter fun r => r.flash).map fun r => (r.flashBase, r.length)
  firstCode
    [ entryCode (s.threadChecks m pos) 0 m.threads
    , entryCode (s.coreChecks m pos) 0 (tabOf m.raw 2)
    , if m.cores.length = (s.coresOf pos).length then E.ok else E.argRange
    , entryCode (regionChecks m taken) 0 (tabOf m.raw 3)
    , if poolBad m then E.noSpace else E.ok
    , entryCode (s.ringChecks m pos) 0 (tabOf m.raw 5)
    , if ringsFull m then E.noSpace else E.ok
    , entryCode (s.feedChecks m pos) 0 (tabOf m.raw 6)
    , entryCode (counterChecks m pos) 0 (tabOf m.raw 9)
    , entryCode (s.dataChecks m pos) 0 (tabOf m.raw 10)
    , if codeUnloaded m then E.argRange else E.ok
    , entryCode (s.pubChecks pos) 0 (tabOf m.raw 11)
    , entryCode (s.epochChecks m pos) 0 (tabOf m.raw 12)
    , entryCode (versionedChecks m) 0 m.versioned
    , entryCode (mooredChecks m) 0 m.moored ]

end Sys2Proof.Machine
end

