-- ==== Sys2Proof/Machine/JobLoad.lean ====
section
/-! DEFINITION. JOB_LOAD, JOB_START and JOB_STOP (R184, R246, R345, R348, R376, R379, R384, R385, R390, R501, R633): space, frames,
page tables, the state a job starts in. -/

namespace Sys2Proof.Machine

/-! ### DRAM (R317, R324, R348, R390 step 5) -/

/-- Job DRAM of a stack (R317). -/
def State.jobDram (s : State) (stack : Nat) : Nat × Nat := (stack * 0x1800000000, s.stagingBase stack)

/-- Runs between frames, given in ascending order. -/
def gaps (hi : Nat) : Nat → List Frame → List (Nat × Nat)
  | lo, [] => if lo < hi then [(lo, hi - lo)] else []
  | lo, f :: r => (if lo < f.base then [(lo, f.base - lo)] else []) ++ gaps hi (Nat.max lo (f.base + f.size)) r

def insertFrame (f : Frame) : List Frame → List Frame
  | [] => [f]
  | g :: r => if f.base ≤ g.base then f :: g :: r else g :: insertFrame f r

/-- Free runs of a stack. -/
def State.freeRuns (s : State) (stack : Nat) : List (Nat × Nat) :=
  let d := s.jobDram stack
  gaps d.2 d.1 (s.ms.frames.foldl (fun l f => if stackOf f.base = stack then insertFrame f l else l) [])

/-- Pages taken from the lowest free runs (log 50, DESIGN CHOICE, unsafe). -/
def takePages (size : Nat) : Nat → List (Nat × Nat) → List (Nat × Nat)
  | _, [] => []
  | n, (b, z) :: r =>
    let a := roundUp b size
    let k := Nat.min n ((b + z - a) / size)
    (if k = 0 then [] else [(a, k * size)]) ++ takePages size (n - k) r

/-- Frames for `n` pages on a stack: their pieces, and the state that holds them; none when they do not fit. -/
def State.alloc (s : State) (stack size n : Nat) (use : FrameUse) : Option (List (Nat × Nat) × State) :=
  let ps := takePages size n (s.freeRuns stack)
  if ps.foldl (fun k p => k + p.2) 0 < n * size then none
  else some (ps, s.updMs fun m => { m with frames := m.frames ++ ps.map fun p => { base := p.1, size := p.2, use := use } })

/-- Page frames of pieces. -/
def framesOf (size : Nat) (ps : List (Nat × Nat)) : List Nat :=
  ps.flatMap fun p => (List.range (p.2 / size)).map fun i => p.1 + i * size

/-- The tables of a level that the regions need, by the address bits above their index field (R321): 2 MiB pages need none of level 3. -/
def Manifest.levelTables (m : Manifest) (level : Nat) : List Nat :=
  if level = 0 then [0]
  else dedupNat ((m.regions.filter fun r => level != 3 || !r.large).flatMap fun r =>
    let a := levelPre level r.va
    (List.range (levelPre level (r.va + r.length - 1) - a + 1)).map fun i => a + i)

/-- Bytes of one replica of the page tables (R321). -/
def Manifest.tableBytes (m : Manifest) : Nat :=
  (List.range 4).foldl (fun n l => n + levelSize l * (m.levelTables l).length) 0

/-- Bytes of a stack's version area (R348). -/
def Manifest.versionBytes (m : Manifest) (stack : Nat) : Nat :=
  (m.versioned.flatMap m.rangePages).foldl (fun n p => if m.stackOfPage p.1 = stack then n + 2 * pageSize p.2 else n) 0

/-- DRAM demands on a stack (R390 step 5). Swap areas lie in DRAM regions and count there (log 50, DESIGN CHOICE, unsafe). -/
def Manifest.demand (m : Manifest) (stack : Nat) : Nat :=
  (m.regions.filter fun r => !r.flash && r.stack == stack).foldl (fun n r => n + r.length) 0 + m.tableBytes +
  m.versionBytes stack + m.pool.getD stack 0 * 0x10000 + (if stack = 0 then 16 * m.streams.length else 0)

/-- The mooring set fits the staging areas and half the mooring store (R348, R368). -/
def State.moorFits (s : State) (m : Manifest) : Bool :=
  let ps := m.moorSet
  let onStack (k : Nat) : Nat := ps.foldl (fun n p => if m.stackOfPage p.1 = k then n + pageSize p.2.1 else n) 0
  let last := (pageOffsets (pagesOffset ps.length (128 + 16 * m.streams.length)) (ps.map fun p => p.2.1)).zip (ps.map fun p => p.2.1)
  decide (onStack 0 ≤ s.cfg.moorStaging * 2 ^ 30) && decide (onStack 1 ≤ s.cfg.moorStaging * 2 ^ 30) &&
  last.all fun x => decide (x.1 + pageSize x.2 ≤ 0x1000000000)

def State.spaceOk (s : State) (m : Manifest) : Bool :=
  ([0, 1] : List Nat).all (fun k => decide (m.demand k ≤ (s.freeRuns k).foldl (fun n r => n + r.2) 0)) &&
  (m.epochs.isNone || s.moorFits m)

/-! ### Placing a job -/

/-- Page-table entries of a region (R322, R323), given the frames of a DRAM region. -/
def Region.ptes (r : Region) (frames : List Nat) : List (Nat × Pte) :=
  let n := pageSize r.large
  (List.range (r.length / n)).map fun i =>
    ((r.va + i * n) / 0x10000,
     ({ large := r.large, flash := r.flash, writable := r.writable, resident := false, pin := r.pin, protect := false
        frame := frames.getD i 0, dirty := 0, flashPage := if r.flash then r.flashBase / 0x10000 + i else 0 } : Pte))

/-- Frames for one region, and its entries. -/
def State.placeRegion (s : State) (pos : Nat) (r : Region) : Option (List (Nat × Pte) × State) :=
  if r.flash then some (r.ptes [], s)
  else (s.alloc r.stack (pageSize r.large) (r.length / pageSize r.large) (.region pos)).map fun x => (r.ptes (framesOf (pageSize r.large) x.1), x.2)

/-- Frames for every region of a list. -/
def State.placeRegions (s : State) (pos : Nat) : List Region → Option (List (Nat × Pte) × State)
  | [] => some ([], s)
  | r :: rs => match s.placeRegion pos r with
    | none => none
    | some (es, s) => (State.placeRegions s pos rs).map fun x => (es ++ x.1, x.2)

/-- One contiguous version area (R348): its base. -/
def State.placeVersions (s : State) (pos : Nat) (m : Manifest) (stack : Nat) : Option (Nat × State) :=
  let n := m.versionBytes stack
  if n = 0 then some (0, s)
  else match (s.freeRuns stack).find? fun r => decide (roundUp r.1 0x200000 + n ≤ r.1 + r.2) with
    | none => none
    | some r =>
      let a := roundUp r.1 0x200000
      some (a, s.updMs fun x => { x with frames := x.frames ++ [({ base := a, size := n, use := .version pos } : Frame)] })

/-- The tables of one level on one stack (R321, R324). -/
def State.placeTables (s : State) (pos : Nat) (m : Manifest) (stack level : Nat) : Option (List PTab × State) :=
  let ps := m.levelTables level
  (s.alloc stack (levelSize level) ps.length (.table pos)).map fun x =>
    (List.zipWith (fun p b => { stack := stack, level := level, pre := p, base := b }) ps (framesOf (levelSize level) x.1), x.2)

/-- The replica of the page tables on each stack (R324). -/
def State.placeReplicas (s : State) (pos : Nat) (m : Manifest) : Option (List PTab × State) :=
  (List.range 8).foldl (fun o i => o.bind fun x => (State.placeTables x.2 pos m (i / 4) (i % 4)).map fun y => (x.1 ++ y.1, y.2)) (some ([], s))

/-- Pool, page tables and stream table (R317). -/
def State.placeRest (s : State) (pos : Nat) (m : Manifest) : Option (List PTab × State) :=
  ((s.alloc 0 0x10000 (m.pool.getD 0 0) (.pool pos)).bind fun x => (x.2.alloc 1 0x10000 (m.pool.getD 1 0) (.pool pos)).bind fun x =>
    (x.2.alloc 0 16 m.streams.length (.streams pos)).bind fun x => x.2.placeReplicas pos m)

/-- Every frame of the job: its page-table entries, version areas, page tables, and the state that holds the frames. -/
def State.place (s : State) (pos : Nat) (m : Manifest) : Option (List (Nat × Pte) × List Nat × List PTab × State) :=
  match s.placeRegions pos (m.regions.filter fun r => r.large) with
  | none => none
  | some (e1, s) => match s.placeVersions pos m 0 with
    | none => none
    | some (v0, s) => match s.placeVersions pos m 1 with
      | none => none
      | some (v1, s) => match s.placeRegions pos (m.regions.filter fun r => !r.large) with
        | none => none
        | some (e2, s) => (s.placeRest pos m).map fun x => (e1 ++ e2, [v0, v1], x.1, x.2)

def insertPte (e : Nat × Pte) : List (Nat × Pte) → List (Nat × Pte)
  | [] => [e]
  | x :: r => if e.1 ≤ x.1 then e :: x :: r else x :: insertPte e r

/-- Frames that JOB_LOAD assigns are zero (R345). -/
def State.zeroFrames (s : State) (pos : Nat) : State :=
  (s.ms.frames.filter fun f => f.use.pos == pos).foldl (fun (s : State) f =>
    { s with ms := { (s.ms.cleared f.base f.size) with mem := zeroRange s.ms.mem f.base f.size } }) s

/-- The flash pages of a LOAD region read as zeros again (R344, R389). -/
def State.zeroFlash (s : State) (r : Region) : State :=
  let p := r.flashBase / 0x10000
  let n := r.length / 0x10000
  let a := flashAddr p
  let s := { s with ms := { (s.ms.cleared a r.length) with mem := zeroRange s.ms.mem a r.length } }
  s.updFlash fun f =>
    let mine (u : Nat) : Bool := decide (4 * p ≤ u) && decide (u < 4 * (p + n))
    let old := f.map.filter fun e => mine e.1
    let f := { (old.foldl (fun f e => f.setMap e.1 0) f) with sizes := f.sizes.filter fun e => !mine (4 * e.1) }
    old.foldl (fun f e => f.settleBlk ((e.2 - 1) / blockPages)) f

/-- Bytes of the manifest's data section go where their job addresses lead, flash units included (R345, R389). -/
def State.loadBytes (s : State) (pos va : Nat) (bs : List Byte) : State :=
  (s.parts pos va false (bs.length / 0x10000 + 2) bs.length).foldl (fun (s : State) p =>
    let here := (bs.drop (p.1 - va)).take p.2.1
    match p.2.2 with
    | .phys pa _ => s.poke pa here
    | .absent _ e => s.storeBytes (flashAddr e.flashPage + p.1 % 0x10000) here
    | .bad => s) s

/-- First result handle of a position, and how many it has (R384). -/
def handlesOf (pos : Nat) : Nat × Nat := if pos = 0 then (0, 896) else (896, 128)

/-- Results still held by the previous job are released (R384). -/
def State.releaseResults (s : State) (pos : Nat) : State :=
  let r := handlesOf pos
  { s with results := s.results.map fun h =>
      if within h.1 1 r.1 r.2 && h.2.st != .empty then (h.1, { h.2 with st := .released, data := [] }) else h }

/-- Toll totals of the job's accounts are cleared (R400). -/
def State.clearTotals (s : State) (pos : Nat) : State :=
  { s with totals := s.totals.filter fun t => !(within (t.1 / 16) 1 (256 * pos) 256) }

/-- The job as it is loaded (R379). -/
def loadedJob (m : Manifest) (owner : Nat) (grant : Bool) (pages : List (Nat × Pte)) (ver : List Nat) (tables : List PTab) : Job :=
  { Job.absent with
    st := .loaded, owner := some owner, grants := if grant then [1 - owner] else [], man := m, key := m.jobKey, streams := m.streams
    pages := pages.foldl (fun l e => insertPte e l) [], tables := tables, verBase := ver, feeds := List.replicate 8 Feed.closed
    epochs := if m.epochs.isSome then [{ epoch := 0, st := .current, moorHold := false, slots := 0 }] else []
    cursors := List.replicate 8 0 }

/-- The checks of R390 in order. -/
def State.manifestCode (s : State) (pos : Nat) (raw : List Byte) : Code :=
  let m := parseManifest raw
  let sq := match s.boot.image with
    | some i => i.builds.getD 1 0
    | none => 0
  if m.sqBuild ≠ sq then E.unpaired
  else if structureBad raw pos then E.argFormat
  else
    let header := firstBad (headerChecks raw pos raw.length)
    if header ≠ E.ok then header
    else
      let tables := s.tableCode m pos
      if tables ≠ E.ok then tables else if s.spaceOk m then E.ok else E.noSpace

/-- JOB_LOAD after its cargo has come: the checks of R390, then the load. Answers the code, the JOB_TAG and the state. -/
def State.loadJob (s : State) (port pos : Nat) (grant : Bool) (raw : List Byte) : Code × List Byte × State :=
  let m := parseManifest raw
  let code := s.manifestCode pos raw
  if code ≠ E.ok then (code, [], s)
  else match s.place pos m with
    | none => (E.noSpace, [], s)
    | some (pages, ver, tables, s) =>
      let s := ((s.releaseResults pos).clearTotals pos).zeroFrames pos
      let s := { s with ms := { s.ms with hands := lset (lset s.ms.hands (2 * pos) 0) (2 * pos + 1) 0 } }
      let s := (s.setJob pos (loadedJob m port grant pages ver tables)).putTables pos
      let s := (m.regions.filter fun r => r.flash && r.load).foldl (fun (s : State) r => s.zeroFlash r) s
      let s := m.data.foldl (fun (s : State) d =>
        if isScratch d.dest then s else s.loadBytes pos d.dest (slice raw d.source d.length)) s
      (E.ok, leBytes 8 m.tag.toNat, s.spareCheck)

/-! ### Job start (R184, R246, R376) -/

/-- The context of a thread at job start (R184, R388). -/
def ThreadDecl.ctx (t : ThreadDecl) (index now : Nat) : Ctx :=
  { tid := t.core * 2 ^ 26 + index, pc := t.startPc, stream := t.stream, group := t.group, pred := 0, status := .runnable
    g := tset 0 1 t.g1 (tset 0 2 t.g2 (tset 0 3 t.g3 [])), wait := WaitRec.idle, out := [], xing := none, since := now }

/-- The contexts of a core's threads, in order. -/
def Manifest.ctxs (m : Manifest) (core now : Nat) : List Ctx :=
  let ts := m.threadsOf core
  (ts.zip (List.range ts.length)).map fun x => x.1.ctx x.2 now

/-- Tokens of a core's rings (R228, R246). -/
def Manifest.tokens (m : Manifest) (core : Nat) : Tbl Tok :=
  (m.rings.filter fun r => r.core == core).foldl (fun t r =>
    (List.range r.slots).foldl (fun t i =>
      tset Tok.empty (r.base + i * 2 ^ r.sizeLog2)
        { full := decide (i < r.initFull), holder := none, waiters := [], words := 2 ^ r.sizeLog2 } t) t) []

/-- A core at job start: contexts in berths 0 upward, the rest runnable in the swap area (R184). -/
def State.startCore (s : State) (pos core : Nat) : State :=
  let m := (s.job pos).man
  let cs := m.ctxs core s.aoc
  let s := s.updCore core fun k =>
    { Core.reset with
      power := k.power, pllFailed := k.pllFailed
      berths := (((cs.take 752).zip (List.range 752)).map fun x => (x.2, Berth.resident x.1)) ++ ballastBerths
      swapQueue := (cs.drop 752).map fun c => (c.tid, s.aoc), tokens := m.tokens core }
  (cs.drop 752).foldl (fun (s : State) c =>
    let s := s.updJob pos fun j => { j with swap := tset SwapRec.empty c.tid { valid := true, ctx := some c } j.swap }
    s.putRecord c.tid 0 c.recordBytes) s

/-- Every word of the job's cores is zero, then the manifest's scratchpad data is placed (R246). -/
def State.startScratch (s : State) (pos : Nat) : State :=
  let s := (s.coresOf pos).foldl (fun (s : State) c =>
    let a := spBase + c * 0x400000
    { s with ms := { (s.ms.cleared a 0x400000) with mem := zeroRange s.ms.mem a 0x400000 } }) s
  let m := (s.job pos).man
  (m.data.filter fun d => isScratch d.dest).foldl (fun (s : State) d => s.poke d.dest (slice m.raw d.source d.length)) s

/-- PROTECT is set in the entries of the mooring set before the first instruction (R353). -/
def Job.protect (j : Job) : Job :=
  let ps := j.man.moorSet.map Prod.fst
  { j with pages := updWhere (fun e => ps.contains e.1) (fun e => (e.1, { e.2 with protect := true })) j.pages }

/-- The job's own state at its start (R159, R184, R376). -/
def Job.started (j : Job) (now : Nat) : Job :=
  let m := j.man
  let j := { j.protect with
    st := .running, counters := m.counters.foldl (fun t c => tset 0 c.1 (BitVec.ofNat 32 c.2) t) [], swap := [], stall := 0
    startedAt := now, bound := [], releases := [], pubs := m.publish.map fun p => { served := m.ctrInit p.pubCtr, copying := none, marks := [] }
    reqServed := match m.epochs with
      | some d => m.ctrInit d.stepCtr
      | none => 0 }
  if j.restored.isSome || m.epochs.isNone then j
  else { j with epochs := [{ epoch := 0, st := .current, moorHold := false, slots := 0 }], prot := [] }

/-- PTE_UPDATE crossings that set PROTECT: up to 256 granules of page table each, both replicas counted (R324, R353; as few as can be is
log 115, DESIGN CHOICE, unsafe). -/
def Job.protectCrossings (j : Job) : Nat :=
  ceilDiv (dedupNat (j.man.moorSet.flatMap fun p => ([0, 1] : List Nat).filterMap fun k => (j.leafAt k p.1 p.2.1).map fun a => a / 64)).length 256

/-- The position moves to RUNNING (R184, R246, R345, R376, R542); a mooring that an earlier job left goes on (log 118, DEDUCED, unsafe). -/
def State.startJob (s : State) (pos : Nat) : State :=
  let s := s.updJob pos fun j => j.started s.aoc
  let s := (((s.job pos).pages.filter fun e => e.2.protect).foldl (fun s e => s.putLeaf pos e) s).countBy 0x1040 (s.job pos).protectCrossings
  let s := if pos = 0 then { (s.dropDue 0) with moor := { (s.dropDue 0).moor with lastPoint := 0 } } else s
  let s := s.startScratch pos
  let s := match (s.job pos).man.epochs with
    | some d => if (s.job pos).restored.isSome then s else s.loadBytes pos d.stepWord (leBytes 8 0)
    | none => s
  let s := ((s.coresOf pos).foldl (fun (s : State) c => s.startCore pos c) s).updSpan pos fun _ => Span.reset
  s.settleDev

/-- PIN pages: (page, preferred stack). -/
def Job.pinPages (j : Job) : List (Nat × Nat) := (j.pages.filter fun e => e.2.pin).map fun e => (e.1, j.man.stackOfPage e.1)

/-- Every PIN page is read. Answers whether all came (R330, R345). -/
def State.readPins (s : State) (pos : Nat) (reads : List (Nat × PageRead)) : Bool × State :=
  s.readPages (((s.job pos).pages.filter fun e => e.2.pin).map fun e => (e.1, e.2.flashPage)) reads

/-- Each PIN page takes a frame of its region's pool, in a RESIDENCY crossing of its own (R288, R333, R345). -/
def State.pinIn (s : State) (pos : Nat) : State :=
  (s.job pos).pinPages.foldl (fun (s : State) p =>
    match (s.freePool pos p.2).head? with
    | some a => s.cross (pageCross pos p.1 []) (fun _ s => s) fun s => s.makeResident pos p.1 a
    | none => s) s

/-- JOB_START_PINS_DONE: the PIN pages are resident and the job runs, or one of them cannot be read and the job stays LOADED
(R345, R633). It waits for a map-out (R241, R243) and for a free crossing entry. -/
def execJobStartPinsDone (pos : Nat) (reads : List (Nat × PageRead)) (s : State) : Outc :=
  .next (if !s.live || (s.job pos).st != .loaded || !s.starting pos || s.mapOutOpen pos || s.freeFwEntry.isNone ||
      s.heldByXing ((s.job pos).pinPages.map fun p => .pte pos p.1) then s
    else match s.readPins pos reads with
      | (false, s) => s.answerJob Cap.jobStart pos E.uncorrectable
      | (true, s) =>
        if (s.job pos).pinPages.any fun p => s.entBad (.pte pos p.1) then s.answerJob Cap.jobStart pos E.uncorrectable
        else ((s.pinIn pos).startJob pos).answerJob Cap.jobStart pos E.ok)

end Sys2Proof.Machine
end

