-- ==== Sys2Proof/Machine/Ports.lean ====
section
/-! DEFINITION. Host ports (chapters 16 and 22): the landing, event rings, MSI-X, the bootstrap block, port resets, PERST and the
BAR0 registers. -/

namespace Sys2Proof.Machine

/-- A host reaches the port: firmware runs and the port's PERST has been released (R601). -/
def State.portUp (s : State) (p : Nat) : Bool := decide (p < 2) && s.fwUp && s.pw.perst.getD p false

/-! ### The landing (R479, R482 to R487) -/

/-- Expected sequence of a slot (R483); a slot never taken expects its own number. -/
def Port.expect (q : Port) (slot : Nat) : Nat := (slot + 4096 * tget 0 slot q.expected) % 2 ^ 32

/-- The bytes of a slot. -/
def Port.slotBytes (q : Port) (slot : Nat) : List Byte := rdBytes q.slots (64 * slot) 64

/-- What an examined slot is (R484). -/
inductive Sealing where
  | good
  | misSequenced
  | unsealed
deriving DecidableEq, Repr

def Port.sealing (q : Port) (slot : Nat) : Sealing :=
  let b := q.slotBytes slot
  let e := q.expect slot
  let c := (crc32c (b.take 60)).toNat
  if fld b 60 4 = c ^^^ e ∧ fld b 4 4 = e then .good
  else if fld b 60 4 = c ^^^ fld b 4 4 ∧ fld b 4 4 ≠ e then .misSequenced
  else .unsealed

/-- The slot counts as sealed, or as the host's again (R485). -/
def Port.markSealed (q : Port) (slot : Nat) (yes : Bool) : Port :=
  let was := q.sealedSlots.contains slot
  if yes then (if was then q else { q with sealedSlots := q.sealedSlots ++ [slot], held := q.held - 1 })
  else if was then { q with sealedSlots := q.sealedSlots.erase slot, held := q.held + 1 } else q

/-- A mis-sequenced or unsealed slot is answered once per port at a time (R484); the answer repeats the slot's OPCODE, SEQUENCE and
TAG (log 52, DEDUCED, unsafe). -/
def State.slotFault (s : State) (p slot : Nat) (code : Code) : State :=
  let q := s.port p
  if q.answerPending then s.updPort p fun q => { q with slotFaults := Nat.min (2 ^ 64 - 1) (q.slotFaults + 1) }
  else
    let r : Running := { bytes := (q.slotBytes slot).take 60, since := 0, data := [] }
    let e := s.doneEvent r code []
    (s.count (0x10D0 + 8 * p)).updPort p fun q => ({ q with answerPending := true } : Port).post e

def State.examine (s : State) (p slot : Nat) : State :=
  match (s.port p).sealing slot with
  | .good => s.updPort p fun q => q.markSealed slot true
  | .misSequenced => (s.updPort p fun q => q.markSealed slot false).slotFault p slot E.capSeq
  | .unsealed => (s.updPort p fun q => q.markSealed slot false).slotFault p slot E.capSeal

/-- The capsule in its slot is taken: a queue entry is reserved for its response, the slot returns as a credit (R483, R485,
R494). -/
def Port.take (q : Port) (slot now : Nat) : Port :=
  { q with
    sealedSlots := q.sealedSlots.erase slot, expected := tset 0 slot (tget 0 slot q.expected + 1) q.expected, next := q.next + 1
    takenAt := if q.lcredits = 0 then now else q.takenAt, lcredits := q.lcredits + 1, reserved := q.reserved + 1
    taken := q.taken ++ [{ bytes := (q.slotBytes slot).take 60, since := now, data := [] }] }

/-- Capsules are taken in ascending sequence while the queue has room for their responses (R484, R494), and not before the device
has left standby (R544). -/
def State.takeSlots (s : State) (p : Nat) : Nat → State
  | 0 => s
  | n + 1 =>
    let q := s.port p
    let slot := q.next.toNat % 4096
    if !s.pw.standby && q.sealedSlots.contains slot && q.expect slot == q.next.toNat && decide (q.queue.length + q.reserved < 8192) then
      State.takeSlots ((s.updPort p fun q => q.take slot s.aoc).count (0x10C0 + 8 * p)) p n
    else s

def State.takeAll (s : State) (p : Nat) : State :=
  let s := s.takeSlots p (s.port p).sealedSlots.length
  s.settleTaken p (s.port p).taken.length

/-- The part of a write that falls in one slot; the slot is examined when its bytes 60 to 63 are covered (R484). Log 66: DEDUCED, unsafe. -/
def State.writeSlot (s : State) (p slot off : Nat) (data : List Byte) : State :=
  let lo := Nat.max off (64 * slot)
  let hi := Nat.min (off + data.length) (64 * slot + 64)
  let s := s.updPort p fun q => { q with slots := wrBytes q.slots lo ((data.drop (lo - off)).take (hi - lo)) }
  if lo ≤ 64 * slot + 60 ∧ hi = 64 * slot + 64 then (s.examine p slot).takeAll p else s

/-- Events go to the bootstrap block (R496), of a port whose law 2 or 3 is lost too (R588). -/
def State.toBlock (s : State) (p : Nat) : Bool := (s.port p).ring.isNone || s.boot.holding || (s.port p).untrusted

/-- Law 2 or 3 of a port is lost (R585); its events go to its bootstrap block from then on (R588). -/
def State.lostPort (s : State) (law p : Nat) : State := (s.updPort p fun q => { q with untrusted := true }).lostLaw law p 0xFFFF

/-- LANDING_SEAL_WRITE: a write of the landing takes effect slot by slot (R479); an uncorrectable slot state,
expected sequence or credit count loses law 2 (R585). -/
def execLandingSealWrite (port off : Nat) (data : List Byte) (bad : Bool) (s : State) : Outc :=
  .next (if !s.portUp port || data.isEmpty || decide (262144 < off + data.length) then s
    else if bad then s.lostPort 2 port
    else
      let first := off / 64
      (List.range ((off + data.length - 1) / 64 - first + 1)).foldl (fun (s : State) i => s.writeSlot port (first + i) off data) s)

/-! ### Events (R489, R491 to R496, R624) -/

/-- The 64 bytes of an event capsule (R489). -/
def Event.capsule (e : Event) (seq lcredits : Nat) : List Byte :=
  let b := leBytes 2 e.event ++ leBytes 2 e.kind ++ leBytes 4 seq ++ leBytes 4 e.tag ++ leBytes 2 e.code.toNat ++ leBytes 2 lcredits ++
    leBytes 8 e.time ++ slice e.body 0 36
  b ++ leBytes 4 (crc32c b).toNat

/-- The event answers an untaken slot (R484). -/
def Event.slotAnswer (e : Event) : Bool := e.event == 2 && e.kind == 0 && (e.code == E.capSeal || e.code == E.capSeq)

/-- The event is a response or EV_CREDIT (R495). -/
def Event.isResponse (e : Event) : Bool := e.event == 1 || (e.event == 2 && e.kind == 0)

/-- The oldest event leaves the queue with the port's pending landing credits (R493). -/
def Port.shift (q : Port) (e : Event) (rest : List Event) : Port :=
  let lc := Nat.min 65535 q.lcredits
  { q with queue := rest, lcredits := q.lcredits - lc, held := q.held + lc, evseq := q.evseq + 1
           answerPending := q.answerPending && !e.slotAnswer }

def Port.nextCapsule (q : Port) (e : Event) : List Byte := e.capsule q.evseq.toNat (Nat.min 65535 q.lcredits)

/-- MSI-X vector `v` is masked: its pending bit is set instead (R495). -/
def Port.masked (q : Port) (v : Nat) : Bool := (rd8 q.msix (16 * v + 12)).getLsbD 0

def State.sendMsix (s : State) (p v : Nat) : State :=
  if (s.port p).masked v then s.updPort p fun q => { q with pba := q.pba ||| (1#32 <<< v) }
  else s.out (.msix p v)

/-- EVENT_WRITE: the oldest event goes into the ring against a credit; the last free entry takes only an event that carries
landing credits (R492). An uncorrectable credit count loses law 3 (R585). -/
def execEventWrite (port : Nat) (bad : Bool) (s : State) : Outc :=
  .next (
    let q := s.port port
    match q.ring, q.queue with
    | some r, e :: rest =>
      if !s.portUp port || s.toBlock port || r.credits == 0 || (r.credits == 1 && q.lcredits == 0) then s
      else if bad then s.lostPort 3 port
      else
        let s := s.out (.hostWrite port (r.addr + 64 * (q.evseq.toNat % r.entries)) (q.nextCapsule e))
        (s.updPort port fun q => { (q.shift e rest) with
          ring := some { r with credits := r.credits - 1, written := r.written + 1 }
          toAnnounce := q.toAnnounce ++ [if e.isResponse then 0 else 1] }).takeAll port
    | _, _ => s)

/-- EV_CREDIT: landing credits have been pending for 2 µs with no event to carry them (R493). -/
def execEvCredit (port : Nat) (s : State) : Outc :=
  .next (
    let q := s.port port
    if !s.fwUp || decide (2 ≤ port) || q.lcredits == 0 || !q.queue.isEmpty || decide (s.aoc < q.takenAt + 50) then s
    else s.post port (s.mkEvent 1 0 E.ok []))

/-- MSIX_SEND: one message covers every event written before it, MODERATION after the last (R495). -/
def execMsixSend (port : Nat) (s : State) : Outc :=
  .next (
    let q := s.port port
    match q.ring with
    | none => s
    | some r =>
      let early := match q.lastMsix with
        | some t => decide (s.aoc < t + 25 * r.moderation)
        | none => false
      if !s.portUp port || q.toAnnounce.isEmpty || early then s
      else
        let v := if q.toAnnounce.all fun k => k == 0 then r.vecResp else r.vecAsync
        (s.sendMsix port v).updPort port fun q => { q with toAnnounce := [], lastMsix := some s.aoc })

/-- BOOTSTRAP_EVENT_WRITE: with VALID 0 the oldest event enters the block, and vector 0 is sent (R496, R624). -/
def execBootstrapEventWrite (port : Nat) (s : State) : Outc :=
  .next (
    let q := s.port port
    match q.queue with
    | [] => s
    | e :: rest =>
      if !s.fwUp || decide (2 ≤ port) || !s.toBlock port || q.blockValid then s
      else
        let s := s.updPort port fun q => { (q.shift e rest) with block := q.nextCapsule e, blockValid := true }
        (s.sendMsix port 0).takeAll port)

/-! ### Port reset and PERST (R481, R512, R601, R622, R628) -/

/-- A port as it stands after its reset. Taken capsules, the running one, queued events (an untaken slot's answer among them), staged
settings and the list of ended groups stay (R308, R481, R535). Log 67: DEDUCED, unsafe. -/
def Port.afterReset (q : Port) : Port :=
  let (group, ended) := match q.group with
    | some (h, _) => (none, ((h, E.xingAborted) :: q.ended).take 16)
    | none => (q.group, q.ended)
  { Port.reset with
    taken := q.taken, running := q.running, landing := q.landing, queue := q.queue, reserved := q.reserved, staged := q.staged
    answerPending := q.answerPending, group := group, ended := ended, block := q.block, untrusted := q.untrusted }

/-- A feed opened through the port closes as FEED_CLOSE closes it: at once, or after the block being read (R481, R506). -/
def Feed.shut (f : Feed) : Feed := if f.pulling then { f with closing := true } else { f with isOpen := false }

def State.shutFeeds (s : State) (port : Nat) : State :=
  [0, 1].foldl (fun (s : State) pos => if (s.job pos).feeds.any fun f => f.isOpen && f.port == port then
      let mine := (List.range 8).filter fun i => (((s.job pos).feeds[i]?).elim false fun f => f.isOpen && f.port == port)
      (s.conflict (mine.map fun i => .feed pos i)).updJob pos fun j =>
        { j with feeds := j.feeds.map fun f => if f.isOpen && f.port == port then f.shut else f }
    else s) s

/-- The crossing entry of an open capsule group. -/
def State.groupEntry (s : State) (port : Nat) : Option Nat :=
  (s.xings.find? fun e => match e.2.opener with
    | .group p _ => p == port
    | _ => false).map Prod.fst

/-- PORT_RESET (R481, R550): a group discarded by it counts as aborted (R594). -/
def execPortReset (port : Nat) (s : State) : Outc :=
  .next (if !s.fwUp || decide (2 ≤ port) then s
    else
      let s := match s.groupEntry port with
        | some k => (s.dropXing k).count (abortCounter E.xingAborted)
        | none => s
      ((s.updPort port fun q => q.afterReset).shutFeeds port).fire (228 + port))

/-- PERST_RELEASE: acted on once PWR_GOOD has been high for 100 ms (R601). -/
def execPerstRelease (port : Nat) (s : State) : Outc :=
  .next (if !s.pw.pwrGood || decide (2 ≤ port) || decide (s.aoc < s.pw.goodSince + 2500000) then s
    else { s with pw := { s.pw with perst := lset s.pw.perst port true } })

/-! ### BAR0 (R617 to R627) -/

/-- A register write with a non-zero bit of a reserved field (a bit of `rsv`) is ignored (R13; log 59, DEDUCED, unsafe). -/
def rsvOk (v : W64) (rsv : Nat) : Bool := v &&& BitVec.ofNat 64 rsv == 0

/-- Writing 1 to BOOT_RESP_CTRL.VALID (R624). -/
def State.clearBlock (s : State) (port : Nat) (v : W64) : State :=
  if v.getLsbD 0 && rsvOk v 0xFFFFFFFFFFFFFFFE then s.updPort port fun q => { q with blockValid := false } else s

/-- BOOT_RESP_VALID_CLEAR. -/
def execBootRespValidClear (port : Nat) (value : W64) (s : State) : Outc :=
  .next (if s.portUp port then s.clearBlock port value else s)

/-- Writing 1 to SNAP_STATUS.VALID (R623). -/
def State.clearSnap (s : State) (v : W64) : State :=
  if v.getLsbD 63 && rsvOk v 0x7FFF00FFFFFF0000 && s.snap.valid then { s with snap := { Snapshot.reset with lawsReported := s.snap.lawsReported } } else s

/-- SNAP_VALID_CLEAR. -/
def execSnapValidClear (port : Nat) (value : W64) (s : State) : Outc :=
  .next (if s.portUp port then s.clearSnap value else s)

/-- RING_RECORDS in range (R503, R625). -/
def ringRecordsOk (n : Nat) : Bool := isPow2 n && decide (2 ≤ n) && decide (n ≤ 2 ^ 24)

/-- CARGO_CTRL with OPEN (R625). -/
def Cargo.open_ (c : Cargo) : Cargo :=
  if c.isOpen then { c with code := E.busy }
  else if !ringRecordsOk c.records then { c with code := E.argRange }
  else if c.ring % 64 ≠ 0 ∨ c.prod % 8 ≠ 0 ∨ c.cons % 8 ≠ 0 then { c with code := E.argAlign }
  else { c with isOpen := true, code := E.ok }

/-- CARGO_CTRL with CLOSE (R625). -/
def Cargo.close (c : Cargo) : Cargo := if c.isOpen then { c with isOpen := false, code := E.ok } else { c with code := E.noJob }

def State.updCargo (s : State) (port : Nat) (f : Cargo → Cargo) : State := s.updPort port fun q => { q with cargo := f q.cargo }

/-- The cargo feed opens or closes through its registers; a capsule group that holds it aborts (R298, R625). -/
def State.actCargo (s : State) (port : Nat) (f : Cargo → Cargo) : State :=
  if (f (s.port port).cargo).isOpen = (s.port port).cargo.isOpen then s.updCargo port f else (s.conflict [.cargo port]).updCargo port f

/-- CARGO_OPEN. -/
def execCargoOpen (port : Nat) (s : State) : Outc := .next (if s.portUp port then s.actCargo port Cargo.open_ else s)

/-- CARGO_CLOSE. -/
def execCargoClose (port : Nat) (s : State) : Outc := .next (if s.portUp port then s.actCargo port Cargo.close else s)

/-- A write to part of a 64-bit register. -/
def mergeReg (old off size value : Nat) : Nat := leNat (patch (leBytes 8 old) (off % 8) (leBytes size value))

/-- Writes of the cargo registers; they are ignored while the feed is open (R625). -/
def Cargo.write (c : Cargo) (off size value : Nat) : Cargo :=
  if c.isOpen then c
  else match off / 8 * 8 with
    | 0x600 => { c with ring := mergeReg c.ring off size value }
    | 0x608 => if mergeReg c.records off size value < 2 ^ 32 then { c with records := mergeReg c.records off size value } else c
    | 0x610 => { c with prod := mergeReg c.prod off size value }
    | 0x618 => { c with cons := mergeReg c.cons off size value }
    | _ => c

/-- A write of CARGO_CTRL (R625). -/
def Cargo.control (c : Cargo) (v : Nat) : Cargo :=
  if 4 ≤ v then c
  else match v with
    | 1 => c.open_
    | 2 => c.close
    | _ => { c with code := E.argFormat }

/-- A write of the MSI-X table; unmasking a vector with its pending bit set sends its message (R627). -/
def State.writeMsix (s : State) (port off size value : Nat) : State :=
  let v := off / 16
  let s := s.updPort port fun q =>
    let m := wrNat q.msix off size value
    -- the mask bit is the only bit of Vector Control
    { q with msix := wrBytes m (16 * v + 12) [(rd8 m (16 * v + 12)) &&& 1, 0, 0, 0] }
  let q := s.port port
  if q.pba.getLsbD v && !q.masked v then (s.updPort port fun q => { q with pba := q.pba &&& ~~~ (1#32 <<< v) }).out (.msix port v) else s

/-- REGISTER_WRITE: an aligned write of 4 or 8 bytes; registers that are read-only or absent ignore it (R617 to R619). -/
def execRegisterWrite (port off size : Nat) (value : W64) (s : State) : Outc :=
  .next (
    let v := value.toNat % 2 ^ (8 * size)
    if !s.portUp port || !(size == 4 || size == 8) || off % size != 0 then s
    else if 0x600 ≤ off ∧ off < 0x620 then s.updCargo port fun c => c.write off size v
    else if off = 0x620 then s.actCargo port fun c => c.control v
    else if off = 0x540 then s.clearBlock port (BitVec.ofNat 64 v)
    else if off = 0x400 ∧ size = 8 then s.clearSnap value
    else if off = 0x404 then s.clearSnap (BitVec.ofNat 64 (v * 2 ^ 32))
    else if 0x7000 ≤ off ∧ off < 0x7200 then s.writeMsix port (off - 0x7000) size v
    else s)

end Sys2Proof.Machine
end

