-- ==== Sys2Proof/Machine/Boot.lean ====
section
/-! DEFINITION. Boot (R38, R512, R516 to R523, R584), and what a loss of the switched rails takes with it (R598). -/

namespace Sys2Proof.Machine

/-- The tier as a boot finds it: the map is the last checkpoint with its journal, and a block that it names no more holds nothing valid
(R326, R344); the thresholds of free spare stand as they are (R339, R342). -/
def Flash.kept (f : Flash) : Flash :=
  let g := { f with map := f.replay, skip := [], ages := [], ageTicks := 0, powered := false }
  let g := g.blocks.foldl (fun g b => g.settleBlk b.1) g
  { g with wornSent := g.below 2, fallback := g.below 8 }

/-- What outlives the switched rails: the bytes and the map of the flash tier; a unit that is not mapped reads as zeros (R326, R344). -/
def MemSys.kept (m : MemSys) : MemSys :=
  let f := m.flash.kept
  { MemSys.reset with
    mem := m.mem.filter fun c => decide (flashBase ≤ c.1) && tget 0 ((c.1 - flashBase) / 0x4000) f.map != 0
    flashBad := m.flashBad.filter fun u => tget 0 u f.map != 0, flash := f }

/-- Everything that a boot finds fresh (R245, R344, R370, R400, R445, R512, R594). Log 76: DEDUCED, unsafe. -/
def State.fresh (s : State) : State :=
  { s with
    fabric := 0, cores := [], jobs := [], ms := s.ms.kept, engines := Engine.all, spans := [Span.reset, Span.reset], totals := []
    xings := [], nextHandle := 0, moor := Moor.closed, restore := Restore.closed, tide := TideInputs.reset, ras := []
    results := [], az := Az.reset, cfg := ConfigRec.default }

/-- A bank whose programming a power loss interrupts fails verification (R528). -/
def State.tearStaged (s : State) : State :=
  [0, 1].foldl (fun (s : State) p => match (s.port p).running with
    | some r =>
      if r.opcode = Cap.imageStage ∧ !r.data.isEmpty ∧ !s.boot.torn.contains (r.arg 12 1) then
        { s with boot := { s.boot with torn := s.boot.torn ++ [r.arg 12 1] } }
      else s
    | none => s) s

/-- The switched rails go off and the device is in ALWAYS-ON (R543, R565, R571, R598, R616): only the always-on domain, the flash
tier and the boot flash keep anything. -/
def State.dropRails (s : State) (cause : Nat) : State :=
  let s := s.tearStaged.fresh.setDev .alwaysOn
  { s with
    iu := IntUnit.reset, ports := [], snap := { s.snap with lawsReported := 0 }
    boot := { s.boot with booting := false, done := false, holding := false, bank := 3, image := none, owner := none
                          challenge := none, scopes := 0, rollbackRaise := none, order := none }
    pw := { s.pw with standby := false, pwrGood := false, railsStarting := false, powerDown := false, lastCause := cause
                      statusUnread := true, perst := [false, false], powerDuty := 16, thermalDuty := 16, refresh2x := [false, false] } }

/-- A port at a boot that leaves Holding: events that wait stay, and so does the MSI-X table (R512, R522). -/
def Port.atBoot (q : Port) : Port :=
  { Port.reset with queue := q.queue, evseq := q.evseq, block := q.block, msix := q.msix, pba := q.pba, staged := q.staged, ended := q.ended }

/-- A response waits in a queue. -/
def State.responseWaits (s : State) : Bool := [0, 1].any fun p => (s.port p).queue.any fun e => e.event == 2 && e.kind == 0

/-- Step 2 of R519. -/
def State.beginBoot (s : State) : State :=
  let s := s.fresh
  { s with ports := s.ports.map fun p => (p.1, p.2.atBoot) }

/-- Neither bank is bootable (R522). -/
def State.enterHolding (s : State) (a b : Code) : State :=
  let s := { s with boot := { s.boot with booting := false, holding := true, bank := 3, holdCodes := [a, b], image := none, owner := s.storedOwner } }
  s.postBoth (s.mkEvent 9 0 E.ok (evBody [(24, 2, a.toNat), (26, 2, b.toNat)]))

/-- The entries of the stored field repair map (R239, R244). -/
def storedRemaps (b : List Byte) : List Remap :=
  (List.range 1024).filterMap fun i =>
    let w := fld b (4 * i) 4
    if bits w 31 1 = 1 then some { core := bits w 25 6, bank := bits w 19 6, spare := bits w 16 3, row := bits w 7 9 } else none

/-- Step 4: the booted image, its configuration, and the logbook (R517, R520, R530, R534, R570). -/
def State.configure (s : State) (bank : Nat) : State :=
  let b := bankBytes s.boot.flash bank
  let i := imageOf b
  { s with
    cfg := configFor s.storedOwner i.config
    ms := { s.ms with remaps := storedRemaps (s.logValue Rec.repairMap)
                      flash := { s.ms.flash with lifetimeBytes := fld (s.logValue Rec.lifetime) 0 8 } }
    boot := { s.boot with booting := false, holding := false, bank := bank, image := some i, owner := s.storedOwner
                          bootPeerTimeout := s.setting 0x1202, bootHbTimeout := s.setting 0x1203 } }

/-- A failure at steps 5 to 7 (R521, R586): the privileged source of the cause, the core nearest it. Which source fires for a stack or a
map is log 56, DEDUCED, unsafe. -/
def State.bootFails (s : State) (f : BootFail) : State :=
  match f with
  | .none => s
  | .pll core => s.enterFaulted 7 E.uncorrectable 0 0xFFFFFFFF core
  | .bridge => s.enterFaulted 5 E.uncorrectable 0 0xFFFFFFFF 0xFFFF
  | .dram stack => s.enterFaulted (stack % 2) E.uncorrectable 0 0xFFFFFFFF 0xFFFF
  | .map => s.enterFaulted 8 E.uncorrectable 0 0xFFFFFFFF 0xFFFF

/-- Words that fail the zeroing pass (bank as core * 64 + bank, word of the bank): the row in use is tallied and marked (R240, R245). -/
def State.zeroed (s : State) (fails : List (Nat × Nat)) : State :=
  fails.foldl (fun s f =>
    let row := f.1 * bankRows + f.2 / 32
    if (s.answers f.1 (f.2 / 32)).isSome then (s.tallyRow row (f.1 * 16640 + f.2)).markRow row else s) s

/-- Copy slots of FLASH_ROOT that hold an older key than the one in force (R576). -/
def State.oldRoots (s : State) : List Nat :=
  let r := s.logRec Rec.flashRoot
  (List.range 4).filter fun i => match (r.slots.getD i LogCopy.blank).data with
    | some p => slice p 16 72 != s.wrappedKey
    | none => false

/-- Before step 7 firmware rewrites the slots that hold an older key, so that an erase always completes (R576). -/
def State.finishErase (s : State) : State :=
  if s.oldRoots.isEmpty then s
  else
    let r := s.logRec Rec.flashRoot
    (s.setLog Rec.flashRoot (s.oldRoots.foldl (fun r i => r.putSlot i s.aoc (r.payload.getD [])) r)).count 0x1040

/-- The first boot of a part draws the XTS key and stores an empty map (R331); FLASH_ROOT was never stored before (log 114,
DESIGN CHOICE, unsafe). -/
def State.firstKey (s : State) : State :=
  if s.logRec Rec.flashRoot = LogRec.empty then
    let (key, s) := s.freshKey
    s.logFirmware Rec.flashRoot (flashRootBytes 0 0 key)
  else s

/-- Steps 7 to 9: the flash tier, the generations of this boot (R437), and Azlink; a module with no PEER_ID has booted (R521). -/
def State.bringUp (s : State) : State :=
  let base := fld (s.logValue Rec.windowGen) 0 4 % 2 ^ 20
  let s := s.logFirmware Rec.windowGen (leBytes 4 ((base + 0x40000) % 2 ^ 20))
  let s := { s with
    ms := { s.ms with flash := { s.ms.flash with powered := true } }
    az := { s.az with started := s.cfg.peerId.isSome, genBase := base } }
  if s.cfg.peerId.isNone then s.bootDone else s

/-- A bootable bank boots. A FLASH_ROOT record without a valid copy is a map that cannot be read (R531). -/
def State.bootBank (s : State) (bank : Nat) (r : BootRun) : State :=
  let s := (((s.configure bank).zeroed r.zeroing).firstKey).finishErase
  let f := if r.fail = .none ∧ (s.logRec Rec.flashRoot).payload = none then .map else r.fail
  if f = .none then s.bringUp else s.bootFails f

/-- BOOT: from power-up, or after a stage in Holding whose response has been written (R519, R522). It waits for the second of R533
before it stores WINDOW_GEN, or FLASH_ROOT. -/
def execBoot (readA readB : Bool) (fail : BootRun) (s : State) : Outc :=
  .next (
    if s.dev != .idle || !s.boot.booting || (s.boot.holding && s.responseWaits) || s.logBusy Rec.windowGen ||
      (!s.oldRoots.isEmpty && s.logBusy Rec.flashRoot) then s
    else
      let s := s.beginBoot
      match s.bankCode 0 readA s.storedOwner with
      | (a, s) =>
        if a = E.ok then s.bootBank 0 fail
        else match s.bankCode 1 readB s.storedOwner with
          | (b, s) => if b = E.ok then s.bootBank 1 fail else s.enterHolding a b)

end Sys2Proof.Machine
end

