-- ==== Sys2Proof/Machine/Registers.lean ====
section
/-! DEFINITION. What a host reads: state codes (R541, chapter 22), the BAR0 registers (R617 to R628) and the landing (R479). A read
changes no state (R619), so these are functions of the state and not commands. -/

namespace Sys2Proof.Machine

/-- Device state codes (R541); a host never observes OFF. -/
def DevState.code : DevState → Nat
  | .off => 0 | .alwaysOn => 1 | .idle => 2 | .active => 3 | .faulted => 4

/-- Job state codes (chapter 22, BAR0_DEVSTATE). -/
def JobState.code : JobState → Nat
  | .none => 0 | .loaded => 1 | .running => 2 | .ending => 3

/-- PEER_ID, 0xFFFF when none. -/
def State.peerIdOr (s : State) : Nat := s.cfg.peerId.getD 0xFFFF

/-- BAR0_DEVSTATE (R621). -/
def State.devstate (s : State) : Nat :=
  s.pw.lastCause * 2 ^ 28 + s.reserved * 2 ^ 23 + s.tide.level * 2 ^ 20 + s.pw.standby.toNat * 2 ^ 19 +
  (s.job 1).st.code * 2 ^ 17 + (s.job 0).st.code * 2 ^ 15 + s.boot.holding.toNat * 2 ^ 14 + s.boot.done.toNat * 2 ^ 13 +
  s.boot.bank * 2 ^ 11 + s.dev.code

/-- The usable spares of a bank (R242, R626). -/
def State.spares (s : State) (core bank : Nat) : Nat := (s.spareOf ((core * 64 + bank) * bankRows) []).length

/-- Landing and event-ring registers (chapter 22). -/
def Port.ringReg (q : Port) (off : Nat) : Nat :=
  match off with
  | 0x200 => q.next.toNat * 2 ^ 32 + 64 * 2 ^ 16 + 4096
  | 0x208 => q.lcredits % 2 ^ 16
  | 0x210 => match q.ring with
    | some r => r.addr
    | none => 0
  | 0x218 => q.evseq.toNat * 2 ^ 32 + (match q.ring with
    | some r => r.entries
    | none => 0)
  | 0x220 => match q.ring with
    | some r => r.credits
    | none => 0
  | 0x228 => q.queue.length % 2 ^ 16
  | 0x230 => q.slotFaults
  | _ => 0

/-- Cargo registers (R625); CARGO_CTRL is write-only and reads 0. -/
def Cargo.reg (c : Cargo) (off : Nat) : Nat :=
  match off with
  | 0x600 => c.ring
  | 0x608 => c.records
  | 0x610 => c.prod
  | 0x618 => c.cons
  | 0x628 => c.code.toNat * 2 ^ 16 + c.isOpen.toNat
  | 0x630 => c.cursor
  | _ => 0

/-- Error snapshot registers (R622). -/
def Snapshot.reg (x : Snapshot) (off : Nat) : Nat :=
  match off with
  | 0x400 => x.valid.toNat * 2 ^ 63 + x.count * 2 ^ 40 + x.code.toNat
  | 0x408 => x.laws.toNat
  | 0x410 => x.locator
  | 0x418 => x.time
  | _ => 0

/-- The 64-bit register at an 8-byte aligned offset of a port's BAR0; an offset without a register reads 0 (R14). -/
def State.bar0 (s : State) (port off : Nat) : Nat :=
  let q := s.port port
  if off = 0 then 2 ^ 32 + 0x00B0 * 2 ^ 16 + port
  else if 0x20 ≤ off ∧ off < 0x40 then fld identityKey (off - 0x20) 8
  else if off = 0x100 then s.devstate
  else if off = 0x108 then s.az.epoch.toNat * 2 ^ 32 + s.peerIdOr
  else if off = 0x110 then s.aoc
  else if 0x200 ≤ off ∧ off < 0x300 then q.ringReg off
  else if 0x400 ≤ off ∧ off < 0x500 then s.snap.reg off
  else if 0x500 ≤ off ∧ off < 0x540 then fld q.block (off - 0x500) 8
  else if off = 0x540 then q.blockValid.toNat
  else if 0x600 ≤ off ∧ off < 0x700 then q.cargo.reg off
  else if 0x1000 ≤ off ∧ off < 0x1C00 then tget 0 off s.ras
  else if 0x7000 ≤ off ∧ off < 0x7200 then rdNat q.msix (off - 0x7000) 8
  else if off = 0x7800 then q.pba.toNat
  else if 0x8000 ≤ off then s.spares ((off - 0x8000) / 512) ((off - 0x8000) / 8 % 64)
  else 0

/-- What a read of a slot returns: the bytes last written to it (R479). -/
def State.landingRead (s : State) (port slot : Nat) : List Byte := (s.port port).slotBytes slot

end Sys2Proof.Machine
end

