-- ==== Sys2Proof/Machine/Query.lean ====
section
/-! DEFINITION. The common checks of a taken capsule (R486, R487) and the immediate capsules: QUERY (R499, R537) and CREDIT (R492). -/

namespace Sys2Proof.Machine

/-! ### Common checks (R487) -/

/-- FLAGS or a reserved argument byte is not zero; of JOB_LOAD's byte 13 only bit 0 is defined (R498). -/
def Running.formatBad (r : Running) : Bool :=
  let fs := ((capFields.find? fun f => f.1 == r.opcode).map Prod.snd).getD []
  r.arg 2 2 != 0 ||
  ((List.range 48).any fun i => r.arg (12 + i) 1 != 0 && !fs.any fun f => within (12 + i) 1 f.1 f.2) ||
  (r.opcode == Cap.jobLoad && decide (1 < r.arg 13 1))

/-- Boot is under way (R487 check 5). -/
def State.bootUnderWay (s : State) : Bool := !s.boot.holding && s.dev != .faulted && !s.boot.done

/-- The first five checks of R487. -/
def State.commonCode (s : State) (r : Running) : Code :=
  if !r.defined then E.capOpcode
  else if r.formatBad then E.argFormat
  else if s.boot.holding && !([Cap.query, Cap.imageStage, Cap.attest].contains r.opcode) then E.holding
  else if s.dev == .faulted && !([Cap.query, Cap.credit, Cap.evqSetup, Cap.attest, Cap.imageStage].contains r.opcode) then E.faulted
  else if s.bootUnderWay && !r.immediate && !([Cap.evqSetup, Cap.attest].contains r.opcode) then E.busy
  else E.ok

/-- The first taken capsule of an immediate opcode acts (R486), while the control domain is awake (R561). -/
def State.immediate (s : State) (port op : Nat) (f : State → Running → State) : State :=
  if !s.fwUp || s.iu.asleep || decide (2 ≤ port) then s
  else match (s.port port).taken.find? fun r => r.opcode == op with
    | none => s
    | some r =>
      let s := s.updPort port fun q => q.dropTaken r
      let c := s.commonCode r
      if c ≠ E.ok then s.respond port r c [] else f s r

/-! ### Records of QUERY (R499) -/

/-- Item 0x0000. -/
def State.qDevice (s : State) (port : Nat) : List Byte :=
  leBytes 2 0x00B0 ++ leBytes 1 s.dev.code ++ leBytes 1 s.boot.bank ++ leBytes 1 (s.job 0).st.code ++ leBytes 1 (s.job 1).st.code ++
  leBytes 1 s.tide.level ++ leBytes 1 port ++ leBytes 2 s.peerIdOr ++ leBytes 1 s.reserved ++ [0] ++ leBytes 4 s.az.epoch.toNat ++
  leBytes 8 s.aoc

def PeerState.code : PeerState → Nat
  | .vacant => 0 | .joining => 1 | .member => 2 | .left => 3

/-- Item 0x0002 (R428). -/
def State.qPeer (s : State) (p : Nat) : List Byte :=
  let x := s.peer p
  leBytes 2 p ++ leBytes 1 x.st.code ++ [0] ++ leBytes 4 x.lastEpoch.toNat ++ (leBytes 6 x.mac.toNat).reverse ++ [0, 0] ++
  leBytes 8 x.links.toNat ++ leBytes 2 x.tx ++ leBytes 2 x.allot ++ [0, 0, 0, 0] ++
  (List.range 8).flatMap fun v =>
    leBytes 4 (x.vc v).txNext.toNat ++ leBytes 4 (x.vc v).txAcked.toNat ++ leBytes 4 (x.vc v).rxExpected.toNat

/-- Item 0x0003 (R436). -/
def State.qWindow (s : State) (w : Nat) : List Byte :=
  let x := s.win w
  leBytes 32 (x.stale * 2 ^ 224 + x.base * 2 ^ 141 + x.length * 2 ^ 100 + s.winGen w * 2 ^ 80 + x.job * 2 ^ 7 +
    x.write.toNat * 2 ^ 5 + x.read.toNat * 2 ^ 4 + x.isOpen.toNat)

def RingCtx.stateCode (x : RingCtx) : Nat :=
  if x.closing.isSome then 4
  else match x.st with
    | .forming => 1
    | .ready => 2
    | .broken => 3

/-- Item 0x0004 (R450). -/
def State.qContext (s : State) (k : Nat) : List Byte :=
  match s.ring k with
  | none => List.replicate 24 0
  | some x =>
    let g := s.geo x
    leBytes 24 (x.rjob * 2 ^ 176 + g.n * 2 ^ 160 + g.rank * 2 ^ 144 + x.nGuard * 2 ^ 128 + x.formEpoch.toNat * 2 ^ 96 + x.low * 2 ^ 80 +
      Nat.min x.aborts 65535 * 2 ^ 48 + Nat.min x.retries 65535 * 2 ^ 32 + Nat.min x.stray 65535 * 2 ^ 16 + x.rgen % 256 * 2 ^ 8 +
      x.job * 2 ^ 7 + x.refuse.toNat * 2 ^ 6 + x.mode % 4 * 2 ^ 4 + x.stateCode)

/-- Item 0x0005 (R400). -/
def State.qTotals (s : State) (account : Nat) : List Byte :=
  (List.range 10).flatMap fun i => leBytes 8 (tget 0 (account * 16 + i + 1) s.totals).toNat

/-- Item 0x0006 (R400). -/
def State.qCounts (s : State) (cls num : Nat) : List Byte :=
  let e := s.engine cls num
  leBytes 8 e.idleCount.toNat ++ leBytes 8 e.charged.toNat

/-- The code of the state of a result in a QUERY record (R499, R510; log 75, DEDUCED, unsafe). -/
def ResState.code : ResState → Nat
  | .empty => 0 | .copying => 1 | .ready => 2 | .released => 3

def State.result (s : State) (h : Nat) : Result := tget Result.empty h s.results

/-- Item 0x0007. -/
def State.qResult (s : State) (h : Nat) : List Byte :=
  let x := s.result h
  leBytes 1 x.st.code ++ leBytes 1 x.job ++ [0, 0] ++ leBytes 4 x.publication.toNat ++ leBytes 8 x.length ++ leBytes 4 x.crc.toNat ++
  [0, 0, 0, 0] ++ leBytes 8 x.time

/-- Item 0x0008. -/
def State.qFeed (s : State) (i : Nat) : List Byte :=
  let rec_ (isOpen : Bool) (port cursor prod : Nat) : List Byte :=
    leBytes 1 isOpen.toNat ++ leBytes 1 port ++ List.replicate 6 0 ++ leBytes 8 cursor ++ leBytes 8 prod
  if i < 16 then
    let f := (s.job (i / 8)).feeds.getD (i % 8) Feed.closed
    rec_ f.isOpen f.port f.cursor f.prod
  else
    let c := (s.port (i - 16)).cargo
    rec_ c.isOpen (i - 16) c.cursor c.lastProd

/-- The value in force of a setting: two settings hold what was stored at the last boot (R534, R537). -/
def State.inForce (s : State) (id : Nat) : Nat :=
  if id = 0x1202 then s.boot.bootPeerTimeout else if id = 0x1203 then s.boot.bootHbTimeout else s.setting id

/-- Item 0x0009 (R537). -/
def State.qSetting (s : State) (port : Nat) (d : SettingDef) : List Byte :=
  let staged := ((s.port port).staged.find? fun x => x.1 == d.id).map Prod.snd
  leBytes 2 d.id ++ leBytes 1 d.len ++ leBytes 1 (staged.isSome.toNat + 2 * (s.logRec (d.id / 256)).payload.isSome.toNat) ++
  slice (leBytes d.len (s.inForce d.id)) 0 32 ++ slice (staged.getD []) 0 32

/-- An epoch-table entry (R350). -/
def EpEnt.bytes (e : EpEnt) : List Byte :=
  let st := match e.st with
    | .free => 0
    | .current => 1
    | .previous => 2
  leBytes 16 (e.epoch * 2 ^ 64 + st * 2 ^ 32 + e.moorHold.toNat * 2 ^ 16 + e.slots.toNat)

/-- Item 0x000A: the main job's epoch table, current entry first. -/
def State.qEpochs (s : State) : List Byte :=
  (((s.job 0).epoch .current).getD EpEnt.free).bytes ++ (((s.job 0).epoch .previous).getD EpEnt.free).bytes

/-- A record of QUERY; none for an unknown item or an INDEX out of range. -/
def State.queryRecord (s : State) (port item index : Nat) : Option (List Byte) :=
  let one (bs : List Byte) : Option (List Byte) := if index = 0 then some bs else none
  let upTo (n : Nat) (bs : List Byte) : Option (List Byte) := if index < n then some bs else none
  match item with
  | 0x0 => one (s.qDevice port)
  | 0x1 => one identityKey
  | 0x2 => upTo 32768 (s.qPeer index)
  | 0x3 => upTo 4096 (s.qWindow index)
  | 0x4 => upTo 64 (s.qContext index)
  | 0x5 => upTo 513 (s.qTotals index)
  | 0x6 => if index < 65536 ∧ instanceExists (index / 256) (index % 256) then some (s.qCounts (index / 256) (index % 256)) else none
  | 0x7 => upTo 1024 (s.qResult index)
  | 0x8 => upTo 18 (s.qFeed index)
  | 0x9 => (settingDef index).map fun d => s.qSetting port d
  | 0xA => one s.qEpochs
  | _ => none

/-- QUERY (R499). -/
def execQuery (port : Nat) (s : State) : Outc :=
  .next (s.immediate port Cap.query fun s r =>
    match s.queryRecord port (r.arg 12 2) (r.arg 16 4) with
    | none => s.respond port r E.argRange []
    | some b =>
      if b.length ≤ 28 * r.arg 14 2 then s.respond port r E.argRange []
      else s.respond port r E.ok (slice b (28 * r.arg 14 2) 28))

/-- CREDIT (R487, R492): entries of the ring return to the device; success has no response, and the queue entry reserved for it is
free again. -/
def execCredit (port : Nat) (s : State) : Outc :=
  .next (s.immediate port Cap.credit fun s r =>
    let n := r.arg 12 4
    let out := match (s.port port).ring with
      | none => 0
      | some g => g.written
    if out < n then s.respond port r E.argRange []
    else (s.updPort port fun q => { q with
        reserved := q.reserved - 1
        ring := q.ring.map fun g => { g with credits := g.credits + n, written := g.written - n } }).takeAll port)

end Sys2Proof.Machine
end

