-- ==== Sys2Proof/Machine/JobCaps.lean ====
section
/-! DEFINITION. Ordered capsules (R486, R487): EVQ_SETUP, the job capsules JOB_LOAD, JOB_START and JOB_STOP (R379, R501), and the
reading of cargo (R488, R507). -/

namespace Sys2Proof.Machine

/-- An ordered capsule runs, while the control domain is awake, when it is its port's next one: the common checks, then the opcode's own
meaning, which answers it or leaves it running (R486, R487). -/
def State.ordered (s : State) (port op : Nat) (f : State → Running → State) : State :=
  if !s.fwUp || s.iu.asleep || decide (2 ≤ port) then s
  else match (s.port port).nextOrdered with
    | none => s
    | some r =>
      if r.opcode ≠ op then s
      else
        let s := s.updPort port fun q => { (q.dropTaken r) with running := some { r with since := s.aoc } }
        let c := s.commonCode r
        if c ≠ E.ok then s.answer port c [] else f s r

/-! ### EVQ_SETUP (R491) -/

/-- The response is the first event of the new ring: it goes ahead of the events that wait. Log 73: DEDUCED, unsafe. -/
def State.answerFirst (s : State) (port : Nat) (r : Running) : State :=
  let s := s.updPort port fun q =>
    { q with running := none, reserved := q.reserved - 1, queue := s.doneEvent r E.ok [] :: q.queue }
  s.settleTaken port (s.port port).taken.length

/-- The ring an EVQ_SETUP names. -/
def Running.ring (r : Running) : EvRing :=
  { addr := r.arg 12 8, entries := r.arg 20 4, credits := r.arg 20 4, written := 0, vecResp := r.arg 24 1, vecAsync := r.arg 25 1
    moderation := r.arg 26 2 }

/-- ENTRIES, vectors and MODERATION in range, then the ring aligned (R491, R498, R627). -/
def EvRing.code (g : EvRing) : Code :=
  if !(isPow2 g.entries && decide (256 ≤ g.entries) && decide (g.entries ≤ 65536)) then E.argRange
  else if 31 < g.vecResp ∨ 31 < g.vecAsync ∨ 1000 < g.moderation then E.argRange
  else if g.addr % 4096 ≠ 0 then E.argAlign
  else E.ok

/-- EVQ_SETUP (R491). -/
def execEvqSetup (port : Nat) (s : State) : Outc :=
  .next (s.ordered port Cap.evqSetup fun s r =>
    let c := r.ring.code
    if c ≠ E.ok then s.answer port c []
    else (s.updPort port fun q => { q with ring := some r.ring }).answerFirst port r)

/-! ### Rights (R385, R500) -/

/-- The host may act on the position's job: it owns the job, ownership is granted, or there is no owner. -/
def State.mayAct (s : State) (pos port : Nat) : Bool :=
  match (s.job pos).owner with
  | none => true
  | some o => o == port || (s.job pos).grants.contains port

/-- The other port runs a capsule of this opcode for the position. -/
def State.otherRuns (s : State) (port op pos : Nat) : Bool :=
  match (s.port (1 - port)).running with
  | some r => r.opcode == op && r.arg 12 1 == pos
  | none => false

/-! ### Cargo (R488, R507) -/

/-- Records that LENGTH bytes take. -/
def cargoRecords (length : Nat) : Nat := ceilDiv length 4096

/-- The cargo feed can hold LENGTH bytes at once (R507). -/
def Cargo.room (c : Cargo) (length : Nat) : Code :=
  if !c.isOpen then E.capCargo else if c.records < cargoRecords length then E.argRange else E.ok

/-- The cursor passes the records of an accepted capsule, and CONS is written (R507). -/
def State.cargoTaken (s : State) (port length : Nat) : State :=
  let c := (s.port port).cargo
  let n := c.cursor + cargoRecords length
  (s.updCargo port fun c => { c with cursor := n }).out (.hostWrite port c.cons (leBytes 8 n))

/-! ### JOB_LOAD (R393, R501) -/

/-- Checks 1 to 4 of R501. -/
def State.loadCode (s : State) (port : Nat) (r : Running) : Code :=
  let pos := r.arg 12 1
  if 1 < pos ∨ r.arg 16 8 < 272 then E.argRange
  else if (s.job pos).st != .none || s.otherRuns port Cap.jobLoad pos || s.moor.st == .staging then E.busy
  else if pos = 1 ∧ s.reserved = 0 then E.argRange
  else if pos = 1 ∧ s.cfg.standingHost ≠ port then E.busy
  else (s.port port).cargo.room (r.arg 16 8)

/-- JOB_LOAD: its checks up to the cargo, whose bytes are then awaited. -/
def execJobLoad (port : Nat) (s : State) : Outc :=
  .next (s.ordered port Cap.jobLoad fun s r =>
    let c := s.loadCode port r
    if c ≠ E.ok then s.answer port c [] else s)

/-- The manifest has come: the checks of R390, and the load. Programs that fail retire their blocks (R329); while too few blocks are free
for its data, the load waits. -/
def State.loadCargo (s : State) (port : Nat) (r : Running) (data : CargoIn) : State :=
  let raw := slice data.bytes 0 (r.arg 16 8)
  let c := s.manifestCode (r.arg 12 1) raw
  if c ≠ E.ok then s.answer port c [] else
  let flashed := (parseManifest raw).data.any fun d => !isScratch d.dest && ((parseManifest raw).region d.dest).elim false fun g => g.flash
  let s := if flashed && decide (0 < data.fails) then (s.updFlash fun f => f.failing 1 data.fails).spareCheck else s
  if flashed && decide (s.ms.flash.freePages < raw.length / 0x4000 + 2 * (parseManifest raw).data.length) then s
  else match s.loadJob port (r.arg 12 1) (r.arg 13 1 == 1) raw with
  | (c, tag, s) => if c ≠ E.ok then s.answer port c [] else (s.cargoTaken port (r.arg 16 8)).answer port E.ok tag

/-! ### JOB_START and JOB_STOP (R379, R385) -/

/-- JOB_START's checks in order (R375, R376, R379). -/
def State.startCode (s : State) (port pos : Nat) : Code :=
  if 1 < pos then E.argRange
  else
    let j := s.job pos
    if j.st = .none then E.noJob
    else if !s.mayAct pos port then E.busy
    else if j.st ≠ .loaded then E.busy
    else if (pos = 0 ∧ s.restore.phase ≠ .none) ∨ s.otherRuns port Cap.jobStart pos then E.busy
    else if j.unstartable then E.uncorrectable
    else match j.man.epochs with
      | some d => if d.slotCtr.any (fun c => decide (j.man.ctrInit c % 2 = 1)) then E.argRange else E.ok
      | none => E.ok

/-- JOB_START: it waits for a map-out crossing (R243) and for PIN pages (R633). -/
def execJobStart (port : Nat) (s : State) : Outc :=
  let waits := match (s.port port).nextOrdered with
    | some r => s.mapOutOpen (r.arg 12 1)
    | none => false
  .next (if waits then s
    else s.ordered port Cap.jobStart fun s r =>
      let pos := r.arg 12 1
      let c := s.startCode port pos
      if c ≠ E.ok then s.answer port c []
      else if (s.job pos).pinPages.isEmpty then (s.startJob pos).answer port E.ok []
      else s)

/-- JOB_STOP's checks (R379, R385). -/
def State.stopCode (s : State) (port pos : Nat) : Code :=
  if 1 < pos then E.argRange
  else if (s.job pos).st = .none then E.noJob
  else if !s.mayAct pos port then E.busy
  else if s.otherRuns port Cap.jobStart pos then E.busy
  else E.ok

/-- A LOADED job is discarded (R379); a restore of it ends (R375). Log 65: DEDUCED, unsafe. -/
def State.unloadJob (s : State) (pos : Nat) : State :=
  let s := if pos = 0 ∧ s.restore.phase ≠ .none then s.restoreFails E.noJob else s
  ((s.closeFeeds pos).updJob pos fun j => { j with reason := .unloaded, code := E.ok }).leaveJob pos

/-- JOB_STOP: a LOADED job goes at once; the end of a running one is awaited (R379). -/
def execJobStop (port : Nat) (s : State) : Outc :=
  .next (s.ordered port Cap.jobStop fun s r =>
    let pos := r.arg 12 1
    let c := s.stopCode port pos
    if c ≠ E.ok then s.answer port c []
    else match (s.job pos).st with
      | .loaded => s.unloadJob pos
      | .running => s.endJob pos .stopped E.ok
      | _ => s)

end Sys2Proof.Machine
end

