-- ==== Sys2Proof/Machine/HostCaps.lean ====
section
/-! DEFINITION. The groupable capsules FEED_OPEN, FEED_CLOSE, RESULT_RELEASE, SETTINGS_SET, SETTINGS_STORE and MOOR_NOW (R372,
R503, R506, R507, R510, R535, R536), capsule groups (R307 to R309), RESULT_READ (R510) and RESTORE (R373). -/

namespace Sys2Proof.Machine

/-- What an applied capsule answers: its code, its DATA, and the state; on an error the state is as it was (R310). -/
structure Applied where
  code : Code
  data : List Byte
  state : State

def State.refused (s : State) (c : Code) : Applied := { code := c, data := [], state := s }
def State.applied (s : State) (data : List Byte) : Applied := { code := E.ok, data := data, state := s }

/-! ### Feeds (R503, R506, R507) -/

/-- The capsule names the cargo feed (R507). -/
def Running.cargo (r : Running) : Bool := r.arg 12 1 == 0 && r.arg 13 1 == 0x0F

/-- RING_ADDR, PROD_ADDR and CONS_ADDR are aligned (R498). -/
def Running.feedAligned (r : Running) : Bool := r.arg 16 8 % 64 == 0 && r.arg 32 8 % 8 == 0 && r.arg 40 8 % 8 == 0

/-- FEED_OPEN of the cargo feed (R507, R625). -/
def State.openCargo (s : State) (port : Nat) (r : Running) : Applied :=
  let c := (s.port port).cargo
  if c.isOpen then s.refused E.busy
  else if !ringRecordsOk (r.arg 24 4) then s.refused E.argRange
  else if r.arg 48 8 ≠ c.cursor then s.refused E.argRange
  else if r.arg 28 4 ≠ 4096 then s.refused E.argFormat
  else if !r.feedAligned then s.refused E.argAlign
  else (s.updCargo port fun c =>
    { c with isOpen := true, ring := r.arg 16 8, records := r.arg 24 4, prod := r.arg 32 8, cons := r.arg 40 8 }).applied (leBytes 8 c.cursor)

/-- The cursor a feed opens at: a restored cursor at its first opening, else START (R503). -/
def Feed.startAt (f : Feed) (start : Nat) : Nat :=
  match f.restored with
  | some c => if f.opened then start else c
  | none => start

/-- The feed bound to the host side a FEED_OPEN names. -/
def Feed.bind (f : Feed) (port : Nat) (r : Running) : Feed :=
  { f with isOpen := true, port := port, ring := r.arg 16 8, records := r.arg 24 4, prodAddr := r.arg 32 8, consAddr := r.arg 40 8
           cursor := f.startAt (r.arg 48 8), prod := 0, pulling := false, closing := false, opened := true }

def Job.updFeed (j : Job) (i : Nat) (f : Feed → Feed) : Job := { j with feeds := lset j.feeds i (f (j.feeds.getD i Feed.closed)) }
def Job.feed (j : Job) (i : Nat) : Feed := j.feeds.getD i Feed.closed

/-- The position holds a job in LOADED or RUNNING (R503). -/
def Job.present (j : Job) : Bool := j.st == .loaded || j.st == .running

/-- FEED_OPEN (R503, R506). Log 74: DEDUCED, unsafe. -/
def State.feedOpen (s : State) (port : Nat) (r : Running) : Applied :=
  let pos := r.arg 12 1
  let i := r.arg 13 1
  let j := s.job pos
  let f := j.feed i
  if r.cargo then s.openCargo port r
  else if 1 < pos then s.refused E.argRange
  else if !j.present then s.refused E.noJob
  else if !s.mayAct pos port then s.refused E.busy
  else if f.isOpen then s.refused E.busy
  else match j.man.feeds.find? fun d => d.feed == i with
    | none => s.refused E.argRange
    | some d =>
      if !ringRecordsOk (r.arg 24 4) || decide (r.arg 24 4 < d.blockRecs) then s.refused E.argRange
      else if f.opened ∧ r.arg 48 8 ≠ f.cursor then s.refused E.argRange
      else if r.arg 28 4 ≠ d.recBytes then s.refused E.argFormat
      else if !r.feedAligned then s.refused E.argAlign
      else (s.updJob pos fun j => j.updFeed i fun f => f.bind port r).applied (leBytes 8 (f.startAt (r.arg 48 8)))

/-- FEED_CLOSE (R506): a feed whose block is being read closes once that block has been delivered. -/
def State.feedClose (s : State) (port : Nat) (r : Running) : Applied :=
  let pos := r.arg 12 1
  let i := r.arg 13 1
  let j := s.job pos
  let f := j.feed i
  if r.cargo then
    let c := (s.port port).cargo
    if c.isOpen then (s.updCargo port fun c => { c with isOpen := false }).applied (leBytes 8 c.cursor) else s.refused E.noJob
  else if 1 < pos ∨ 7 < i then s.refused E.argRange
  else if !j.present then s.refused E.noJob
  else if !s.mayAct pos port then s.refused E.busy
  else if !f.isOpen then s.refused E.argRange
  else (s.updJob pos fun j => j.updFeed i Feed.shut).applied (leBytes 8 f.cursor)

/-! ### Results (R384, R510) -/

/-- The position whose job owns a handle (R384). -/
def posOfHandle (h : Nat) : Nat := if h < 896 then 0 else 1

/-- The answer of a result's state (R510). -/
def ResState.answer : ResState → Code
  | .empty => E.notReady
  | .copying => E.notReady
  | .ready => E.ok
  | .released => E.released

def State.setResult (s : State) (h : Nat) (x : Result) : State := { s with results := tset Result.empty h x s.results }

/-- RESULT_RELEASE (R510). -/
def State.releaseResult (s : State) (port : Nat) (r : Running) : Applied :=
  let h := r.arg 12 2
  let x := s.result h
  if 1023 < h then s.refused E.argRange
  else if !s.mayAct (posOfHandle h) port then s.refused E.busy
  else if x.st.answer ≠ E.ok then s.refused x.st.answer
  else (s.setResult h { x with st := .released, data := [] }).applied (leBytes 4 x.publication.toNat)

/-- RESULT_READ (R480, R510, R511): the bytes go to host memory before the response. -/
def State.readResult (s : State) (port : Nat) (r : Running) : Applied :=
  let h := r.arg 12 2
  let x := s.result h
  let off := r.arg 16 8
  let n := if r.arg 24 8 = 0 then x.length - off else r.arg 24 8
  if 1023 < h then s.refused E.argRange
  else if r.arg 32 8 % 64 ≠ 0 then s.refused E.argAlign
  else if !s.mayAct (posOfHandle h) port then s.refused E.busy
  else if x.st.answer ≠ E.ok then s.refused x.st.answer
  else if x.length < off ∨ x.length < off + n then s.refused E.argRange
  else (s.out (.hostWrite port (r.arg 32 8) (slice x.data off n))).applied (leBytes 8 n ++ leBytes 4 x.publication.toNat ++ leBytes 4 x.crc.toNat)

/-! ### Settings (R535, R536) -/

/-- SETTINGS_SET (R482, R535). -/
def State.stageSetting (s : State) (port : Nat) (r : Running) : Applied :=
  let id := r.arg 12 2
  let n := r.arg 14 1
  if (List.range 32).any fun i => decide (n ≤ i) && r.arg (16 + i) 1 != 0 then s.refused E.argFormat
  else match settingDef id with
    | none => s.refused E.argRange
    | some d =>
      if n ≠ d.len then s.refused E.argFormat
      else if r.arg 16 n < d.lo ∨ d.hi < r.arg 16 n then s.refused E.argRange
      else (s.updPort port fun q =>
        { q with staged := q.staged.filter (fun x => x.1 != id) ++ [(id, slice (r.bytes.drop 16) 0 n)] }).applied []

/-- The payload of a settings record with a port's staged values; other fields keep their stored values or defaults (R536). -/
def State.settingsBytes (s : State) (port id : Nat) : List Byte :=
  (settingDefs.filter fun d => d.id / 256 == id).foldl (fun b d =>
    patch b d.off (match (s.port port).staged.find? fun x => x.1 == d.id with
      | some x => x.2
      | none => leBytes d.len (s.setting d.id))) (List.replicate (recSize id) 0)

/-- A port's staged values of a record clear (R536). -/
def State.clearStaged (s : State) (port id : Nat) : State :=
  s.updPort port fun q => { q with staged := q.staged.filter fun x => x.1 / 256 != id }

/-- The port has something staged for a record. -/
def State.hasStaged (s : State) (port id : Nat) : Bool := (s.port port).staged.any fun x => x.1 / 256 == id

/-- SETTINGS_STORE (R532, R533, R536). -/
def State.storeSettings (s : State) (port : Nat) (r : Running) : Applied :=
  let id := r.arg 12 2
  if !settingsRecords.contains id then s.refused E.argRange
  else if !s.hasStaged port id then s.applied []
  else if s.logBusy id then s.refused E.busy
  else match (s.logRec id).store s.aoc (s.settingsBytes port id) with
    | (c, x) => if c ≠ E.ok then s.refused c else ((s.setLog id x).clearStaged port id).applied []

/-! ### MOOR_NOW (R372) -/

def State.moorNow (s : State) (port : Nat) : Applied :=
  if (s.job 0).st ≠ .running then s.refused E.noJob
  else if !s.mayAct 0 port then s.refused E.busy
  else if s.moor.st ≠ .idle then s.refused E.busy
  else s.moorDue.applied []

/-! ### Groups (R307 to R309) -/

/-- One groupable capsule, checked in full and applied. -/
def State.applyCap (s : State) (port : Nat) (r : Running) : Applied :=
  if r.opcode = Cap.feedOpen then s.feedOpen port r
  else if r.opcode = Cap.feedClose then s.feedClose port r
  else if r.opcode = Cap.resultRelease then s.releaseResult port r
  else if r.opcode = Cap.settingsSet then s.stageSetting port r
  else if r.opcode = Cap.settingsStore then s.storeSettings port r
  else s.moorNow port

/-- A recorded capsule. -/
def capOf (x : Nat × List Byte) : Running := { bytes := x.2, since := 0, data := [] }

/-- Recorded capsules applied in order; the first failing check ends it. -/
def State.applyAll (s : State) (port : Nat) : List (Nat × List Byte) → Applied
  | [] => s.applied []
  | x :: rest =>
    let a := s.applyCap port (capOf x)
    if a.code ≠ E.ok then s.refused a.code else a.state.applyAll port rest

/-- The entries of a capsule's own effect (R287, R288): a feed, a cargo feed, a result, a logbook record, the mooring's state. What
SETTINGS_SET stages is its port's alone. -/
def State.capEntries (s : State) (port : Nat) (r : Running) : List XEnt :=
  if r.opcode = Cap.feedOpen ∨ r.opcode = Cap.feedClose then [if r.cargo then .cargo port else .feed (r.arg 12 1) (r.arg 13 1)]
  else if r.opcode = Cap.resultRelease then [.result (r.arg 12 2)]
  else if r.opcode = Cap.settingsStore then (if s.hasStaged port (r.arg 12 2) then [.logbook (r.arg 12 2)] else [])
  else if r.opcode = Cap.moorNow then [.mooring]
  else []

/-- A capsule joins the group: it is checked on the state as the group would leave it, and recorded (R290, R307). Log 70: DEDUCED, unsafe. -/
def State.joinGroup (s : State) (port : Nat) (r : Running) (g : Nat × List (Nat × List Byte)) (k : Nat) (x : XEntry) : State :=
  let before := s.applyAll port g.2
  let a := before.state.applyCap port r
  let wset := x.wset ++ (before.state.capEntries port r).filter fun e => !x.wset.contains e
  if before.code ≠ E.ok then s.answer port before.code []
  else if a.code ≠ E.ok then s.answer port a.code []
  else if 64 ≤ g.2.length ∨ 256 < wset.length then s.answer port E.xingTooBig []
  else
    let s := s.updPort port fun q => { q with group := some (g.1, g.2 ++ [(r.opcode, r.bytes)]) }
    (s.updXing k fun x => { x with acts := x.acts + 1, wset := wset }).answer port E.ok a.data

/-- The open group of a port with its crossing entry. -/
def State.openGroup (s : State) (port : Nat) : Option ((Nat × List (Nat × List Byte)) × Nat × XEntry) :=
  match (s.port port).group, (s.groupEntry port).bind fun k => (s.xing k).map fun x => (k, x) with
  | some g, some x => some (g, x)
  | _, _ => none

/-- A group whose timeout has run out is open no more (R309). -/
def State.expireGroup (s : State) (port : Nat) : State := match s.openGroup port with
  | some (_, k, x) => if s.timedOut x then s.timeoutXing k x else s
  | none => s

/-- A capsule outside a group acts in a crossing of its own, which opens and commits at once (R288, R311, R536). -/
def State.ownCrossing (s : State) (port : Nat) (r : Running) (wait : State → Running → Bool) : State :=
  let es := s.capEntries port r
  let a := s.applyCap port r
  if !es.isEmpty && (s.freeGroupEntry port).isNone then s.xingFull.answer port E.xingFull []
  else if a.code ≠ E.ok then s.answer port a.code []
  else
    let t := if es.isEmpty then a.state else (a.state.beats [] es).count 0x1040
    if wait t r then t else t.answer port E.ok a.data

/-- A groupable capsule acts at once, or joins its port's open group (R307). It waits while another crossing holds what it changes (R296).
`wait` says that it is not answered yet. -/
def State.groupable (s : State) (port op : Nat) (wait : State → Running → Bool) : State :=
  let held : Bool := match (s.port port).nextOrdered with
    | some r => s.heldByXing (s.capEntries port r)
    | none => false
  if held then s
  else s.ordered port op fun s r =>
    let s := s.expireGroup port
    match s.openGroup port with
    | some (g, k, x) => s.joinGroup port r g k x
    | none => s.ownCrossing port r wait

/-- FEED_OPEN. -/
def execFeedOpen (port : Nat) (s : State) : Outc := .next (s.groupable port Cap.feedOpen fun _ _ => false)

/-- FEED_CLOSE: it waits for the block being read (R506). -/
def execFeedClose (port : Nat) (s : State) : Outc :=
  .next (s.groupable port Cap.feedClose fun s r => !r.cargo && ((s.job (r.arg 12 1)).feed (r.arg 13 1)).isOpen)

/-- RESULT_RELEASE. -/
def execResultRelease (port : Nat) (s : State) : Outc := .next (s.groupable port Cap.resultRelease fun _ _ => false)

/-- SETTINGS_SET. -/
def execSettingsSet (port : Nat) (s : State) : Outc := .next (s.groupable port Cap.settingsSet fun _ _ => false)

/-- SETTINGS_STORE. -/
def execSettingsStore (port : Nat) (s : State) : Outc := .next (s.groupable port Cap.settingsStore fun _ _ => false)

/-- MOOR_NOW. -/
def execMoorNow (port : Nat) (s : State) : Outc := .next (s.groupable port Cap.moorNow fun _ _ => false)

/-- RESULT_READ. -/
def execResultRead (port : Nat) (s : State) : Outc :=
  .next (s.ordered port Cap.resultRead fun s r =>
    let a := s.readResult port r
    a.state.answer port a.code a.data)

/-- XING_BEGIN: a group opens in a crossing entry of the port's control core (R292, R307, R308). -/
def execXingBegin (port : Nat) (s : State) : Outc :=
  .next (s.ordered port Cap.xingBegin fun s _ =>
    let s := s.expireGroup port
    if (s.port port).group.isSome then s.answer port E.busy []
    else match s.freeGroupEntry port with
      | none => s.xingFull.answer port E.xingFull []
      | some k =>
        let h := s.nextHandle.toNat
        let s := s.openXing k (s.newXing (.group port h) 0 [] [] 0)
        let s := ({ s with nextHandle := s.nextHandle + 1 } : State).updPort port fun q => { q with group := some (h, []) }
        s.answer port E.ok (leBytes 4 h))

/-- The code with which a handle ended, when it is one of the last 16 (R308). -/
def Port.endedCode (q : Port) (h : Nat) : Code :=
  match q.ended.find? fun x => x.1 == h with
  | some x => x.2
  | none => E.argRange

/-- Feeds that the closes of a group have left to deliver their blocks (R506). -/
def State.stillClosing (s : State) (g : List (Nat × List Byte)) : List (Nat × Nat) :=
  g.filterMap fun x =>
    let r := capOf x
    if r.opcode = Cap.feedClose ∧ !r.cargo ∧ ((s.job (r.arg 12 1)).feed (r.arg 13 1)).closing then some (r.arg 12 1, r.arg 13 1) else none

/-- XING_COMMIT: every action lands, or none does (R296, R308); it is answered once the last feed of the group has closed (R506).
Log 69: DEDUCED, unsafe. -/
def execXingCommit (port : Nat) (s : State) : Outc :=
  .next (s.ordered port Cap.xingCommit fun s r =>
    let h := r.arg 12 4
    let s := s.expireGroup port
    match s.openGroup port with
    | some (g, k, x) =>
      if g.1 ≠ h then s.answer port ((s.port port).endedCode h) []
      else
        let a := s.applyAll port g.2
        if a.code ≠ E.ok then (s.abortXing k a.code).answer port a.code []
        else
          let t := (a.state.landXing k x).updPort port fun q => { q.endGroup h E.ok with landing := a.state.stillClosing g.2 }
          if (a.state.stillClosing g.2).isEmpty then t.answer port E.ok [] else t
    | none => s.answer port ((s.port port).endedCode h) [])

/-- XING_ABORT (R308). -/
def execXingAbort (port : Nat) (s : State) : Outc :=
  .next (s.ordered port Cap.xingAbort fun s r =>
    let h := r.arg 12 4
    let s := s.expireGroup port
    match s.openGroup port with
    | some (g, k, _) =>
      if g.1 ≠ h then s.answer port ((s.port port).endedCode h) []
      else (s.abortXing k E.xingAborted).answer port E.ok []
    | none => s.answer port ((s.port port).endedCode h) [])

/-! ### RESTORE (R373) -/

/-- A MOORED mooring whose JOB_TAG and PAGES match the loaded job (R367, R373): its half. -/
def State.mooringFor (s : State) : Option Nat :=
  match (s.logRec Rec.moorCatalogue).payload with
  | none => none
  | some p =>
    let half := fld p 0 1
    let b := halfBase half
    let rec_ := rdBytes s.ms.mem b 256
    if half ≤ 1 ∧ fld rec_ 24 8 = (s.job 0).man.tag.toNat ∧ fld rec_ 4 4 = (s.job 0).man.moorSet.length then some half else none

/-- RESTORE's checks, and what it starts. -/
def State.restoreNow (s : State) (port : Nat) (r : Running) : Applied :=
  let j := s.job 0
  let rep := if r.arg 12 2 = 0xFFFF then (match j.man.epochs with
    | some d => d.replica
    | none => 0xFFFF) else r.arg 12 2
  if j.st = .none then s.refused E.noJob
  else if !s.mayAct 0 port then s.refused E.busy
  else if j.st ≠ .loaded ∨ s.starting 0 ∨ s.restore.phase ≠ .none ∨ s.moor.st = .staging ∨ s.moor.st = .writing then s.refused E.busy
  else match s.mooringFor with
    | none => s.refused E.noMooring
    | some half =>
      if 32767 < rep then s.refused E.argRange
      else ({ s with restore := { phase := .loading, half := half, replica := rep } } : State).applied []

/-- RESTORE (R373). -/
def execRestore (port : Nat) (s : State) : Outc :=
  .next (s.ordered port Cap.restore fun s r =>
    let a := s.restoreNow port r
    a.state.answer port a.code a.data)

end Sys2Proof.Machine
end

