-- ==== Sys2Proof/Machine/DebugPort.lean ====
section
/-! DEFINITION. The debug port: challenges and orders (R570 to R578). -/

namespace Sys2Proof.Machine

/-- GET_CHALLENGE: the identity public key and a fresh challenge, which replaces any earlier one (R571). -/
def execGetChallenge (s : State) : Outc :=
  .next (if !s.fwUp then s
    else
      let (c, s) := s.takeRandom 32
      ({ s with boot := { s.boot with challenge := some { value := c, issued := s.aoc } } } : State).out (.debug (identityKey ++ c)))

/-- CHALLENGE_EXPIRY: 60 s after it was issued (R571). -/
def execChallengeExpiry (s : State) : Outc :=
  .next (match s.boot.challenge with
    | some c => if c.issued + 1500000000 ≤ s.aoc then { s with boot := { s.boot with challenge := none } } else s
    | none => s)

/-! ### Checks (R572, R573) -/

def orderMagic : List Byte := [0x4D, 0x42, 0x46, 0x4F, 0x52, 0x44, 0x52, 0x31]

/-- MAGIC, KIND, reserved bits, SCOPE and NEW_OWNER. -/
def orderFormatOk (o : List Byte) : Bool :=
  let kind := fld o 8 1
  o.length == 176 && slice o 0 8 == orderMagic && decide (1 ≤ kind) && decide (kind ≤ 3) && fld o 9 1 == 0 && fld o 12 4 == 0 &&
  decide (fld o 10 2 < 8) && (decide (fld o 10 2 ≠ 0) == (kind == 1)) && (decide (fld o 80 32 ≠ 0) == (kind == 2))

/-- The challenge an order names is current: unused and not expired. -/
def State.challengeOk (s : State) (o : List Byte) : Bool :=
  match s.boot.challenge with
  | some c => slice o 48 32 == c.value && decide (s.aoc < c.issued + 1500000000)
  | none => false

/-- Work that ENROL and ERASE must not meet. -/
def State.orderBusy (s : State) : Bool :=
  ([0, 1] : List Nat).any (fun p => (s.job p).present || (match (s.port p).running with
    | some r => r.opcode == Cap.imageStage
    | none => false)) || s.moor.st == .staging || s.moor.st == .writing || s.restore.phase != .none

/-- The checks of R573, in order. -/
def State.orderCode (s : State) (o : List Byte) : Code :=
  let kind := fld o 8 1
  let key := slice o 80 32
  if !orderFormatOk o then E.argFormat
  else if slice o 16 32 ≠ identityKey then E.argRange
  else if !s.challengeOk o then E.challenge
  else if !Ed.verify (s.boot.owner.getD vendorPub) (slice o 0 112) (slice o 112 64) then E.sigBad
  else if kind = 2 ∧ (s.storedOwner = some key ∨ !Ed.keyOk key) then E.argRange
  else if 2 ≤ kind ∧ s.orderBusy then E.busy
  else E.ok

/-- A challenge is used up by the first order that names it (R571). -/
def State.useChallenge (s : State) (o : List Byte) : State :=
  match s.boot.challenge with
  | some c => if slice o 48 32 = c.value then { s with boot := { s.boot with challenge := none } } else s
  | none => s

/-- The port's answer. -/
def State.orderDone (s : State) (c : Code) : State :=
  ({ s with boot := { s.boot with order := none } } : State).out (.debug (leBytes 2 c.toNat))

/-- An order of a kind, or of no defined one: its checks, the use of its challenge, and its effect when accepted; a refused one is answered
with its code. The port takes none while the stores of another are being made. -/
def State.order (s : State) (kind : Nat) (o : List Byte) (f : State → State) : State :=
  if !s.fwUp || s.boot.order.isSome || ([1, 2, 3].contains (fld o 8 1) && fld o 8 1 != kind) then s
  else
    let c := s.orderCode o
    let s := s.useChallenge o
    if c = E.ok then f s else s.orderDone c

/-! ### UNLOCK, ERASE, ENROL (R574 to R577) -/

/-- ORDER_UNLOCK: the named scopes open until ALWAYS-ON (R574). -/
def execOrderUnlock (order : List Byte) (s : State) : Outc :=
  .next (s.order 1 order fun s => ({ s with boot := { s.boot with scopes := s.boot.scopes ||| fld order 10 2 } } : State).orderDone E.ok)

/-- The stores of an accepted order begin (R575, R577). -/
def State.startOrder (s : State) (o : OrderRun) : State := { s with boot := { s.boot with order := some o } }

/-- ORDER_ERASE (R575). -/
def execOrderErase (order : List Byte) (s : State) : Outc :=
  .next (s.order 3 order fun s => s.startOrder { owner := none, stage := 0, root := [] })

/-- ORDER_ENROL: with an owner enrolled it first performs ERASE (R577). -/
def execOrderEnrol (order : List Byte) (s : State) : Outc :=
  .next (s.order 2 order fun s =>
    s.startOrder { owner := some (slice order 80 32), stage := if s.storedOwner.isSome then 0 else 5, root := [] })

/-! ### The stores of ERASE and ENROL, one after another -/

/-- The catalogue's payload once it is cleared: it names no half (R575; layout log 41, DESIGN CHOICE, unsafe). -/
def noMooring : List Byte := 0xFF :: List.replicate 31 0

/-- The record that a stage stores. -/
def OrderRun.record (o : OrderRun) : Nat :=
  if o.stage = 0 then Rec.moorCatalogue else if o.stage < 5 then Rec.flashRoot else Rec.identity

/-- The first copy slot of FLASH_ROOT: a new key and an empty map. The record keeps the time of this slot, since the four count as one
store (R533, R575). -/
def State.eraseFirst (s : State) (o : OrderRun) : State :=
  let (key, s) := s.freshKey
  let bs := flashRootBytes 0 0 key
  let s := (s.beats [] [.logbook Rec.flashRoot]).setLog Rec.flashRoot ((s.logRec Rec.flashRoot).putSlot 0 s.aoc bs)
  (s.updFlash fun f => { f with root := [], journal := [] }).startOrder { o with stage := 2, root := bs }

/-- Another copy slot; with the last one the store commits, and every unit reads as zeros (R575). -/
def State.eraseNext (s : State) (o : OrderRun) : State :=
  let r := s.logRec Rec.flashRoot
  let s := s.setLog Rec.flashRoot (r.putSlot (o.stage - 1) (r.last.getD s.aoc) o.root)
  if o.stage < 4 then s.startOrder { o with stage := o.stage + 1 }
  else
    let s := (s.count 0x1040).eraseTier
    match o.owner with
    | none => s.orderDone E.ok
    | some _ => s.startOrder { o with stage := 5 }

/-- The next store of the accepted order, each a LOGBOOK_STORE crossing, once the second of R533 has passed. A store that is refused as worn
ends the order with its code, and what the earlier stores did stays (log 109, DESIGN CHOICE, unsafe). Log 87: DEDUCED, unsafe. -/
def State.orderStep (s : State) : State := match s.boot.order with
  | none => s
  | some o =>
    if o.stage < 2 ∨ 4 < o.stage then
      if s.logBusy o.record || s.freeFwEntry.isNone || s.heldByXing [.logbook o.record] then s
      else match o.stage with
        | 0 => match s.logStore Rec.moorCatalogue noMooring with
          | (c, t) => if c = E.ok then t.startOrder { o with stage := 1 } else t.orderDone c
        | 1 => if (s.logRec Rec.flashRoot).usable.length < 2 then s.orderDone E.flashWorn else s.eraseFirst o
        | _ => match s.logStore Rec.identity (identityBytes (o.owner.getD []) (s.enrolCount + 1)) with
          | (c, t) => t.orderDone c
    else s.eraseNext o

end Sys2Proof.Machine
end

