-- ==== Sys2Proof/Machine/PubMarks.lean ====
section
/-! DEFINITION. Publish records, and what a publication's GIVE.C saw of its record and buffer (R508). -/

namespace Sys2Proof.Machine

/-- A publish record: HANDLE, ADDR, LENGTH, and whether its other bytes are zero. -/
structure PubRec where
  handle : Nat
  addr : Nat
  length : Nat
  plain : Bool
deriving DecidableEq, Repr

def pubRecOf (b : List Byte) : PubRec :=
  { handle := fld b 0 2, addr := fld b 8 8, length := fld b 16 8, plain := fld b 2 6 == 0 && fld b 24 40 == 0 }

def Job.updPub (j : Job) (c : Nat) (f : PubChan → PubChan) : Job :=
  match j.pubs[c]? with
  | some x => { j with pubs := lset j.pubs c (f x) }
  | none => j

/-- The buffer a record names, where its LENGTH is legal and it can be read. -/
def State.pubBuffer (s : State) (pos : Nat) (record : List Byte) : Option (List Byte) :=
  let q := pubRecOf record
  if q.length = 0 ∨ 0x4000000 < q.length then none else s.readThrough pos q.addr q.length

/-- A GIVE.C that raises PUB_CTR from `v` by `amt`: what the program may not change before ACK_CTR advances (R508). -/
def State.markPub (s : State) (pos id v amt : Nat) : State :=
  if amt = 0 then s
  else ((s.job pos).man.publish.zipIdx.filter fun d => d.1.pubCtr == id).foldl (fun (s : State) d =>
    let record := s.readJob pos d.1.recAddr 64
    let m : PubMark := { lo := v, hi := v + amt, record := record, data := s.pubBuffer pos record }
    s.updJob pos fun j => j.updPub d.2 fun c => { c with marks := c.marks ++ [m] }) s

/-- What the GIVE.C of publication number `n` of a channel saw. -/
def PubChan.markOf (c : PubChan) (n : Nat) : Option PubMark := c.marks.find? fun m => decide (m.lo < n ∧ n ≤ m.hi)

/-- The program has changed the record or the buffer since its GIVE.C (R508). Log 95: DESIGN CHOICE, unsafe. -/
def State.pubBroken (s : State) (pos recAddr : Nat) (m : PubMark) : Bool :=
  s.readJob pos recAddr 64 != m.record || (m.data.isSome && s.pubBuffer pos m.record != m.data)

end Sys2Proof.Machine
end

