-- ==== Sys2Proof/Machine/Feeds.lean ====
section
/-! DEFINITION. Feeds (R502 to R506) and publication (R508, R509). -/

namespace Sys2Proof.Machine

/-! ### Feeds -/

/-- The declaration of a feed. -/
def Job.feedDecl (j : Job) (i : Nat) : Option FeedDecl := j.man.feeds.find? fun d => d.feed == i

/-- The feed of a running job, open, with its declaration. -/
def State.openFeed (s : State) (pos i : Nat) : Option (Feed × FeedDecl) :=
  let j := s.job pos
  if s.live && j.st == .running && (j.feed i).isOpen then (j.feedDecl i).map fun d => (j.feed i, d) else none

/-- The buffer has room for a block (R504). -/
def State.feedRoom (s : State) (pos : Nat) (d : FeedDecl) : Bool :=
  decide ((s.ctr pos d.fillCtr).toNat < (s.ctr pos d.freeCtr).toNat + d.bufBlocks)

/-- A feed closes at its cursor; a FEED_CLOSE that waited is answered (R506). -/
def State.closeFeed (s : State) (pos i : Nat) : State :=
  (s.updJob pos fun j => j.updFeed i fun f => { f with isOpen := false, pulling := false, closing := false }).feedClosed pos i

/-- A read that fails closes the feed, which a capsule group may hold (R298), and is reported; the job continues (R505). -/
def State.feedFails (s : State) (pos i : Nat) : State :=
  ((s.conflict [.feed pos i]).closeFeed pos i).evFault E.argRange { job := pos, obj := i }

/-- FEED_PULL: with room and enough produced records the device starts to read a block (R504). -/
def execFeedPull (pos feed : Nat) (s : State) : Outc :=
  .next (match s.openFeed pos feed with
    | none => s
    | some (f, d) =>
      if f.pulling || f.closing || !s.feedRoom pos d || decide (f.prod < f.cursor + d.blockRecs) then s
      else s.updJob pos fun j => j.updFeed feed fun f => { f with pulling := true })

/-- FEED_PROD_POLL: PROD is read while there is room for a block and too few records are known (R505). -/
def execFeedProdPoll (pos feed : Nat) (prod : W64) (ok : Bool) (s : State) : Outc :=
  .next (match s.openFeed pos feed with
    | none => s
    | some (f, d) =>
      if f.pulling || f.closing || !s.feedRoom pos d || decide (f.cursor + d.blockRecs ≤ f.prod) then s
      else if !ok then s.feedFails pos feed
      else s.updJob pos fun j => j.updFeed feed fun f => { f with prod := prod.toNat })

/-- Block `j` of a feed's buffer. -/
def FeedDecl.blockAddr (d : FeedDecl) (j : Nat) : Nat := d.buf + j % d.bufBlocks * (d.blockRecs * d.recBytes)

/-- A delivered block: bytes, cursor, CONS, FILL_CTR (R504). -/
def State.deliver (s : State) (pos i : Nat) (f : Feed) (d : FeedDecl) (data : List Byte) : State :=
  let s := s.writeJob pos (d.blockAddr f.blocks) data
  let s := s.updJob pos fun j => j.updFeed i fun f => { f with pulling := false, cursor := f.cursor + d.blockRecs, blocks := f.blocks + 1 }
  let s := if f.closing then s.closeFeed pos i else s
  (s.bumpCtr pos d.fillCtr).out (.hostWrite f.port f.consAddr (leBytes 8 (f.cursor + d.blockRecs)))

/-- FEED_BLOCK_DELIVERED: the block that is being read is written to the buffer, or its read failed (R504 to R506). A write that meets
an absent page or a first-write copy waits. -/
def execFeedBlockDelivered (pos feed : Nat) (data : List Byte) (ok : Bool) (s : State) : Outc :=
  .next (match s.openFeed pos feed with
    | none => s
    | some (f, d) =>
      if !f.pulling then s
      else if !ok then s.feedFails pos feed
      else if data.length ≠ d.blockRecs * d.recBytes then s
      else match s.spanOf pos (d.blockAddr f.blocks) data.length true with
        | .absent ps => ps.foldl (fun (s : State) k => s.faultIn pos k ((s.job pos).man.stackOfPage k) 512) s
        | _ => if s.mustHold pos (d.blockAddr f.blocks) data.length then s else s.deliver pos feed f d data)

/-! ### Publication (R508, R509) -/

/-- Bytes of the result store (R509). -/
def resultStore : Nat := 0x10000000

/-- Bytes in use: results from COPYING until their release. Log 80: DEDUCED, unsafe. -/
def State.storeUsed (s : State) : Nat :=
  s.results.foldl (fun n x => if x.2.st = .copying ∨ x.2.st = .ready then n + x.2.length else n) 0

/-- The code of step 1 of R508. -/
def State.pubCode (s : State) (pos : Nat) (p : PubRec) : Code :=
  let h := handlesOf pos
  if !within p.handle 1 h.1 h.2 then E.argRange
  else if !p.plain then E.argFormat
  else if p.length = 0 ∨ 0x4000000 < p.length ∨ !s.inJob (s.job pos).man pos p.addr p.length (fun _ => true) then E.argRange
  else E.ok

/-- PUBLISH: the next publication of a channel is checked, waits, and begins to be copied (R508 steps 1 to 3); the record is the one that
its GIVE.C saw. -/
def execPublish (pos ch : Nat) (s : State) : Outc :=
  .next (
    let j := s.job pos
    match j.man.publish[ch]?, j.pubs[ch]? with
    | some d, some c =>
      if !s.live || j.st != .running || c.copying.isSome || decide ((s.ctr pos d.pubCtr).toNat ≤ c.served) then s
      else if s.badRange pos d.recAddr 64 then s.jobFault pos E.uncorrectable { job := pos }
      else
        let p := pubRecOf (match c.markOf (c.served + 1) with
          | some m => m.record
          | none => s.readJob pos d.recAddr 64)
        let code := s.pubCode pos p
        let x := s.result p.handle
        if code ≠ E.ok then s.jobFault pos code { job := pos, obj := p.handle }
        else if x.st = .copying ∨ x.st = .ready ∨ resultStore < s.storeUsed + p.length then s
        else
          let s := s.setResult p.handle { x with st := .copying, job := pos, length := p.length, data := [], owner := j.owner }
          s.updJob pos fun j => j.updPub ch fun c => { c with served := c.served + 1, copying := some (p.handle, p.addr) }
    | _, _ => s)

/-- The result becomes READY (R508 step 4). -/
def State.publishResult (s : State) (pos h : Nat) (data : List Byte) : State :=
  let x := s.result h
  let y : Result := { x with st := .ready, publication := x.publication + 1, crc := crc32c data, time := s.aoc, data := data }
  (s.setResult h y).postOwner pos (s.mkEvent 3 0 E.ok
    (evBody [(24, 2, h), (26, 1, pos), (28, 4, y.publication.toNat), (32, 8, y.length), (40, 4, y.crc.toNat)]))

/-- Pages of a job range that are not resident. -/
def State.absentPages (s : State) (pos a n : Nat) : List Nat := match s.spanOf pos a n false with
  | .absent ps => ps
  | _ => []

/-- The content of a result: the buffer, or free bytes when the program has changed the record or the buffer since its GIVE.C (R508). -/
def State.pubContent (s : State) (pos recAddr : Nat) (c : PubChan) (data : List Byte) : List Byte × State :=
  match c.markOf c.served with
  | some m =>
    if s.pubBroken pos recAddr m then
      ((List.range data.length).map fun i => (freeValue (s.freeCount + i)).setWidth 8, { s with freeCount := s.freeCount + data.length })
    else (data, s)
  | none => (data, s)

/-- PUBLISH_COPY_DONE: the copy ends and is published, once every page of the buffer is resident (R333); an uncorrectable byte of the
buffer faults the job, and the handle is as if its publication had been released (log 54, DEDUCED, unsafe). -/
def execPublishCopyDone (pos ch : Nat) (s : State) : Outc :=
  .next (
    let j := s.job pos
    match j.man.publish[ch]?, (j.pubs[ch]?).bind fun c => c.copying.map fun x => (c, x) with
    | some d, some (c, h, a) =>
      let n := (s.result h).length
      if !s.live || !(j.st == .running || j.st == .ending) then s
      else if !(s.absentPages pos a n).isEmpty then
        (s.absentPages pos a n).foldl (fun (s : State) k => s.faultIn pos k (j.man.stackOfPage k) 512) s
      else
        let s := (s.sees pos [(a, n)] []).2.1
        let s := s.updJob pos fun j => j.updPub ch fun c => { c with copying := none, marks := c.marks.filter fun m => decide (c.served < m.hi) }
        match s.readsBad pos [(a, n)], s.readThrough pos a n with
        | false, some data =>
          let (data, s) := s.pubContent pos d.recAddr c data
          (s.publishResult pos h data).bumpCtr pos d.ackCtr
        | _, _ => (s.setResult h { (s.result h) with st := if (s.result h).publication = 0 then .empty else .released, length := 0 }).jobFault
            pos E.uncorrectable { job := pos, obj := h }
    | _, _ => s)

end Sys2Proof.Machine
end

