-- ==== Sys2Proof/Machine/Stall.lean ====
section
/-! DEFINITION. The stall clock and the stall limit (R181 to R183). -/

namespace Sys2Proof.Machine

/-! ### The conditions of R181 -/

/-- A context is RUNNABLE or PENDING, or a swap of one is in progress. -/
def State.someRuns (s : State) (pos : Nat) : Bool :=
  !(s.threadsWhere pos fun c => c.status == .runnable || c.status == .pending).isEmpty ||
  (s.coresOf pos).any fun k => (s.core k).berths.any fun b => b.2.moving

/-- An engine holds a ready, unfinished descriptor of the job; for the Span, an eligible or running one. -/
def State.someEngine (s : State) (pos : Nat) : Bool :=
  (s.jobDescs pos).any fun x =>
    if x.1 = 1 then s.spanEligible pos x.2.2 || (s.engine 1 pos).running == some x.2.2.serial || (s.engine 1 pos).partner == some x.2.2.serial
    else s.descReady x.2.2

/-- A feed pull is outstanding: there is room for a block, and the device reads it or waits for records (R183, R505). -/
def State.feedOutstanding (s : State) (pos : Nat) : Bool :=
  (List.range 8).any fun i => match s.openFeed pos i with
    | some (_, d) => s.feedRoom pos d
    | none => false

/-- A publication is being copied or waits (R508). -/
def State.pubOutstanding (s : State) (pos : Nat) : Bool :=
  let j := s.job pos
  (j.man.publish.zip j.pubs).any fun x => x.2.copying.isSome || decide (x.2.served < (s.ctr pos x.1.pubCtr).toNat)

/-- A crossing that the job started is open. -/
def State.xingOutstanding (s : State) (pos : Nat) : Bool :=
  s.xings.any fun e => match e.2.opener with
    | .thread core _ => s.posOf core == pos
    | .stepCommit p => p == pos
    | _ => false

/-- A page load, a reduction, a crossing, a feed pull or a publication is outstanding, or a store is held at a home by an exclusive
crossing. -/
def State.someOutstanding (s : State) (pos : Nat) : Bool :=
  s.ms.faultIns.any (fun f => f.pos == pos) || (s.az.rings.any fun r => r.2.job == pos && !r.2.buckets.isEmpty) ||
  s.xingOutstanding pos || s.feedOutstanding pos || s.pubOutstanding pos || s.ms.stores.any (fun p => p.pos == pos && p.held)

/-- The lane of a core has an entry and stops at its HOLD mark: the descriptor. -/
def State.laneHold (s : State) (core : Nat) : Option (List Byte) :=
  match s.laneNext core with
  | none => none
  | some (_, a) =>
    let raw := s.readJob (s.posOf core) a 64
    if s.laneHeld core raw then some raw else none

/-- A prefetch lane of the job can go on. -/
def State.someLane (s : State) (pos : Nat) : Bool :=
  (s.coresOf pos).any fun k => (s.laneNext k).isSome && (s.laneHold k).isNone

/-- Every condition of R181 holds. -/
def State.stalled (s : State) (pos : Nat) : Bool :=
  (s.job pos).st == .running && !s.someRuns pos && !s.someEngine pos && !s.someOutstanding pos && !s.someLane pos

/-! ### EV_STALL (R183, R490) -/

/-- Counters awaited, each with the threshold of one waiter. Log 89: DEDUCED, unsafe. -/
def State.awaited (s : State) (pos : Nat) : List (Nat × Nat) :=
  ((s.threadsWhere pos fun c => c.status == .blockedCounter).filterMap fun t => (s.thread t).map fun c => (c.wait.counter, c.wait.threshold)) ++
  ((s.coresOf pos).filterMap fun k => (s.laneHold k).map fun raw => (fld raw 4 2, fld raw 8 4)) ++
  (((s.jobDescs pos).filter fun x => !s.descReady x.2.2).map fun x => (x.2.2.depCtr, x.2.2.depValue))

/-- The lowest four counters with their values and lowest thresholds. -/
def State.stallCounters (s : State) (pos : Nat) : List (Nat × Nat × Nat) :=
  let w := s.awaited pos
  let ids := (List.range 0xFFFF).filter fun i => w.any fun x => x.1 == i
  (ids.take 4).map fun i => (i, (s.ctr pos i).toNat, lowest ((w.filter fun x => x.1 == i).map Prod.snd))

/-- Contexts of the job in a state. -/
def State.countIn (s : State) (pos : Nat) (st : Status) : Nat := (s.threadsWhere pos fun c => c.status == st).length

/-- The fields of up to two counters of kind 1 or 2. -/
def stallBody (cs : List (Nat × Nat × Nat)) : List Byte :=
  evBody ((cs.zip (List.range 2)).flatMap fun x => [(24 + 12 * x.2, 2, x.1.1), (28 + 12 * x.2, 4, x.1.2.1), (32 + 12 * x.2, 4, x.1.2.2)])

/-- EV_STALL: its summary, and kinds 1 and 2 as far as the counters need them. -/
def State.evStall (s : State) (pos : Nat) : State :=
  let cs := s.stallCounters pos
  let core := ((s.coresOf pos).find? fun k => (s.laneHold k).isSome).getD 0xFF
  let t := s.postOwner pos (s.mkEvent 8 0 E.stall
    (evBody [(24, 1, pos), (25, 1, core), (26, 1, cs.length), (28, 4, s.countIn pos .blockedCounter), (32, 4, s.countIn pos .blockedToken),
      (36, 4, s.countIn pos .blockedEngine), (40, 4, s.countIn pos .blockedPage)]))
  let t := if cs.isEmpty then t else t.postOwner pos (s.mkEvent 8 1 E.stall (stallBody (cs.take 2)))
  if cs.length ≤ 2 then t else t.postOwner pos (s.mkEvent 8 2 E.stall (stallBody (cs.drop 2)))

/-- STALL_LIMIT: the stall clock has reached the limit (R182). -/
def execStallLimit (pos : Nat) (s : State) : Outc :=
  .next (if !s.stalled pos || decide ((s.job pos).stall < 2 ^ (s.job pos).man.stallLog2) then s
    else (s.evStall pos).endJob pos .faulted E.stall)

end Sys2Proof.Machine
end

