-- ==== Sys2Proof/Machine/Clock.lean ====
section
/-! DEFINITION. The passing of one AOC cycle, 80 fabric cycles (R35 to R37): counters, tolls, idle runs, stall clocks, and what time alone
lets go on (R181, R399, R400, R420, R518, R546, R549, R575). -/

namespace Sys2Proof.Machine

/-- Fabric cycles of an AOC cycle. -/
def fabricPerAoc : Nat := 80

/-- The account that an instance's cycle is charged to (R398, R399): for the flash controller the oldest fault-in or write-back, for a host
port engine a block that is being read. -/
def State.chargedTo (s : State) (e : Engine) : Option Nat :=
  if e.cls = 10 then
    (minBy Prod.fst (s.ms.faultIns.map (fun f => (f.serial, f.acct)) ++ s.ms.writeBacks.map fun w => (w.serial, 512))).map Prod.snd
  else if e.cls = 9 then
    if ([0, 1] : List Nat).any fun p => (s.job p).feeds.any fun f => f.pulling && f.port == e.num then some 512 else none
  else e.busyWith.map fun d => d.account

/-- One instance's cycles: charged, or idle; an idle run of 64 cycles gates its clock (R549). -/
def State.passEngine (s : State) (e : Engine) : State :=
  match s.chargedTo e with
  | some a => s.charge e.cls e.num a fabricPerAoc
  | none => s.updEngine e.cls e.num fun e =>
      { e with idleCount := e.idleCount + BitVec.ofNat 64 fabricPerAoc, idleRun := e.idleRun + fabricPerAoc
               gated := e.gated || decide (64 ≤ e.idleRun + fabricPerAoc) }

/-- A job's stall clock (R181). -/
def State.passStall (s : State) (pos : Nat) : State :=
  if (s.job pos).st != .running then s
  else
    let v := if s.stalled pos then (s.job pos).stall + fabricPerAoc else 0
    s.updJob pos fun j => { j with stall := v }

/-- A core's cycles without work (R546). -/
def State.passCore (s : State) (core : Nat) : State :=
  if !s.jobRuns core then s
  else
    let v := if s.maySleep core then (s.core core).idle + fabricPerAoc else 0
    s.updCore core fun k => { k with idle := v }

/-- One AOC cycle (40 ns). In OFF nothing passes; the fabric counts only while its PLLs run (R542, R544). -/
def tick (s : State) : State :=
  if s.dev = .off then s
  else
    let s := { s with aoc := (s.aoc + 1) % 2 ^ 64 }
    let s := if s.fwUp then s.orderStep else s
    if !s.live then s
    else
      let s := match s.boot.rollbackRaise with
        | some f => s.raiseRollback f
        | none => s
      if s.pw.standby then s
      else
        let s := { s with fabric := s.fabric + fabricPerAoc }
        let s := s.engines.foldl (fun (s : State) e => s.passEngine e) s
        let s := (s.passStall 0).passStall 1
        let s := ((s.coresOf 0) ++ (s.coresOf 1)).foldl (fun (s : State) c => s.passCore c) s
        (s.az.links.map Prod.fst).foldl (fun (s : State) l => if (s.link l).txq.isEmpty then s else s.drainLink l) s

end Sys2Proof.Machine
end

