-- ==== Sys2Proof/Machine/ImageCaps.lean ====
section
/-! DEFINITION. IMAGE_STAGE (R513, R527, R528, R613), the arrival of cargo (R488, R507), and attestation (R579 to R582). -/

namespace Sys2Proof.Machine

/-! ### IMAGE_STAGE -/

/-- The other port stages an image. -/
def State.otherStages (s : State) (port : Nat) : Bool :=
  match (s.port (1 - port)).running with
  | some r => r.opcode == Cap.imageStage
  | none => false

/-- The checks of R527 up to the cargo. -/
def State.stageCode (s : State) (port : Nat) (r : Running) : Code :=
  let n := r.arg 16 8
  if 1 < r.arg 12 1 ∨ n < 8192 ∨ 33554432 < n then E.argRange
  else if !s.pw.bootWpN || s.otherStages port then E.busy
  else (s.port port).cargo.room n

/-- IMAGE_STAGE: its checks up to the cargo, whose bytes are then awaited. -/
def execImageStage (port : Nat) (s : State) : Outc :=
  .next (s.ordered port Cap.imageStage fun s r =>
    let c := s.stageCode port r
    if c ≠ E.ok then s.answer port c [] else s)

/-- The image has come: the checks of R516 against the current counter and owner key, and IMAGE_LENGTH; a good image is kept while
the bank is programmed (R527, R528). -/
def State.stageCargo (s : State) (port : Nat) (r : Running) (data : List Byte) : State :=
  let b := slice data 0 (r.arg 16 8)
  let c := imageCode b s.rollback s.boot.owner
  if c ≠ E.ok then s.answer port c []
  else if imgLength b ≠ r.arg 16 8 then s.answer port E.argFormat []
  else s.updPort port fun q => { q with running := some { r with data := b } }

/-- The bank holds the image and nothing else of it (R528). -/
def State.programBank (s : State) (bank : Nat) (b : List Byte) : State :=
  { s with boot := { s.boot with flash := wrBytes (zeroRange s.boot.flash (bankBase bank) 0x2000000) (bankBase bank) b
                                 torn := s.boot.torn.filter fun k => k != bank } }

/-- The bank fails verification at the next boot (R528, R613). -/
def State.tearBank (s : State) (bank : Nat) : State :=
  { s with boot := { s.boot with torn := if s.boot.torn.contains bank then s.boot.torn else s.boot.torn ++ [bank] } }

/-- IMAGE_STAGE_PROGRAM_DONE: the stage ends. With BOOT_WP_N low it stopped before its next command (R613); a failed read-back is a
boot flash fault (R528, R550). In Holding a good stage is followed by a boot (R522). -/
def execImageStageProgramDone (port : Nat) (readBackOk : Bool) (s : State) : Outc :=
  .next (match (s.port port).running with
    | none => s
    | some r =>
      let bank := r.arg 12 1
      if !s.fwUp || decide (2 ≤ port) || r.opcode != Cap.imageStage || r.data.isEmpty then s
      else if !s.pw.bootWpN then ((s.tearBank bank).fire 265).answer port E.busy []
      else if !readBackOk then (((s.tearBank bank).fire 10).fire 265).answer port E.uncorrectable []
      else
        let s := (s.programBank bank r.data).fire 265
        let s := (s.cargoTaken port (r.arg 16 8)).answer port E.ok []
        if s.boot.holding then { s with boot := { s.boot with booting := true } } else s)

/-! ### Cargo -/

/-- The running capsule awaits cargo. -/
def Running.awaitsCargo (r : Running) : Bool :=
  r.opcode == Cap.jobLoad || (r.opcode == Cap.imageStage && r.data.isEmpty)

/-- CARGO_READ_DONE: PROD and the records of a JOB_LOAD or IMAGE_STAGE have been read within 1 s (R488, R501, R507). -/
def execCargoReadDone (port : Nat) (prod : W64) (data : CargoIn) (s : State) : Outc :=
  .next (match (s.port port).running with
    | none => s
    | some r =>
      let c := (s.port port).cargo
      let n := cargoRecords (r.arg 16 8)
      if !s.fwUp || decide (2 ≤ port) || !r.awaitsCargo || !c.isOpen || decide (prod.toNat < c.cursor + n) ||
          data.bytes.length != 4096 * n || decide (r.since + 25000000 < s.aoc) then s
      else
        let s := s.updCargo port fun c => { c with lastProd := prod.toNat }
        if r.opcode = Cap.jobLoad then s.loadCargo port r data else s.stageCargo port r data.bytes)

/-- CARGO_TIMEOUT (R488). -/
def execCargoTimeout (port : Nat) (s : State) : Outc :=
  .next (match (s.port port).running with
    | none => s
    | some r =>
      if !s.fwUp || decide (2 ≤ port) || !r.awaitsCargo || decide (s.aoc < r.since + 25000000) then s
      else s.answer port E.capCargo [])

/-! ### Attestation -/

/-- The values in force of the host-settable settings, in ascending id (R580). -/
def State.settingsValues (s : State) : List Byte := settingDefs.flatMap fun d => leBytes d.len (s.inForce d.id)

/-- FLAGS of a report (R579). -/
def State.attestFlags (s : State) : Nat :=
  s.boot.owner.isSome.toNat + 2 * (decide (s.boot.scopes ≠ 0)).toNat + 4 * s.boot.holding.toNat + 8 * (decide (s.storedOwner ≠ s.boot.owner)).toNat

/-- A report without its signature (R579). -/
def State.reportBody (s : State) (nonce : List Byte) : List Byte :=
  let image := if s.boot.holding then none else s.boot.image
  let comps := match image with
    | some i => i.components.map fun (c : Nat × Nat × List Byte) => c.2.2
    | none => []
  let version := match image with
    | some i => i.version
    | none => 0
  let config := match image with
    | some i => sha512 i.config
    | none => List.replicate 64 0
  leBytes 4 1 ++ leBytes 4 (320 + 80 * comps.length) ++ leBytes 2 0x00B0 ++ leBytes 1 (if s.boot.bank = 3 then 0xFF else s.boot.bank) ++
  leBytes 1 s.dev.code ++ leBytes 4 version ++ leBytes 4 s.rollback ++ leBytes 2 comps.length ++ leBytes 2 s.attestFlags ++
  leBytes 8 s.aoc ++ slice nonce 0 32 ++ identityKey ++ slice (s.boot.owner.getD []) 0 32 ++ config ++ sha512 s.settingsValues ++ comps.flatten

/-- The signed report. -/
def State.report (s : State) (nonce : List Byte) : List Byte :=
  let b := s.reportBody nonce
  b ++ Ed.sign identityPriv b

/-- ATTEST (R579, R581, R582). -/
def execAttest (port : Nat) (s : State) : Outc :=
  .next (s.ordered port Cap.attest fun s r =>
    let b := s.report (slice r.bytes 12 32)
    if r.arg 44 8 % 64 ≠ 0 then s.answer port E.argAlign []
    else if r.arg 52 4 < b.length then s.answer port E.noSpace (leBytes 4 b.length)
    else (s.out (.hostWrite port (r.arg 44 8) b)).answer port E.ok (leBytes 4 b.length))

end Sys2Proof.Machine
end

