-- ==== Sys2Proof/Machine/IntOps.lean ====
section
/-! DEFINITION. The interrupt unit, the always-on timers and the sleep of the control domain (R540, R550 to R565). -/

namespace Sys2Proof.Machine

/-! ### Sources (R550, R551) -/

def isPriv (n : Nat) : Bool := decide (n < 16)
def isLevel (n : Nat) : Bool :=
  (decide (16 ≤ n) && decide (n ≤ 227)) || (decide (230 ≤ n) && decide (n ≤ 243)) || n == 247

def State.iuSrc (s : State) (n : Nat) : IuSrc := tget IuSrc.reset n s.iu.srcs
def State.updSrc (s : State) (n : Nat) (f : IuSrc → IuSrc) : State :=
  { s with iu := { s.iu with srcs := tupd IuSrc.reset n f s.iu.srcs } }
def State.iuCore (s : State) (c : Nat) : IuCore := tget IuCore.reset c s.iu.cores
def State.updIuCore (s : State) (c : Nat) (f : IuCore → IuCore) : State :=
  { s with iu := { s.iu with cores := tupd IuCore.reset c f s.iu.cores } }

/-- A sequencer's causes: ballast consumed, a swap queue, a faulted thread. -/
def State.seqInput (s : State) (core : Nat) : Bool :=
  let k := s.core core
  k.evictOwed != 0 || !k.swapQueue.isEmpty || k.berths.any fun b => match b.2 with
    | .resident c => c.status == .faulted
    | _ => false

/-- A core's causes: a page that is waited for, or a stall clock at its limit. -/
def State.coreInput (s : State) (core : Nat) : Bool :=
  let j := s.job (s.posOf core)
  (s.core core).berths.any (fun b => match b.2 with
    | .resident c => c.status == .blockedPage
    | _ => false) ||
  (j.st == .running && decide (2 ^ j.man.stallLog2 ≤ j.stall))

/-- INPUT of a source: where the state shows the cause, and the stored input of what is reported to firmware (R550; log 57, DEDUCED,
unsafe). -/
def State.inputOf (s : State) (n : Nat) : Bool :=
  if !isLevel n then false
  else if n < 80 then s.seqInput (n - 16) || (s.iuSrc n).input
  else if n < 144 then s.coreInput (n - 80) || (s.iuSrc n).input
  else if n = 224 ∨ n = 225 then !(s.port (n - 224)).taken.isEmpty
  else if n = 226 ∨ n = 227 then decide (8192 < (s.port (n - 226)).queue.length + (s.port (n - 226)).reserved + 256)
  else (s.iuSrc n).input

def State.iuMask (s : State) (n : Nat) : Bool := !isPriv n && (s.iuSrc n).mask
def State.iuPrio (s : State) (n : Nat) : Nat := if isPriv n then 15 else (s.iuSrc n).prio

/-- PENDING: a level source follows its input while neither ACTIVE nor DELIVERING (R558). -/
def State.iuPending (s : State) (n : Nat) : Bool :=
  let x := s.iuSrc n
  if isLevel n then s.inputOf n && !x.active && !x.delivering else x.pending

/-- IU_SRC as it reads (R551). -/
def State.iuSrcWord (s : State) (n : Nat) : Nat :=
  let x := s.iuSrc n
  x.targets.toNat * 2 ^ 32 + x.lastTarget * 2 ^ 16 + (isPriv n).toNat * 2 ^ 15 + (isLevel n).toNat * 2 ^ 14 + (s.inputOf n).toNat * 2 ^ 13 +
  x.delivering.toNat * 2 ^ 12 + x.active.toNat * 2 ^ 11 + (s.iuPending n).toNat * 2 ^ 10 + (s.iuMask n).toNat * 2 ^ 8 + s.iuPrio n

/-- RUNNING of a control core (R552, R556). -/
def IuCore.running (c : IuCore) : Nat := (c.stack.head?.map Prod.snd).getD 0

/-- IU_CORE_LEVEL as it reads (R552). -/
def IuCore.level (c : IuCore) : Nat := c.stack.length * 2 ^ 16 + c.bad * 2 ^ 5 + c.running

/-- IU_CORE_CLAIM as it reads (R552). -/
def IuCore.claimWord (c : IuCore) : Nat := match c.claim with
  | some (n, p) => 2 ^ 31 + p * 2 ^ 12 + n
  | none => 0

/-- What a read of the unit at an offset from IU_BASE answers: write-only registers and absent ones read as zero (R13, R551, R552). -/
def State.iuRead (s : State) (off : Nat) : Nat :=
  if off < 0x1000 then s.iuSrcWord (off / 8)
  else if 0x1200 ≤ off then 0
  else
    let c := s.iuCore ((off - 0x1000) / 0x40)
    match off % 0x40 with
    | 0x00 => c.claimWord
    | 0x10 => c.threshold
    | 0x18 => c.level
    | _ => 0

/-! ### Register writes (R551, R552, R560) -/

/-- Firmware runs and the control domain is awake. -/
def State.fwAwake (s : State) : Bool := s.fwUp && !s.iu.asleep

/-- A write of IU_SRC; it is ignored when it sets a reserved bit (R13; log 59, DEDUCED, unsafe). -/
def State.writeSrc (s : State) (n : Nat) (v : W64) : State :=
  if 512 ≤ n || !rsvOk v 0xFFFFFF00FFF802F0 then s
  else s.updSrc n fun x =>
    let x := { x with targets := BitVec.ofNat 8 (bits v.toNat 32 8) }
    let x := if isPriv n then x else { x with mask := v.getLsbD 8, prio := bits v.toNat 0 4 }
    if v.getLsbD 10 && !isPriv n && !isLevel n then { x with pending := false } else x

/-- IU_SRC_WRITE: MASK, TARGETS, PRIO of a source, or a core's THRESHOLD; a delivery in progress is not withdrawn (R560). -/
def execIuSrcWrite (reg : IuReg) (value : W64) (s : State) : Outc :=
  .next (if !s.fwAwake then s
    else match reg with
      | .src n => s.writeSrc n value
      | .threshold c => if c < 8 && decide (value.toNat < 16) then s.updIuCore c fun k => { k with threshold := bits value.toNat 0 4 } else s)

/-- IU_PENDING_CLEAR: a write of IU_SRC whose PENDING bit is 1 (R551). -/
def execIuPendingClear (n : Nat) (value : W64) (s : State) : Outc :=
  .next (if s.fwAwake && value.getLsbD 10 then s.writeSrc n value else s)

/-- IU_DOORBELL: each bit of RING fires its source (R553); a write that sets a reserved bit is ignored (R13). -/
def execIuDoorbell (core : Nat) (ring : W32) (s : State) : Outc :=
  .next (if !s.fwAwake || decide (8 ≤ core) || decide (256 ≤ ring.toNat) then s
    else (List.range 8).foldl (fun (s : State) k => if ring.getLsbD k then s.fire (248 + k) else s) s)

/-! ### Delivery (R554, R555) -/

/-- The source is eligible (R554). -/
def State.eligibleSrc (s : State) (n : Nat) : Bool :=
  let x := s.iuSrc n
  if isPriv n then x.pending && !x.delivering && !x.active
  else s.iuPending n && !x.active && !x.delivering && !x.mask && decide (0 < x.prio) && x.targets != 0

/-- A delivery to the core is in progress. -/
def State.deliveryTo (s : State) (c : Nat) : Option Nat :=
  ((s.iu.srcs.filter fun e => e.2.delivering && e.2.deliverTo == c).map Prod.fst).head?

/-- The core can take the source (R554). -/
def State.canTake (s : State) (n c : Nat) : Bool :=
  let k := s.iuCore c
  k.claim.isNone && (s.deliveryTo c).isNone &&
  (if isPriv n then decide (k.running < 15)
   else (s.iuSrc n).targets.getLsbD c && decide (k.threshold < s.iuPrio n) && decide (k.running < s.iuPrio n))

/-- The first core after LAST_TARGET that can take the source (R555). -/
def State.targetOf (s : State) (n : Nat) : Option Nat :=
  ((List.range 8).map fun i => ((s.iuSrc n).lastTarget + 1 + i) % 8).find? fun c => s.canTake n c

/-- A delivery starts (R555). -/
def State.startDelivery (s : State) (n c : Nat) : State :=
  let p := s.iuPrio n
  s.updSrc n fun x => { x with delivering := true, pending := false, lastTarget := c, deliverTo := c, deliverPrio := p }

/-- Sources of a priority, in ascending number. -/
def State.eligibleAt (s : State) (p : Nat) : List Nat := (List.range 270).filter fun n => s.eligibleSrc n && s.iuPrio n == p

/-- IU_DELIVERY: one control cycle. The highest priority goes first, and among equals the lowest number; each core receives one source, each
source goes to one core (R555). Log 86: DEDUCED, safe. -/
def execIuDelivery (s : State) : Outc :=
  .next (if !s.fwAwake then s
    else
      let order := (List.range 15).flatMap fun i => s.eligibleAt (15 - i)
      order.foldl (fun (s : State) n => match s.targetOf n with
        | some c => s.startDelivery n c
        | none => s) s)

/-- IU_DELIVERY_LAND: the source that is on its way to the core enters its claim slot (R555). -/
def execIuDeliveryLand (core : Nat) (s : State) : Outc :=
  .next (match s.deliveryTo core with
    | none => s
    | some n =>
      if !s.fwAwake || (s.iuCore core).claim.isSome then s
      else
        let p := (s.iuSrc n).deliverPrio
        (s.updSrc n fun x => { x with delivering := false, deliverTo := 0, deliverPrio := 0 }).updIuCore core fun k => { k with claim := some (n, p) })

/-! ### Claim and completion (R556, R558, R559) -/

/-- IU_CORE_CLAIM: a read with VALID set (R556). -/
def execIuCoreClaim (core : Nat) (s : State) : Outc :=
  .next (match (s.iuCore core).claim with
    | none => s
    | some (n, p) =>
      if !s.fwAwake then s
      else (s.updSrc n fun x => { x with active := true }).updIuCore core fun k => { k with claim := none, stack := (n, p) :: k.stack })

/-- A level source whose stored input is a report that firmware takes: of a lane or an engine, an Azlink port engine, the flash controller,
a mooring or compression engine, the crossing table (R550). -/
def isReport (n : Nat) : Bool := n == 247 || decide (230 ≤ n ∧ n < 244) || decide (16 ≤ n ∧ n < 160)

/-- Completion of the source on top of the stack. Firmware has then taken what a report source showed (log 57, DEDUCED, unsafe); a
privileged source that fired meanwhile goes to this core again at once (R559). -/
def State.completeSrc (s : State) (core n : Nat) (rest : List (Nat × Nat)) : State :=
  let s := (s.updSrc n fun x => { x with active := false, input := x.input && !isReport n }).updIuCore core fun k => { k with stack := rest }
  if isPriv n && (s.iuSrc n).pending && (s.iuCore core).claim.isNone && (s.deliveryTo core).isNone then s.startDelivery n core else s

/-- IU_CORE_COMPLETE (R556); a write that sets a reserved bit is ignored (R13). -/
def execIuCoreComplete (core : Nat) (source : W32) (s : State) : Outc :=
  .next (if !s.fwAwake || decide (8 ≤ core) || decide (512 ≤ source.toNat) then s
    else match (s.iuCore core).stack with
      | (n, _) :: rest =>
        if n = source.toNat then s.completeSrc core n rest
        else s.updIuCore core fun k => { k with bad := Nat.min 15 (k.bad + 1) }
      | [] => s.updIuCore core fun k => { k with bad := Nat.min 15 (k.bad + 1) })

/-! ### Always-on timers (R540) -/

def State.compareOf (s : State) (k : Nat) : BitVec 64 := tget compareReset k s.iu.compare

/-- The timer fires once when the counter has reached its compare value. -/
def State.timerFire (s : State) (k : Nat) : State :=
  if tget false k s.iu.fired || decide (s.aoc < (s.compareOf k).toNat) then s
  else
    let s := s.fire (256 + k)
    { s with iu := { s.iu with fired := tset false k true s.iu.fired } }

/-- AOT_COMPARE_WRITE: the timer is armed again; a value already passed fires at once (R540). -/
def execAotCompareWrite (k : Nat) (value : W64) (s : State) : Outc :=
  .next (if !s.fwAwake || decide (8 ≤ k) then s
    else ({ s with iu := { s.iu with compare := tset compareReset k value s.iu.compare, fired := tset false k false s.iu.fired } } : State).timerFire k)

/-- AOT_TIMER_FIRE (R540). -/
def execAotTimerFire (k : Nat) (s : State) : Outc := .next (if s.dev == .off || decide (8 ≤ k) then s else s.timerFire k)

/-! ### Sleep of the control domain (R561 to R564) -/

/-- Stacks and claim slots are empty, no delivery is in progress, no crossing is open (R561). -/
def State.maySleepControl (s : State) : Bool :=
  ((List.range 8).all fun c => (s.iuCore c).stack.isEmpty && (s.iuCore c).claim.isNone) && (s.iu.srcs.all fun e => !e.2.delivering) &&
  s.xings.isEmpty

/-- CONTROL_DOMAIN_SLEEP: firmware, waiting for an interrupt on every control core, asks for it (R561). Log 85: DESIGN CHOICE, safe. -/
def execControlDomainSleep (s : State) : Outc :=
  .next (if s.fwAwake && s.maySleepControl then { s with iu := { s.iu with asleep := true, latches := [] } } else s)

/-- The latch of a source is set: an edge source's own, or the input of a level source (R562). -/
def State.latched (s : State) (n : Nat) : Bool := s.iu.latches.contains n || s.inputOf n

/-- A latch wakes the domain (R563). -/
def State.wakes (s : State) (n : Nat) : Bool :=
  s.latched n && (isPriv n || (!s.iuMask n && decide (0 < s.iuPrio n) && (s.iuSrc n).targets != 0))

/-- CONTROL_DOMAIN_WAKE: the retained state returns and set edge latches become PENDING; a parity error restores the unit to reset and is
fatal (R563, R564). -/
def execControlDomainWake (parityOk : Bool) (s : State) : Outc :=
  .next (if !s.fwUp || !s.iu.asleep || !(List.range 270).any fun n => s.wakes n then s
    else
      let ls := s.iu.latches
      let s : State := { s with iu := { s.iu with asleep := false, latches := [] } }
      if parityOk then ls.foldl (fun (s : State) n => s.fire n) s
      else ({ s with iu := { s.iu with srcs := [], cores := [] } } : State).enterFaulted 15 E.uncorrectable 0 0xFFFFFFFF 0xFFFF)

end Sys2Proof.Machine
end

