-- ==== Sys2Proof/Machine/PowerSeq.lean ====
section
/-! DEFINITION. The power sequencer (R541 to R544, R597 to R601, R606 to R608) and the background sensors (R320, R369). -/

namespace Sys2Proof.Machine

/-- The device has left OFF. -/
def State.powered (s : State) : Bool := s.dev != .off

/-! ### Power-up (R597, R599, R608) -/

/-- ALWAYS_ON_RESET_RELEASE: the timestamp counter starts at zero and the device is in ALWAYS-ON; a PWR_EN that is high already is
acted on (R37, R597, R599). -/
def execAlwaysOnResetRelease (s : State) : Outc :=
  .next (if s.dev != .off then s
    else
      let s := { s with aoc := 0 }.setDev .alwaysOn
      { s with pw := { s.pw with railsStarting := s.pw.pwrEn, lowSince := if s.pw.pwrEn then none else some 0 } })

/-- PWR_EN has been low for at least 10 ms (R608). -/
def State.lowLong (s : State) : Bool :=
  match s.pw.lowSince with
  | some t => decide (t + 250000 ≤ s.aoc)
  | none => false

/-- Logic is below 90 °C and DRAM below 80 °C (R608). -/
def Power.cool (p : Power) : Bool :=
  decide (p.tLogic.toInt < 90 * 16) && decide (p.tDram0.toInt < 80 * 16) && decide (p.tDram1.toInt < 80 * 16)

/-- An accepted rising edge in ALWAYS-ON: the rails start, or after a thermal trip wait for the device to cool (R599, R608). -/
def State.risingEdge (s : State) : State :=
  if s.pw.needEdge && !s.lowLong then s
  else if s.pw.tripHold && !s.pw.cool then { s with pw := { s.pw with heldEdge := true } }
  else { s with pw := { s.pw with railsStarting := true, needEdge := false, tripHold := false, heldEdge := false } }

/-- PWR_EN_RISE: the debounced level is high (R599, R600). An edge during a power-down is held until ALWAYS-ON is reached. -/
def execPwrEnRise (s : State) : Outc :=
  .next (if s.pw.pwrEn then s
    else
      let s := (s.fire 269)
      let t := { s with pw := { s.pw with pwrEn := true, statusUnread := s.powered } }
      if s.dev = .alwaysOn then
        let u := t.risingEdge
        { u with pw := { u.pw with lowSince := none } }
      else { t with pw := { t.pw with heldEdge := s.pw.powerDown, lowSince := none } })

/-- TRIP_COOLDOWN: a held edge is acted on once the device has cooled (R608). -/
def execTripCooldown (s : State) : Outc :=
  .next (if s.dev == .alwaysOn && s.pw.heldEdge && s.pw.tripHold && s.pw.pwrEn && s.pw.cool then
      { s with pw := { s.pw with railsStarting := true, needEdge := false, tripHold := false, heldEdge := false } }
    else s)

/-- RAILS_IN_REGULATION: PWR_GOOD rises, the state is IDLE, and boot starts (R542, R599). -/
def execRailsInRegulation (s : State) : Outc :=
  .next (if s.dev != .alwaysOn || !s.pw.railsStarting then s
    else
      let s := s.setDev .idle
      { s with pw := { s.pw with railsStarting := false, pwrGood := true, goodSince := s.aoc }, boot := { s.boot with booting := true } })

/-! ### Power-down (R543, R600) -/

/-- Dirty units of the resident pages of a position, those in the controller's buffer aside. -/
def State.unitsLeft (s : State) (pos : Nat) : Nat := (s.job pos).dirtyUnits + (s.ms.writeBacks.filter fun w => w.pos == pos).length

/-- Nothing of the running down remains. -/
def State.downDone (s : State) : Bool := s.unitsLeft 0 == 0 && s.unitsLeft 1 == 0

/-- The job that is ending reports what it lost and leaves (R382, R383, R543). -/
def State.loseJob (s : State) (pos : Nat) : State :=
  let n := s.unitsLeft pos
  let j := s.job pos
  if j.st = .ending then
    let s := if n = 0 then s else s.countBy 0x1030 n
    (s.evDoneJob pos j.reason (if n = 0 then j.code else E.flashWorn) (j.lost + n)).updJob pos fun j => { Job.absent with owner := j.owner }
  else s

/-- LIFETIME is stored, the links go down, and the device enters ALWAYS-ON (R543). An edge that came meanwhile is acted on (R600). -/
def State.finishDown (s : State) : State :=
  let held := s.pw.heldEdge && s.pw.pwrEn
  let s := ((s.loseJob 0).loseJob 1)
  let s := if s.live then s.logFirmware Rec.lifetime s.lifetimeBytes else s
  let s := s.dropRails 1
  { s with pw := { s.pw with heldEdge := false, railsStarting := held } }

/-- ENDING's steps that need no flash write (R382, R543). -/
def State.stopJob (s : State) (pos : Nat) : State :=
  match execJobEnding pos (s.endJob pos .stopped E.ok) with
  | .next t => t
  | _ => s

/-- PWR_EN_FALL (R543, R600, R606): running jobs end with STOPPED, a mooring in STAGING or WRITING is abandoned; with nothing to write back
the device goes to ALWAYS-ON at once. In ALWAYS-ON the rails stop. THERMTRIP_N is released. -/
def execPwrEnFall (s : State) : Outc :=
  .next (if !s.pw.pwrEn then s
    else
      let s := s.fire 269
      let s := { s with pw := { s.pw with pwrEn := false, lowSince := some s.aoc, thermDrive := false, heldEdge := false
                                          statusUnread := s.powered } }
      if !s.fwUp then { s with pw := { s.pw with railsStarting := false } }
      else if s.pw.powerDown then s
      else
        let s := { s with pw := { s.pw with powerDown := true, standby := false } }
        let s := ((s.abandonMoor E.noJob).stopJob 0).stopJob 1
        if s.downDone then s.finishDown else s)

/-- POWER_DOWN_WRITEBACK_LIMIT: after 50 ms, or once every unit is written back, the power-down ends; units still dirty are lost and
counted (R346, R543). Log 81: DESIGN CHOICE, safe. -/
def execPowerDownWritebackLimit (s : State) : Outc :=
  .next (
    let late := match s.pw.lowSince with
      | some t => decide (t + 1250000 ≤ s.aoc)
      | none => true
    if !s.pw.powerDown || !s.fwUp || !(late || s.downDone) then s else s.finishDown)

/-! ### Losses of power, trips (R598, R599, R606 to R608) -/

/-- A sudden loss of the switched rails: the cause is kept when the device moves, and a new edge is needed (R598, R608). Log 78:
DEDUCED, unsafe. -/
def State.suddenOff (s : State) (source cause : Nat) : State :=
  let last := if s.fwUp then cause else s.pw.lastCause
  let s := (s.fire source).dropRails last
  { s with pw := { s.pw with needEdge := true, heldEdge := false } }

/-- POWER_EMERGENCY (R598). -/
def execPowerEmergency (overVoltage : Bool) (s : State) : Outc :=
  .next (if s.powered then s.suddenOff 2 (if overVoltage then 3 else 2) else s)

/-- RAIL_FAULT: a switched rail does not reach regulation or leaves it; the cause is recorded though the device stays in ALWAYS-ON
(R599). -/
def execRailFault (s : State) : Outc :=
  .next (if s.fwUp || (s.dev == .alwaysOn && s.pw.railsStarting) then
      let s := s.suddenOff 14 7
      { s with pw := { s.pw with lastCause := 7 } }
    else s)

/-- A thermal trip, or a pull of THERMTRIP_N from outside: the line is driven low until PWR_EN is low (R606, R607). -/
def State.trip (s : State) (source cause : Nat) : State :=
  let s := s.suddenOff source cause
  { s with pw := { s.pw with thermDrive := s.pw.pwrEn, tripHold := true } }

/-- THERMAL_TRIP (R606). -/
def execThermalTrip (dram : Bool) (s : State) : Outc :=
  .next (if s.powered then s.trip (if dram then 4 else 3) (if dram then 5 else 4) else s)

/-- THERMTRIP_N_EXTERNAL: not while the device drives the line itself (R607). Log 77: DESIGN CHOICE, safe. -/
def execThermtripNExternal (s : State) : Outc :=
  .next (if s.powered && !s.pw.thermDrive then s.trip 13 6 else s)

/-- VIN_LOSS_OFF: below 18 V the device is OFF, whatever it was (R542, R598, R614, R622). The logbook, the boot flash and the flash
tier keep their content. Log 79: DEDUCED, unsafe. -/
def execVinLossOff (s : State) : Outc :=
  .next (if !s.powered then s
    else
      let s := (s.dropRails 0).setDev .off
      { s with
        aoc := 0, snap := Snapshot.reset
        boot := { s.boot with log := s.boot.log.map fun e => (e.1, { e.2 with last := none }) }
        ms := { s.ms with flash := { s.ms.flash with lastCheckpoint := none } }
        pw := { Power.reset with pwrEn := s.pw.pwrEn, bootWpN := s.pw.bootWpN, prsnt := s.pw.prsnt, smbAddr := s.pw.smbAddr } })

/-! ### Standby (R544) -/

/-- The four conditions of standby; that they have held for 1 s is the event's. -/
def State.mayStandby (s : State) : Bool :=
  s.dev == .idle && (s.boot.done || s.boot.holding) && !s.boot.booting && !s.pw.powerDown &&
  ([0, 1] : List Nat).all (fun p => ((s.job p).st == .none || (s.job p).st == .ending) && (s.port p).running.isNone) &&
  s.az.links.all (fun l => !l.2.up) && !(s.moor.st == .staging || s.moor.st == .writing) && s.restore.phase == .none

/-- STANDBY_ENTER (R544). -/
def execStandbyEnter (s : State) : Outc :=
  .next (if s.mayStandby && !s.pw.standby then { s with pw := { s.pw with standby := true } } else s)

/-- STANDBY_EXIT: capsules that waited are taken (R544). -/
def execStandbyExit (s : State) : Outc :=
  .next (if s.pw.standby then
      let s : State := { s with pw := { s.pw with standby := false } }
      (s.takeAll 0).takeAll 1
    else s)

end Sys2Proof.Machine
end

