-- ==== Sys2Proof/Machine/Telemetry.lean ====
section
/-! DEFINITION. Duty (R603, R605), the management interface (R614 to R616), sensors and fatal causes outside memory (R23, R320, R369,
R550, R586). -/

namespace Sys2Proof.Machine

/-! ### Duty -/

/-- The duty of R603: the lower of the power duty and the thermal duty (R605). -/
def Power.duty (p : Power) : Nat := Nat.min p.powerDuty p.thermalDuty

/-- A change of a duty bit of STATUS is a STATUS change (R612, R616). -/
def Power.withDuty (p q : Power) : Power :=
  if decide (p.powerDuty < 16) == decide (q.powerDuty < 16) && decide (p.thermalDuty < 16) == decide (q.thermalDuty < 16) then q
  else { q with statusUnread := true }

/-- POWER_DUTY_EVALUATE: every 1 ms the input power of that time is known, and the device sets the duty (R603, R615). Which duty keeps the
power below its bounds is for the device's own estimate: the event brings it (log 58, DESIGN CHOICE, safe). -/
def execPowerDutyEvaluate (watts : W16) (duty : Nat) (s : State) : Outc :=
  .next (if !s.powered then s
    else
      let s := { s with pw := { s.pw with pin := watts, energyMj := s.pw.energyMj + watts.toNat } }
      if !s.fwUp || duty < 1 || 16 < duty then s else { s with pw := s.pw.withDuty { s.pw with powerDuty := duty } })

/-- A sensor has reached the throttle's upper threshold (R605). -/
def Power.hot (p : Power) : Bool :=
  decide (102 * 16 ≤ p.tLogic.toInt) || decide (92 * 16 ≤ p.tDram0.toInt) || decide (92 * 16 ≤ p.tDram1.toInt)

/-- Every sensor is below the lower threshold (R605). -/
def Power.belowThrottle (p : Power) : Bool :=
  decide (p.tLogic.toInt < 100 * 16) && decide (p.tDram0.toInt < 90 * 16) && decide (p.tDram1.toInt < 90 * 16)

/-- Points of the temperature margin (R369). -/
def Power.marginPoints (p : Power) : Nat := if p.margin < 80 then 3 else if p.margin < 160 then 2 else if p.margin < 240 then 1 else 0

/-- THERMAL_DUTY_STEP: sensor readings, and a step of the thermal duty (R605); a margin that crosses a tide step fires source 266
(R550). -/
def execThermalDutyStep (tLogic tDram0 tDram1 : W16) (s : State) : Outc :=
  .next (if !s.powered then s
    else
      let p := { s.pw with tLogic := tLogic, tDram0 := tDram0, tDram1 := tDram1 }
      let s := if s.pw.marginPoints = p.marginPoints then s else s.fire 266
      if !s.fwUp then { s with pw := p }
      else if p.hot then { s with pw := s.pw.withDuty { p with thermalDuty := Nat.max 1 (p.thermalDuty - 1) } }
      else if p.belowThrottle then { s with pw := s.pw.withDuty { p with thermalDuty := Nat.min 16 (p.thermalDuty + 1) } }
      else { s with pw := p })

/-! ### SMBus -/

/-- STATUS (R616). -/
def State.statusWord (s : State) : Nat :=
  s.pw.lastCause * 2 ^ 12 + s.dev.code * 2 ^ 5 + s.pw.thermDrive.toNat * 16 + (decide (s.pw.thermalDuty < 16)).toNat * 8 +
  (decide (s.pw.powerDuty < 16)).toNat * 4 + s.pw.pwrEn.toNat * 2 + s.pw.pwrGood.toNat

/-- The interface answers in every state but OFF (R614). -/
def State.smbus (s : State) (cmd : Nat) (data : List Byte) : State := if s.powered then s.out (.smbus cmd data) else s

/-- STATUS: reading it releases SMB_ALERT_N (R614). -/
def execStatus (s : State) : Outc :=
  .next (if s.powered then
      let s := s.smbus 0x01 (leBytes 2 s.statusWord)
      { s with pw := { s.pw with statusUnread := false } }
    else s)

/-- VIN: the voltage is measured as it is read. -/
def execVin (mv : W16) (s : State) : Outc :=
  .next (if s.powered then ({ s with pw := { s.pw with vin := mv } } : State).smbus 0x02 (leBytes 2 mv.toNat) else s)

/-- IIN: the current is measured as it is read. -/
def execIin (value : W16) (s : State) : Outc :=
  .next (if s.powered then ({ s with pw := { s.pw with iin := value } } : State).smbus 0x03 (leBytes 2 value.toNat) else s)

/-- PIN. -/
def execPin (s : State) : Outc := .next (s.smbus 0x04 (leBytes 2 s.pw.pin.toNat))
/-- T_LOGIC. -/
def execTLogic (s : State) : Outc := .next (s.smbus 0x05 (leBytes 2 s.pw.tLogic.toNat))
/-- T_DRAM0. -/
def execTDram0 (s : State) : Outc := .next (s.smbus 0x06 (leBytes 2 s.pw.tDram0.toNat))
/-- T_DRAM1. -/
def execTDram1 (s : State) : Outc := .next (s.smbus 0x07 (leBytes 2 s.pw.tDram1.toNat))

/-- PCAP: a read, or a write with its PEC check; a bad PEC or a value out of range changes nothing (R614). -/
def execPcap (write : Option (W16 × Bool)) (s : State) : Outc :=
  .next (match write with
    | none => s.smbus 0x08 (leBytes 2 s.pw.pcap.toNat)
    | some (v, pecOk) =>
      if s.powered && pecOk && decide (400 ≤ v.toNat) && decide (v.toNat ≤ 1500) then { s with pw := { s.pw with pcap := v } } else s)

/-- DUTY. -/
def execDuty (s : State) : Outc := .next (s.smbus 0x09 (leBytes 1 s.pw.duty))
/-- ENERGY, in joules. -/
def execEnergy (s : State) : Outc := .next (s.smbus 0x0A (leBytes 8 (s.pw.energyMj / 1000)))
/-- TIDE. -/
def execTide (s : State) : Outc := .next (s.smbus 0x0B (leBytes 1 s.tide.level))
/-- PRSNT. -/
def execPrsnt (s : State) : Outc := .next (s.smbus 0x0C (leBytes 2 s.pw.prsnt.toNat))

/-- ALERT_RESPONSE: a device that holds SMB_ALERT_N low answers with its address (R614). -/
def execAlertResponse (s : State) : Outc :=
  .next (if s.powered && s.pw.statusUnread then s.out (.alertAddress (0x58 + s.pw.smbAddr)) else s)

/-! ### Fatal causes and sensors -/

/-- BRIDGE_LANE_LOST (R23, R586). -/
def execBridgeLaneLost (s : State) : Outc := .next (if s.live then s.enterFaulted 5 E.uncorrectable 0 0xFFFFFFFF 0xFFFF else s)

/-- REFERENCE_CLOCK_LOST (R586). -/
def execReferenceClockLost (s : State) : Outc := .next (if s.fwUp then s.enterFaulted 11 E.uncorrectable 0 0xFFFFFFFF 0xFFFF else s)

/-- REGULATOR_FAULT (R586). -/
def execRegulatorFault (s : State) : Outc := .next (if s.fwUp then s.enterFaulted 12 E.uncorrectable 0 0xFFFFFFFF 0xFFFF else s)

/-- FATAL_MEMORY_ERROR: control-core memory of a shore (R550, R586). -/
def execFatalMemoryError (shore : Nat) (s : State) : Outc :=
  .next (if s.fwUp && decide (shore < 2) then s.enterFaulted shore E.uncorrectable 0 0xFFFFFFFF 0xFFFF else s)

/-- CONTROL_CORE_WATCHDOG fires its source; R586 does not name it as fatal (R550). -/
def execControlCoreWatchdog (core : Nat) (s : State) : Outc := .next (if s.fwUp && decide (core < 8) then s.fire 6 else s)

/-- VOLTAGE_DROOP_EVENT: source 267, and an input of the tide (R369, R550). -/
def execVoltageDroopEvent (s : State) : Outc :=
  .next (if s.live then
      let s := s.fire 267
      { s with tide := { s.tide with droops := s.aoc :: s.tide.droops } }
    else s)

/-- STACK_REFRESH_DOUBLED: a stack crosses 85 °C in either direction (R320); `marginStep` says that a tide step was crossed
(R369, R550). -/
def execStackRefreshDoubled (stack : Nat) (hot marginStep : Bool) (s : State) : Outc :=
  .next (if !s.fwUp then s
    else
      let s := if marginStep then s.fire 266 else s
      { s with pw := { s.pw with refresh2x := lset s.pw.refresh2x stack hot } })

end Sys2Proof.Machine
end

