-- ==== Sys2Proof/Machine/Tokens.lean ====
section
/-! DEFINITION. Slot tokens at their home (R228 to R235). -/

namespace Sys2Proof.Machine

/-- The slot that holds a word: its core, its first core-local word, its size in words, and the word's place in it. -/
structure SlotAt where
  core : Nat
  first : Nat
  words : Nat
  at_ : Nat
deriving DecidableEq, Repr

/-- The slot of a global word index, when a ring of the job declares one there (R228). -/
def State.slotAt (s : State) (pos i : Nat) : Option SlotAt :=
  let core := i / 2 ^ 20
  let l := i % 2 ^ 20
  match (s.job pos).man.rings.find? fun r => r.core == core && within l 1 r.base (r.slots * 2 ^ r.sizeLog2) with
  | none => none
  | some r =>
    let w := 2 ^ r.sizeLog2
    let k := (l - r.base) / w
    some { core := core, first := r.base + k * w, words := w, at_ := (l - r.base) % w }

def State.tok (s : State) (a : SlotAt) : Tok := tget Tok.empty a.first (s.core a.core).tokens
def State.setTok (s : State) (a : SlotAt) (t : Tok) : State :=
  s.updCore a.core fun c => { c with tokens := tset Tok.empty a.first t c.tokens }

/-- The token-store entry of a slot is read: a single-bit error is corrected and counted, a double-bit error loses law 4 of the
slot's core (R236, R237, R585). -/
def State.entryRead (s : State) (core : Nat) (ecc : Ecc) (act : State → State) : State :=
  match ecc with
  | .clean => act s
  | .single => act ((s.count (0x1300 + 8 * core)).fire 246)
  | .double => (s.count (0x1500 + 8 * core)).lostLaw 4 core core

/-- The operation may proceed (R230). -/
def Tok.allows (t : Tok) (op : TokOp) : Bool :=
  t.holder.isNone && match op with
  | .takeF => t.full
  | .takeE => !t.full
  | .load _ _ => t.full
  | .store _ _ => !t.full

/-- The token after the operation completes (R230); the last word of a slot moves the state. -/
def Tok.after (t : Tok) (a : SlotAt) (tid : Nat) : TokOp → Tok
  | .takeF => { t with holder := some tid }
  | .takeE => { t with holder := some tid }
  | .load w _ => if w % 2 ^ 20 = a.first + a.words - 1 then { t with full := false } else t
  | .store w _ => if w % 2 ^ 20 = a.first + a.words - 1 then { t with full := true } else t

/-- What a waiter's completion does besides the token: a load writes its register, a store its word (R163). -/
def State.serve (s : State) (tid : Nat) (op : TokOp) : State :=
  match op with
  | .takeF | .takeE => (s.wake tid (fun c => c)).advance tid
  | .load w rd =>
    let pa := wordAddr w
    if s.ms.poisoned pa 4 then
      match s.thread tid with
      | some c => s.threadFault tid c.pc E.uncorrectable
      | none => s
    else (s.wake tid fun c => c.write rd (BitVec.ofNat 64 (rdNat s.ms.mem pa 4))).advance tid
  | .store w v => ((s.poke (wordAddr w) (leBytes 4 v.toNat)).wake tid (fun c => c)).advance tid

/-- One walk over the waiters in the order in which they blocked (R232). Answers whether one was served. -/
def State.walkOnce (s : State) (a : SlotAt) : Bool × State :=
  (s.tok a).waiters.foldl (fun (r : Bool × State) w =>
    let t := r.2.tok a
    if t.allows w.op then
      let t' := { (t.after a w.tid w.op) with waiters := t.waiters.filter (fun x => x.tid != w.tid) }
      (true, (r.2.setTok a t').serve w.tid w.op)
    else r) (false, s)

/-- Walks until the token allows no queued waiter (R232). -/
def State.walk (s : State) (a : SlotAt) : Nat → State
  | 0 => s
  | n + 1 => match s.walkOnce a with
    | (true, s) => State.walk s a n
    | (false, s) => s

def State.walkAll (s : State) (a : SlotAt) : State := s.walk a ((s.tok a).waiters.length + 1)

/-- A token operation of an instruction reaches the home: it proceeds at once when the token allows it, otherwise the
context joins the queue and blocks in BLOCKED_TOKEN (R230, R232). `fin` retires the instruction. -/
def State.tokenOp (s : State) (t : Thr) (c : Ctx) (a : SlotAt) (op : TokOp) (fin : State → State) : State :=
  let k := s.tok a
  if k.allows op then ((fin (s.setTok a (k.after a c.tid op)))).walkAll a
  else
    (s.setTok a { k with waiters := k.waiters ++ [{ tid := c.tid, op := op }] }).block t c .blockedToken
      { WaitRec.idle with object := wordAddr (a.core * 2 ^ 20 + a.first) }

end Sys2Proof.Machine
end

