-- ==== Sys2Proof/Machine/TillerCtl.lean ====
section
/-! DEFINITION. Tiller classes 0x6, 0x8, 0xA to 0xD: branches, counters, slot tokens, FENCE, crossings, YIELD and system
reads (R201, R202, R206, R212 to R217). -/

namespace Sys2Proof.Machine

/-- A branch to PC + imm; a target outside the code region faults at the branch (R189, R202). -/
def State.branch (s : State) (t : Thr) (c : Ctx) (imm : Imm) (f : Ctx → Ctx) : State :=
  match branchTarget c.pc imm (s.codeWords (s.posOf t.core)) with
  | none => s.faultAt c E.argRange
  | some pc => s.setCtxAt t { f c with pc := pc }

/-- BR (R202). -/
def execBr (t : Thr) (imm : Imm) (s : State) : Outc :=
  .next (s.issue t [] [] true fun c s => s.branch t c imm (fun c => c))
/-- BRP (R202). -/
def execBrp (t : Thr) (p : Prd) (sense : Bool) (imm : Imm) (s : State) : Outc :=
  .next (s.issue t [] [p] true fun c s => if c.prd p = sense then s.branch t c imm (fun c => c) else s.retire t c)
/-- BRR (R202). -/
def execBrr (t : Thr) (ra : Reg) (s : State) : Outc :=
  .next (s.issue t [ra] [] true fun c s =>
    let a := (c.reg ra).toNat
    if a < 2 ^ 32 ∧ a < s.codeWords (s.posOf t.core) then s.setCtxAt t { c with pc := BitVec.ofNat 32 a }
    else s.faultAt c E.argRange)
/-- CALL: rd = PC + 1 (R202). -/
def execCall (t : Thr) (rd : Reg) (imm : Imm) (s : State) : Outc :=
  .next (s.issue t [] [] true fun c s => s.branch t c imm fun c => c.write rd (BitVec.ofNat 64 (c.pc.toNat + 1)))

/-! ### Counters -/

/-- Runs `body` with the counter's id, or faults outside the job's space (R206). -/
def ctrOp (t : Thr) (ra : Reg) (imm : W16) (srcs : List Reg) (inX : Bool) (body : Ctx → Nat → State → State) (s : State) : State :=
  s.issue t (ra :: srcs) [] inX fun c s =>
    let id := c.ctrId ra imm
    if ctrOk (s.posOf t.core) id then body c id s else s.faultAt c E.argRange

/-- Bits [31:0] of a threshold or amount (R206). -/
def low32 (w : W64) : Nat := w.toNat % 2 ^ 32

/-- WAIT (R162, R206). -/
def execWait (t : Thr) (ra rb : Reg) (imm : W16) (s : State) : Outc :=
  .next (ctrOp t ra imm [rb] false (fun c id s =>
    if low32 (c.reg rb) ≤ (s.ctr (s.posOf t.core) id).toNat then s.retire t c
    else s.block t c .blockedCounter { WaitRec.idle with counter := id, threshold := low32 (c.reg rb) }) s)
/-- WAIT.TEST (R206). -/
def execWaitTest (t : Thr) (pd : Prd) (ra rb : Reg) (imm : W16) (s : State) : Outc :=
  .next (ctrOp t ra imm [rb] true (fun c id s =>
    s.retire t (c.writePrd pd (decide (low32 (c.reg rb) ≤ (s.ctr (s.posOf t.core) id).toNat)))) s)
/-- GIVE.C: a release (R160, R205, R206); a carry leaves the counter unchanged and faults. On a PUB_CTR it asks for publications (R508). -/
def execGiveC (t : Thr) (ra rb : Reg) (imm : W16) (s : State) : Outc :=
  .next (ctrOp t ra imm [rb] false (fun c id s =>
    if !s.storesDone c.tid then s
    else match (s.retire t c).addCtr (s.posOf t.core) id (low32 (c.reg rb)) with
      | (true, u) => u.markPub (s.posOf t.core) id (s.ctr (s.posOf t.core) id).toNat (low32 (c.reg rb))
      | (false, _) => s.faultAt c E.argRange) s)
/-- READC: a snapshot that returns through the load return path (R206, R218). -/
def execReadc (t : Thr) (rd ra : Reg) (imm : W16) (s : State) : Outc :=
  .next (ctrOp t ra imm [] true (fun c id s =>
    s.retire t (c.await (.reg rd) (.value ((s.ctr (s.posOf t.core) id).setWidth 64)))) s)

/-! ### Tokens -/

/-- A TAKE or GIVE names a slot's first word (R233); `body` runs with the slot. -/
def slotOp (t : Thr) (ra : Reg) (imm : Imm) (body : Ctx → SlotAt → State → State) (s : State) : State :=
  s.issue t [ra] [] false fun c s =>
    match c.wordIndex ra imm with
    | none => s.faultAt c E.argRange
    | some i =>
      if !s.wordOk (s.posOf t.core) i then s.faultAt c E.argRange
      else match s.slotAt (s.posOf t.core) i with
        | none => s.faultAt c E.argRange
        | some a => if a.at_ = 0 then body c a s else s.faultAt c E.argRange

/-- TAKE of either state; the holder's own TAKE faults (R230, R233). -/
def takeOp (op : TokOp) (t : Thr) (ra : Reg) (imm : Imm) (tk : Ecc) (s : State) : State :=
  slotOp t ra imm (fun c a s => s.entryRead a.core tk fun s =>
    if (s.tok a).holder = some c.tid then s.faultAt c E.argFormat
    else s.tokenOp t c a op fun s => s.retire t c) s

/-- GIVE to either state, by the holder only; a release (R230, R233). -/
def giveOp (full : Bool) (t : Thr) (ra : Reg) (imm : Imm) (tk : Ecc) (s : State) : State :=
  slotOp t ra imm (fun c a s => s.entryRead a.core tk fun s =>
    if (s.tok a).holder ≠ some c.tid then s.faultAt c E.argFormat
    else if !s.storesDone c.tid then s
    else ((s.setTok a { (s.tok a) with full := full, holder := none }).retire t c).walkAll a) s

/-- TAKE.F (R206, R230). -/
def execTakeF (t : Thr) (ra : Reg) (imm : Imm) (tk : Ecc) (s : State) : Outc := .next (takeOp .takeF t ra imm tk s)
/-- TAKE.E (R206, R230). -/
def execTakeE (t : Thr) (ra : Reg) (imm : Imm) (tk : Ecc) (s : State) : Outc := .next (takeOp .takeE t ra imm tk s)
/-- GIVE.F (R206, R230). -/
def execGiveF (t : Thr) (ra : Reg) (imm : Imm) (tk : Ecc) (s : State) : Outc := .next (giveOp true t ra imm tk s)
/-- GIVE.E (R206, R230). -/
def execGiveE (t : Thr) (ra : Reg) (imm : Imm) (tk : Ecc) (s : State) : Outc := .next (giveOp false t ra imm tk s)

/-! ### Ordering, crossings, YIELD, system -/

/-- FENCE waits for the thread's stores and atomics; inside a crossing it has no effect (R212, R303). -/
def execFence (t : Thr) (s : State) : Outc :=
  .next (s.issue t [] [] true fun c s => if c.xing.isSome || s.storesDone c.tid then s.retire t c else s)

/-- A free entry for a thread crossing of a core: entries 0 to 5 of control core `core / 8` (R292). -/
def State.freeThreadEntry (s : State) (core : Nat) : Option Nat :=
  ((List.range 6).map fun i => 8 * (core / 8) + i).find? fun k => !s.xings.any fun e => e.1 == k

/-- XBEGIN: writes E_OK into rd and records the abort target, or takes the abort path at once when no entry is free
(R213, R214, R292). -/
def execXbegin (t : Thr) (rd : Reg) (imm : Imm) (s : State) : Outc :=
  .next (s.issue t [] [] false fun c s =>
    let target := c.pc + imm.setWidth 32
    match s.freeThreadEntry t.core with
    | none => s.xingFull.setCtxAt t { c.write rd (E.xingFull.setWidth 64) with pc := target }
    | some k =>
      (s.openXing k (s.newXing (.thread t.core c.tid) (s.posOf t.core) [] [] 1)).retire t { c.write rd 0 with xing := some { entry := k, rd := rd, target := target } })

/-- Applies the held stores of a thread crossing at their homes (R296). -/
def State.applyWrites (s : State) (pos : Nat) (ws : List (Nat × List Byte)) : State :=
  ws.foldl (fun s w => s.writeJob pos w.1 w.2) s

/-- XCOMMIT: validated and applied in one step, after the thread's earlier stores are performed (R296, R298, R301,
R306), unless its timeout has run out (R293). It waits while a first-write copy is due on a page it stores to (R355), or another crossing
holds such a page's entry. -/
def execXcommit (t : Thr) (rd : Reg) (s : State) : Outc :=
  .next (s.issue t [] [] true fun c s =>
    match c.xing with
    | none => s.faultAt c E.argFormat
    | some o => match s.xings.find? fun e => e.1 == o.entry with
      | none => s.faultAt c E.argFormat
      | some (_, x) =>
        let pos := s.posOf t.core
        let absent (w : Nat × List Byte) : Bool := match s.spanOf pos w.1 w.2.length true with
          | .absent _ => true
          | _ => false
        let copies (w : Nat × List Byte) : Bool := match s.spanOf pos w.1 w.2.length true with
          | .runs rs => rs.any fun r => s.needsCopy pos r.page || s.pageHeld pos r.page
          | _ => false
        if s.timedOut x then s.abortXing o.entry E.xingTimeout
        else if !s.storesDone c.tid then s
        else if s.xBarred o.entry x.reads x.wset then s.abortXing o.entry E.xingConflict
        else if (x.reads ++ x.wset).any s.entBad then s.abortXing o.entry E.uncorrectable
        else if x.writes.any absent then s.abortXing o.entry E.xingPage
        else if x.writes.any copies then s
        else
          let s := (s.landXing o.entry x).applyWrites pos x.writes
          s.retire t { c.write rd 0 with xing := none })

/-- YIELD notes its pipeline's other ready berths and is passed over until each has issued or can no longer (R216). -/
def execYield (t : Thr) (s : State) : Outc :=
  .next (s.issue t [] [] false fun c s =>
    let others := (s.readyBerths t.core (t.berth % 4)).filter fun b => b != t.berth
    let s := s.retire t c
    if others.isEmpty then s else s.updCore t.core fun k => { k with passes := k.passes ++ [{ berth := t.berth, set := others }] })

/-- The threads of a position that have not ended (R167). -/
def State.liveThreads (s : State) (pos : Nat) : List Nat :=
  s.threadsWhere pos (fun _ => true) ++
  (s.coresOf pos).flatMap fun k => (s.core k).berths.filterMap fun b => match b.2 with
    | .swappingIn tid => if (s.record tid).isSome then none else some tid
    | _ => none

/-- The ending form of YIELD: once the thread's stores are performed it ends and its berth empties; the job ends with its
last thread (R152, R216, R381). -/
def execYieldEnd (t : Thr) (s : State) : Outc :=
  .next (s.issue t [] [] false fun c s =>
    if !s.storesDone c.tid then s
    else
      let pos := s.posOf t.core
      let s := s.updCore t.core fun k => (k.setBerth t.berth .free).leaveSets t.berth
      let s := s.updJob pos fun j => { j with swap := tset SwapRec.empty c.tid SwapRec.empty j.swap }
      if (s.liveThreads pos).isEmpty then s.endJob pos .ended E.ok else s)

/-- NOP (R217). -/
def execNop (t : Thr) (s : State) : Outc := .next (s.issue t [] [] true fun c s => s.retire t c)

/-- The value RDSYS selects (R217). -/
def State.sysValue (s : State) (t : Thr) (c : Ctx) (sel : BitVec 4) : Option W64 :=
  let pos := s.posOf t.core
  match sel.toNat with
  | 0 => some (BitVec.ofNat 64 c.tid)
  | 1 => some (BitVec.ofNat 64 t.core)
  | 2 => some (BitVec.ofNat 64 s.aoc)
  | 3 => some (((s.job pos).streams.getD c.stream.toNat (0, 0)).1)
  | 4 => some (c.group.setWidth 64)
  | 5 => some (BitVec.ofNat 64 pos)
  | _ => none

/-- RDSYS returns through the load return path; a reserved selector faults (R217, R218). -/
def execRdsys (t : Thr) (rd : Reg) (sel : BitVec 4) (s : State) : Outc :=
  .next (s.issue t [] [] true fun c s =>
    match s.sysValue t c sel with
    | none => s.faultAt c E.argFormat
    | some v => s.retire t (c.await (.reg rd) (.value v)))

/-- PMOV (R217). -/
def execPmov (t : Thr) (ra : Reg) (s : State) : Outc :=
  .next (s.issue t [ra] [] true fun c s =>
    let left := c.out.filter fun o => match o.dest with
      | .prd _ => false
      | _ => true
    s.retire t { c with pred := (c.reg ra).setWidth 4, out := left })

/-- PRD (R217). -/
def execPrd (t : Thr) (rd : Reg) (s : State) : Outc :=
  .next (s.issue t [] [0, 1, 2, 3] true fun c s => s.retire t (c.write rd (c.pred.setWidth 64)))

/-- A word that is not defined is not executed: the thread faults with E_ARG_FORMAT (R187). A defined word spells
another command, and this one changes nothing. -/
def execIllegalInstruction (t : Thr) (w : W64) (s : State) : Outc :=
  .next (if legal w then s else s.issue t [] [] true fun c s => s.faultAt c E.argFormat)

end Sys2Proof.Machine
end

