-- ==== Sys2Proof/Machine/TillerInt.lean ====
section
/-! DEFINITION. Tiller classes 0x0 to 0x3: integer, compare, select, predicate and scalar FP32 (R192 to R194, R218). -/

namespace Sys2Proof.Machine

/-- RD = RA op second, available to the next instruction (R192, R218). -/
def intOp (f : W64 → W64 → W64) (t : Thr) (rd ra : Reg) (b : Src2) (s : State) : State :=
  s.issue t (ra :: src2Regs b) [] true fun c s => s.retire t (c.write rd (f (c.reg ra) (c.src2 b)))

/-- A shift: the amount is b[5:0], and the immediate form requires imm[37:6] zero (R192). -/
def shiftOp (f : W64 → Nat → W64) (t : Thr) (rd ra : Reg) (b : Src2) (s : State) : State :=
  s.issue t (ra :: src2Regs b) [] true fun c s =>
    if src2ShiftOk b then s.retire t (c.write rd (f (c.reg ra) ((c.src2 b).toNat % 64))) else s.faultAt c E.argFormat

/-- A result that returns through the load return path (R218). -/
def longOp (f : W64 → W64 → W64) (t : Thr) (rd ra : Reg) (b : Src2) (s : State) : State :=
  s.issue t (ra :: src2Regs b) [] true fun c s => s.retire t (c.await (.reg rd) (.value (f (c.reg ra) (c.src2 b))))

/-- High 64 bits of the unsigned product (R192). -/
def mulhu64 (a b : W64) : W64 := BitVec.ofNat 64 (a.toNat * b.toNat / 2 ^ 64)
/-- Unsigned quotient; all ones when b = 0 (R192). -/
def divu64 (a b : W64) : W64 := if b = 0 then BitVec.allOnes 64 else a / b
/-- Unsigned remainder; a when b = 0 (R192). -/
def remu64 (a b : W64) : W64 := if b = 0 then a else a % b
def smin64 (a b : W64) : W64 := if a.slt b then a else b
def smax64 (a b : W64) : W64 := if a.slt b then b else a
def umin64 (a b : W64) : W64 := if a.ult b then a else b
def umax64 (a b : W64) : W64 := if a.ult b then b else a

/-- ADD (R192). -/
def execAdd (t : Thr) (rd ra : Reg) (b : Src2) (s : State) : Outc := .next (intOp (fun x y => x + y) t rd ra b s)
/-- SUB (R192). -/
def execSub (t : Thr) (rd ra : Reg) (b : Src2) (s : State) : Outc := .next (intOp (fun x y => x - y) t rd ra b s)
/-- MUL (R192, R218). -/
def execMul (t : Thr) (rd ra : Reg) (b : Src2) (s : State) : Outc := .next (longOp (fun x y => x * y) t rd ra b s)
/-- MULHU (R192, R218). -/
def execMulhu (t : Thr) (rd ra : Reg) (b : Src2) (s : State) : Outc := .next (longOp mulhu64 t rd ra b s)
/-- AND (R192). -/
def execAnd (t : Thr) (rd ra : Reg) (b : Src2) (s : State) : Outc := .next (intOp (fun x y => x &&& y) t rd ra b s)
/-- OR (R192). -/
def execOr (t : Thr) (rd ra : Reg) (b : Src2) (s : State) : Outc := .next (intOp (fun x y => x ||| y) t rd ra b s)
/-- XOR (R192). -/
def execXor (t : Thr) (rd ra : Reg) (b : Src2) (s : State) : Outc := .next (intOp (fun x y => x ^^^ y) t rd ra b s)
/-- SHL (R192). -/
def execShl (t : Thr) (rd ra : Reg) (b : Src2) (s : State) : Outc := .next (shiftOp (fun x n => x <<< n) t rd ra b s)
/-- SHR (R192). -/
def execShr (t : Thr) (rd ra : Reg) (b : Src2) (s : State) : Outc := .next (shiftOp (fun x n => x >>> n) t rd ra b s)
/-- SAR (R192). -/
def execSar (t : Thr) (rd ra : Reg) (b : Src2) (s : State) : Outc := .next (shiftOp (fun x n => x.sshiftRight n) t rd ra b s)
/-- MIN (R192). -/
def execMin (t : Thr) (rd ra : Reg) (b : Src2) (s : State) : Outc := .next (intOp smin64 t rd ra b s)
/-- MAX (R192). -/
def execMax (t : Thr) (rd ra : Reg) (b : Src2) (s : State) : Outc := .next (intOp smax64 t rd ra b s)
/-- MINU (R192). -/
def execMinu (t : Thr) (rd ra : Reg) (b : Src2) (s : State) : Outc := .next (intOp umin64 t rd ra b s)
/-- MAXU (R192). -/
def execMaxu (t : Thr) (rd ra : Reg) (b : Src2) (s : State) : Outc := .next (intOp umax64 t rd ra b s)
/-- DIVU (R192, R218). -/
def execDivu (t : Thr) (rd ra : Reg) (b : Src2) (s : State) : Outc := .next (longOp divu64 t rd ra b s)
/-- REMU (R192, R218). -/
def execRemu (t : Thr) (rd ra : Reg) (b : Src2) (s : State) : Outc := .next (longOp remu64 t rd ra b s)

/-- A compare writes predicate RD and no register (R193). -/
def cmpOp (f : W64 → W64 → Bool) (t : Thr) (pd : Prd) (ra rb : Reg) (s : State) : State :=
  s.issue t [ra, rb] [] true fun c s => s.retire t (c.writePrd pd (f (c.reg ra) (c.reg rb)))

/-- CMP.EQ (R193). -/
def execCmpEq (t : Thr) (pd : Prd) (ra rb : Reg) (s : State) : Outc := .next (cmpOp (fun x y => x == y) t pd ra rb s)
/-- CMP.NE (R193). -/
def execCmpNe (t : Thr) (pd : Prd) (ra rb : Reg) (s : State) : Outc := .next (cmpOp (fun x y => x != y) t pd ra rb s)
/-- CMP.LT (R193). -/
def execCmpLt (t : Thr) (pd : Prd) (ra rb : Reg) (s : State) : Outc := .next (cmpOp (fun x y => x.slt y) t pd ra rb s)
/-- CMP.LTU (R193). -/
def execCmpLtu (t : Thr) (pd : Prd) (ra rb : Reg) (s : State) : Outc := .next (cmpOp (fun x y => x.ult y) t pd ra rb s)
/-- CMP.GE (R193). -/
def execCmpGe (t : Thr) (pd : Prd) (ra rb : Reg) (s : State) : Outc := .next (cmpOp (fun x y => !x.slt y) t pd ra rb s)
/-- CMP.GEU (R193). -/
def execCmpGeu (t : Thr) (pd : Prd) (ra rb : Reg) (s : State) : Outc := .next (cmpOp (fun x y => !x.ult y) t pd ra rb s)

/-- SEL (R193). -/
def execSel (t : Thr) (rd ra rb : Reg) (p : Prd) (s : State) : Outc :=
  .next (s.issue t [ra, rb] [p] true fun c s => s.retire t (c.write rd (if c.prd p then c.reg ra else c.reg rb)))

/-- LIH: ra[31:0] below, IMM[31:0] above (R193). -/
def execLih (t : Thr) (rd ra : Reg) (imm : W32) (s : State) : Outc :=
  .next (s.issue t [ra] [] true fun c s => s.retire t (c.write rd (imm ++ (c.reg ra).setWidth 32)))

/-- A predicate operation (R193). -/
def prdOp (f : Bool → Bool → Bool) (t : Thr) (pd pa pb : Prd) (s : State) : State :=
  s.issue t [] [pa, pb] true fun c s => s.retire t (c.writePrd pd (f (c.prd pa) (c.prd pb)))

/-- PAND (R193). -/
def execPand (t : Thr) (pd pa pb : Prd) (s : State) : Outc := .next (prdOp (fun x y => x && y) t pd pa pb s)
/-- POR (R193). -/
def execPor (t : Thr) (pd pa pb : Prd) (s : State) : Outc := .next (prdOp (fun x y => x || y) t pd pa pb s)
/-- PNOT (R193). -/
def execPnot (t : Thr) (pd pa : Prd) (s : State) : Outc := .next (prdOp (fun x _ => !x) t pd pa pa s)

/-! ### Scalar FP32 -/

/-- The rounding mode of IMM[1:0]: SR and the reserved code fault (R194). -/
def scalarRnd (n : BitVec 2) : Option Rnd := if n = 0 then some .rne else if n = 1 then some .rtz else none

/-- A class 0x3 operation with a register result, which returns through the load return path (R194, R218). -/
def fpOp (srcs : List Reg) (f : Rnd → Ctx → W64) (t : Thr) (rd : Reg) (rnd : BitVec 2) (s : State) : State :=
  s.issue t srcs [] true fun c s =>
    match scalarRnd rnd with
    | none => s.faultAt c E.argFormat
    | some m => s.retire t (c.await (.reg rd) (.value (f m c)))

/-- FADD (R194). -/
def execFadd (t : Thr) (rd ra rb : Reg) (rnd : BitVec 2) (s : State) : Outc :=
  .next (fpOp [ra, rb] (fun m c => toF32 m ((f32 (c.reg ra)).add (f32 (c.reg rb)))) t rd rnd s)
/-- FSUB (R194). -/
def execFsub (t : Thr) (rd ra rb : Reg) (rnd : BitVec 2) (s : State) : Outc :=
  .next (fpOp [ra, rb] (fun m c => toF32 m ((f32 (c.reg ra)).sub (f32 (c.reg rb)))) t rd rnd s)
/-- FMUL (R194). -/
def execFmul (t : Thr) (rd ra rb : Reg) (rnd : BitVec 2) (s : State) : Outc :=
  .next (fpOp [ra, rb] (fun m c => toF32 m ((f32 (c.reg ra)).mul (f32 (c.reg rb)))) t rd rnd s)
/-- FFMA: a * b + rd, rounded once (R194). -/
def execFfma (t : Thr) (rd ra rb : Reg) (rnd : BitVec 2) (s : State) : Outc :=
  .next (fpOp [ra, rb, rd] (fun m c => toF32 m (((f32 (c.reg ra)).mul (f32 (c.reg rb))).add (f32 (c.reg rd)))) t rd rnd s)
/-- FDIV (R194). -/
def execFdiv (t : Thr) (rd ra rb : Reg) (rnd : BitVec 2) (s : State) : Outc :=
  .next (fpOp [ra, rb] (fun m c => toF32 m ((f32 (c.reg ra)).div (f32 (c.reg rb)))) t rd rnd s)
/-- FSQRT (R194). -/
def execFsqrt (t : Thr) (rd ra : Reg) (rnd : BitVec 2) (s : State) : Outc :=
  .next (fpOp [ra] (fun m c => toF32 m (f32 (c.reg ra)).sqrt) t rd rnd s)
/-- FMIN (R194). -/
def execFmin (t : Thr) (rd ra rb : Reg) (rnd : BitVec 2) (s : State) : Outc :=
  .next (fpOp [ra, rb] (fun m c => toF32 m ((f32 (c.reg ra)).fmin (f32 (c.reg rb)))) t rd rnd s)
/-- FMAX (R194). -/
def execFmax (t : Thr) (rd ra rb : Reg) (rnd : BitVec 2) (s : State) : Outc :=
  .next (fpOp [ra, rb] (fun m c => toF32 m ((f32 (c.reg ra)).fmax (f32 (c.reg rb)))) t rd rnd s)
/-- FCVT.FI (R194). -/
def execFcvtFi (t : Thr) (rd ra : Reg) (rnd : BitVec 2) (s : State) : Outc :=
  .next (fpOp [ra] (fun m c => intToF32 m (c.reg ra)) t rd rnd s)
/-- FCVT.IF (R194). -/
def execFcvtIf (t : Thr) (rd ra : Reg) (rnd : BitVec 2) (s : State) : Outc :=
  .next (fpOp [ra] (fun m c => f32ToInt m (f32 (c.reg ra))) t rd rnd s)

/-- FEQ, FLT, FLE write a predicate through the load return path; the rounding field is ignored (R156, R194). -/
def fcmpOp (f : Val → Val → Bool) (t : Thr) (pd : Prd) (ra rb : Reg) (s : State) : State :=
  s.issue t [ra, rb] [] true fun c s =>
    s.retire t (c.await (.prd pd) (.value (if f (f32 (c.reg ra)) (f32 (c.reg rb)) then 1 else 0)))

/-- FEQ (R194). -/
def execFeq (t : Thr) (pd : Prd) (ra rb : Reg) (s : State) : Outc := .next (fcmpOp feqV t pd ra rb s)
/-- FLT (R194). -/
def execFlt (t : Thr) (pd : Prd) (ra rb : Reg) (s : State) : Outc := .next (fcmpOp fltV t pd ra rb s)
/-- FLE (R194). -/
def execFle (t : Thr) (pd : Prd) (ra rb : Reg) (s : State) : Outc := .next (fcmpOp fleV t pd ra rb s)

end Sys2Proof.Machine
end

