-- ==== Sys2Proof/Machine/TillerMem.lean ====
section
/-! DEFINITION. Tiller classes 0x4, 0x5 and 0x9, the load return path and the performing of stores (R195 to R200,
R208 to R210, R355). -/

namespace Sys2Proof.Machine

/-- LDW (R195). -/
def execLdw (t : Thr) (rd ra : Reg) (imm : Imm) (s : State) : Outc :=
  .next (s.issue t [ra] [] true fun c s => s.wordLoad t c rd ra imm 1 false)
/-- LDWS (R195). -/
def execLdws (t : Thr) (rd ra : Reg) (imm : Imm) (s : State) : Outc :=
  .next (s.issue t [ra] [] true fun c s => s.wordLoad t c rd ra imm 1 true)
/-- LDD (R195). -/
def execLdd (t : Thr) (rd ra : Reg) (imm : Imm) (s : State) : Outc :=
  .next (s.issue t [ra] [] true fun c s => s.wordLoad t c rd ra imm 2 false)
/-- STW (R195). -/
def execStw (t : Thr) (ra rb : Reg) (imm : Imm) (s : State) : Outc :=
  .next (s.issue t [ra, rb] [] true fun c s => s.wordStore t c ra rb imm 1)
/-- STD (R195). -/
def execStd (t : Thr) (ra rb : Reg) (imm : Imm) (s : State) : Outc :=
  .next (s.issue t [ra, rb] [] true fun c s => s.wordStore t c ra rb imm 2)

/-- The slot of a token form, or the fault that stops it (R195, R233). -/
def State.tokenSlot (s : State) (t : Thr) (c : Ctx) (ra : Reg) (imm : Imm) : Option (Nat × SlotAt) :=
  match c.wordIndex ra imm with
  | none => none
  | some i => if s.wordOk (s.posOf t.core) i then (s.slotAt (s.posOf t.core) i).map fun a => (i, a) else none

/-- LDW.TK: the holder's acts as LDW; otherwise the word is read when the slot is FULL and free, after the thread's own
earlier stores to it (R209); the last word empties the slot, and that release waits for all its stores (R230, R231). -/
def execLdwTk (t : Thr) (rd ra : Reg) (imm : Imm) (tk : Ecc) (s : State) : Outc :=
  .next (s.issue t [ra] [] false fun c s =>
    match s.tokenSlot t c ra imm with
    | none => s.faultAt c E.argRange
    | some (i, a) => s.entryRead a.core tk fun s =>
      if (s.tok a).holder = some c.tid then s.load t c rd (wordAddr i) 4 false
      else if a.at_ + 1 = a.words && !s.storesDone c.tid then s
      else if s.storesTo c.tid (wordAddr i) 4 then s
      else if s.ms.poisoned (wordAddr i) 4 && (s.tok a).allows (.load i rd) then s.faultAt c E.uncorrectable
      else
        let v := BitVec.ofNat 32 (rdNat s.ms.mem (wordAddr i) 4)
        s.tokenOp t c a (.load i rd) fun s => s.retirePending t (c.await (.reg rd) (.tok i v)))

/-- STW.TK: the holder's acts as STW; otherwise the word is written when the slot is EMPTY and free, and the last word
fills it (R230, R231). -/
def execStwTk (t : Thr) (ra rb : Reg) (imm : Imm) (tk : Ecc) (s : State) : Outc :=
  .next (s.issue t [ra, rb] [] false fun c s =>
    match s.tokenSlot t c ra imm with
    | none => s.faultAt c E.argRange
    | some (i, a) => s.entryRead a.core tk fun s =>
      let v : W32 := (c.reg rb).setWidth 32
      if (s.tok a).holder = some c.tid then s.storeAt t c (wordAddr i) 4 (c.reg rb)
      else if a.at_ + 1 = a.words && !s.storesDone c.tid then s
      else if s.storesTo c.tid (wordAddr i) 4 then s
      else if s.rangeHeld (wordAddr i) 4 then s
      else s.tokenOp t c a (.store i v) fun s => (s.poke (wordAddr i) (leBytes 4 v.toNat)).retire t c)

/-- LD8U (R196). -/
def execLd8u (t : Thr) (rd ra : Reg) (imm : Imm) (s : State) : Outc :=
  .next (s.issue t [ra] [] true fun c s => s.byteLoad t c rd ra imm 1 false)
/-- LD16U (R196). -/
def execLd16u (t : Thr) (rd ra : Reg) (imm : Imm) (s : State) : Outc :=
  .next (s.issue t [ra] [] true fun c s => s.byteLoad t c rd ra imm 2 false)
/-- LD32U (R196). -/
def execLd32u (t : Thr) (rd ra : Reg) (imm : Imm) (s : State) : Outc :=
  .next (s.issue t [ra] [] true fun c s => s.byteLoad t c rd ra imm 4 false)
/-- LD64 (R196). -/
def execLd64 (t : Thr) (rd ra : Reg) (imm : Imm) (s : State) : Outc :=
  .next (s.issue t [ra] [] true fun c s => s.byteLoad t c rd ra imm 8 false)
/-- LD8S (R196). -/
def execLd8s (t : Thr) (rd ra : Reg) (imm : Imm) (s : State) : Outc :=
  .next (s.issue t [ra] [] true fun c s => s.byteLoad t c rd ra imm 1 true)
/-- LD16S (R196). -/
def execLd16s (t : Thr) (rd ra : Reg) (imm : Imm) (s : State) : Outc :=
  .next (s.issue t [ra] [] true fun c s => s.byteLoad t c rd ra imm 2 true)
/-- LD32S (R196). -/
def execLd32s (t : Thr) (rd ra : Reg) (imm : Imm) (s : State) : Outc :=
  .next (s.issue t [ra] [] true fun c s => s.byteLoad t c rd ra imm 4 true)
/-- ST8 (R196). -/
def execSt8 (t : Thr) (ra rb : Reg) (imm : Imm) (s : State) : Outc :=
  .next (s.issue t [ra, rb] [] true fun c s => s.byteStore t c ra rb imm 1)
/-- ST16 (R196). -/
def execSt16 (t : Thr) (ra rb : Reg) (imm : Imm) (s : State) : Outc :=
  .next (s.issue t [ra, rb] [] true fun c s => s.byteStore t c ra rb imm 2)
/-- ST32 (R196). -/
def execSt32 (t : Thr) (ra rb : Reg) (imm : Imm) (s : State) : Outc :=
  .next (s.issue t [ra, rb] [] true fun c s => s.byteStore t c ra rb imm 4)
/-- ST64 (R196). -/
def execSt64 (t : Thr) (ra rb : Reg) (imm : Imm) (s : State) : Outc :=
  .next (s.issue t [ra, rb] [] true fun c s => s.byteStore t c ra rb imm 8)

/-! ### Atomics -/

/-- An atomic issues: the context waits for the old value, which arrives when the atomic is performed at its home
(R208). With RL it waits until the thread's earlier accesses are performed. -/
def atomOp (op : Nat) (t : Thr) (rd ra rb : Reg) (f : AtomF) (s : State) : State :=
  s.issue t ([ra, rb] ++ if op = 9 then [rd] else []) [] false fun c s =>
    let size := if f.wide then 8 else 4
    let va := c.atomAddr ra f
    if op = 10 ∧ f.wide then s.faultAt c E.argFormat
    else if va % size ≠ 0 then s.faultAt c E.argAlign
    else s.walked t.core va c fun s => match s.xlate (s.posOf t.core) va true with
      | .bad => s.faultAt c E.argRange
      | .absent k _ => s.pageMiss t c k
      | .phys _ _ =>
        if f.rel && !s.storesDone c.tid then s
        else
          let n := s.ms.serial
          (s.pushStore c t.core (.atomic op (c.reg rd)) [(va, size, c.reg rb)]).retirePending t (c.await (.reg rd) (.atomic n))

/-- AADD (R208). -/
def execAadd (t : Thr) (rd ra rb : Reg) (f : AtomF) (s : State) : Outc := .next (atomOp 0 t rd ra rb f s)
/-- AAND (R208). -/
def execAand (t : Thr) (rd ra rb : Reg) (f : AtomF) (s : State) : Outc := .next (atomOp 1 t rd ra rb f s)
/-- AOR (R208). -/
def execAor (t : Thr) (rd ra rb : Reg) (f : AtomF) (s : State) : Outc := .next (atomOp 2 t rd ra rb f s)
/-- AXOR (R208). -/
def execAxor (t : Thr) (rd ra rb : Reg) (f : AtomF) (s : State) : Outc := .next (atomOp 3 t rd ra rb f s)
/-- AMIN (R208). -/
def execAmin (t : Thr) (rd ra rb : Reg) (f : AtomF) (s : State) : Outc := .next (atomOp 4 t rd ra rb f s)
/-- AMAX (R208). -/
def execAmax (t : Thr) (rd ra rb : Reg) (f : AtomF) (s : State) : Outc := .next (atomOp 5 t rd ra rb f s)
/-- AMINU (R208). -/
def execAminu (t : Thr) (rd ra rb : Reg) (f : AtomF) (s : State) : Outc := .next (atomOp 6 t rd ra rb f s)
/-- AMAXU (R208). -/
def execAmaxu (t : Thr) (rd ra rb : Reg) (f : AtomF) (s : State) : Outc := .next (atomOp 7 t rd ra rb f s)
/-- ASWAP (R208). -/
def execAswap (t : Thr) (rd ra rb : Reg) (f : AtomF) (s : State) : Outc := .next (atomOp 8 t rd ra rb f s)
/-- ACAS (R208). -/
def execAcas (t : Thr) (rd ra rb : Reg) (f : AtomF) (s : State) : Outc := .next (atomOp 9 t rd ra rb f s)
/-- AFADD (R208). -/
def execAfadd (t : Thr) (rd ra rb : Reg) (f : AtomF) (s : State) : Outc := .next (atomOp 10 t rd ra rb f s)

/-- A number of `8 * size` bits read as signed (R208). -/
def signedOf (size n : Nat) : Int := if 2 ^ (8 * size - 1) ≤ n then (n : Int) - 2 ^ (8 * size) else n

/-- The value an atomic leaves at its location (R208). -/
def atomicNew (op size : Nat) (old b cmp : Nat) : Nat :=
  let w := 2 ^ (8 * size)
  match op with
  | 0 => (old + b) % w
  | 1 => old &&& b
  | 2 => old ||| b
  | 3 => old ^^^ b
  | 4 => if signedOf size b < signedOf size old then b else old
  | 5 => if signedOf size old < signedOf size b then b else old
  | 6 => Nat.min old b
  | 7 => Nat.max old b
  | 8 => b
  | 9 => if old = cmp then b else old
  | _ => (toF32 .rne ((f32 (BitVec.ofNat 64 old)).add (f32 (BitVec.ofNat 64 b)))).toNat

/-! ### The load return path -/

/-- Results leave the list; the context is RUNNABLE again unless data it waits for is still on its way (R157). -/
def Ctx.receive (c : Ctx) (left : List Outst) : Ctx :=
  let waits := left.any fun o => match o.src with
    | .value _ => false
    | _ => true
  { c with out := left, status := if c.status = .pending ∧ ¬ waits then .runnable else c.status }

/-- A result is delivered. The first half of two word accesses waits for the other, and their register is written once (R198, R199). -/
def Ctx.deliver (c : Ctx) (o : Outst) (v : W64) : Ctx :=
  match o.dest with
  | .reg r => (c.receive (c.out.erase o)).setReg r v
  | .prd p => (c.receive (c.out.erase o)).setPrd p (v != 0)
  | .half r high =>
    match c.out.find? fun q => q.dest == .half r (!high) with
    | none => c.receive (c.out.erase o)
    | some q => match q.src with
      | .arrived w => (c.receive ((c.out.erase o).erase q)).setReg r (if high then v <<< 32 ||| w else w <<< 32 ||| v)
      | _ => { c with out := updWhere (fun x => x == o) (fun x => { x with src := .arrived v }) c.out }

/-- The thread's own stores that are not yet performed lie over the bytes read (R209); a crossing's own held writes lie
over everything (R295). -/
def State.overlay (s : State) (c : Ctx) (inX : Bool) (va : Nat) (bs : List Byte) : List Byte :=
  let put (bs : List Byte) (a : Nat) (data : List Byte) : List Byte :=
    ((List.range bs.length).map fun i => if within (va + i) 1 a data.length then data.getD (va + i - a) 0 else bs.getD i 0)
  let bs := s.ms.stores.foldl (fun bs p => if p.tid == c.tid && p.kind == .store then put bs p.va (leBytes p.size p.data.toNat) else bs) bs
  match inX, c.xing with
  | true, some x => match s.xings.find? fun e => e.1 == x.entry with
    | some (_, e) => e.writes.foldl (fun bs w => put bs w.1 w.2) bs
    | none => bs
  | _, _ => bs

/-- The bytes of a load that the thread's own stores cover whole need no memory. -/
def State.covered (s : State) (c : Ctx) (va n : Nat) : Bool :=
  (List.range n).all fun i => s.ms.stores.any fun p => p.tid == c.tid && p.kind == .store && within (va + i) 1 p.va p.size

/-- LOAD_RETURN: result `n` of the berth's list arrives (R157, R218), also while the context is being swapped out (R167). A load is
performed now, once no crossing is landing on its bytes (R296): an uncorrectable error faults the thread at the load's PC and writes no
register (R199); a page evicted meanwhile blocks it again (R197). -/
def execLoadReturn (t : Thr) (n : Nat) (ecc : Ecc) (s : State) : Outc :=
  .next (match s.ctxIn t with
  | none => s
  | some c => match c.out[n]? with
    | none => s
    | some o => match o.src with
      | .value v => s.setCtxIn t (c.deliver o v)
      | .arrived _ => s
      | .tok i v =>
        match s.checkRead (wordAddr i) 4 ecc with
        | (_, s) =>
          if ecc = .double then s.threadFault c.tid o.pc E.uncorrectable
          else s.setCtxIn t (c.deliver o (v.setWidth 64))
      | .atomic _ => s
      | .load va size signed =>
        match s.xlate (s.posOf t.core) va false with
        | .bad => s.threadFault c.tid o.pc E.argRange
        | .absent k _ => s.pageMiss t { c with pc := o.pc, out := c.out.erase o } k
        | .phys pa page =>
          if s.rangeLanding pa size then s
          else match (s.touch page).checkRead pa size ecc with
          | (ok, s) =>
            if !ok && !s.covered c va size then s.threadFault c.tid o.pc E.uncorrectable
            else
              let bs := s.overlay c o.inXing va (rdBytes s.ms.mem pa size)
              s.setCtxIn t (c.deliver o (extend size signed (leNat bs))))

/-! ### Performing stores -/

/-- No earlier access of the thread to overlapping bytes waits (R209). -/
def State.storeFirst (s : State) (n : Nat) (p : PStore) : Bool :=
  !((s.ms.stores.take n).any fun q => q.tid == p.tid && meet q.va q.size p.va p.size)

/-- STORE_PERFORM: access `n` of the waiting stores and atomics reaches its home (R197, R209, R210). It waits there for a
first-write copy (R355) and while a crossing holds the granule or its page's entry (R296, R299). A partial write of an uncorrectable word
or granule writes nothing and faults the thread (R237, R319). -/
def execStorePerform (n : Nat) (ecc : Ecc) (s : State) : Outc :=
  .next (match s.ms.stores[n]? with
  | none => s
  | some p =>
    if !s.storeFirst n p then s else
    let gone := s.updMs fun m => { m with stores := m.stores.eraseIdx n }
    match s.xlate p.pos p.va true with
    | .bad => gone
    | .absent k _ => s.faultIn p.pos k (shoreOf p.core) (256 * p.pos)
    | .phys pa page =>
      if s.rangeHeld pa p.size || s.pageHeld p.pos page || s.needsCopy p.pos page then
        s.updMs fun m => { m with stores := updWhere (fun q => q.serial == p.serial) (fun q => { q with held := s.rangeExclusive pa p.size }) m.stores }
      else
        let whole := p.kind == .store && isScratch pa && p.size == 4
        match (if whole then (true, gone) else gone.checkRead pa p.size ecc) with
        | (ok, s) =>
          if !ok then s.threadFault p.tid p.pc E.uncorrectable
          else
            let s := (s.dirty p.pos page p.va p.size).touch page
            match p.kind with
            | .store => s.poke pa (leBytes p.size p.data.toNat)
            | .atomic op cmp =>
              let old := rdNat s.ms.mem pa p.size
              let w := 2 ^ (8 * p.size)
              let new := atomicNew op p.size old (p.data.toNat % w) (cmp.toNat % w)
              let s := s.poke pa (leBytes p.size new)
              s.updThread p.tid fun c =>
                { c with out := updWhere (fun o => o.src == .atomic p.serial) (fun o => { o with src := .value (BitVec.ofNat 64 old) }) c.out })

end Sys2Proof.Machine
end

