-- ==== Sys2Proof/Machine/Dispatch.lean ====
section
/-! DEFINITION. One arm per command: a direct call of its meaning. -/

namespace Sys2Proof.Machine

def exec (i : Instr) (s : State) : Host.Outcome State Fault Refusal :=
  match i with
  -- Integer, classes 0x0 and 0x1 (R192)
  | .add t rd ra b => Sys2Proof.Machine.execAdd t rd ra b s
  | .sub t rd ra b => Sys2Proof.Machine.execSub t rd ra b s
  | .mul t rd ra b => Sys2Proof.Machine.execMul t rd ra b s
  | .mulhu t rd ra b => Sys2Proof.Machine.execMulhu t rd ra b s
  | .and t rd ra b => Sys2Proof.Machine.execAnd t rd ra b s
  | .or t rd ra b => Sys2Proof.Machine.execOr t rd ra b s
  | .xor t rd ra b => Sys2Proof.Machine.execXor t rd ra b s
  | .shl t rd ra b => Sys2Proof.Machine.execShl t rd ra b s
  | .shr t rd ra b => Sys2Proof.Machine.execShr t rd ra b s
  | .sar t rd ra b => Sys2Proof.Machine.execSar t rd ra b s
  | .min t rd ra b => Sys2Proof.Machine.execMin t rd ra b s
  | .max t rd ra b => Sys2Proof.Machine.execMax t rd ra b s
  | .minu t rd ra b => Sys2Proof.Machine.execMinu t rd ra b s
  | .maxu t rd ra b => Sys2Proof.Machine.execMaxu t rd ra b s
  | .divu t rd ra b => Sys2Proof.Machine.execDivu t rd ra b s
  | .remu t rd ra b => Sys2Proof.Machine.execRemu t rd ra b s
  -- Compare, select and predicate, class 0x2 (R193)
  | .cmpEq t pd ra rb => Sys2Proof.Machine.execCmpEq t pd ra rb s
  | .cmpNe t pd ra rb => Sys2Proof.Machine.execCmpNe t pd ra rb s
  | .cmpLt t pd ra rb => Sys2Proof.Machine.execCmpLt t pd ra rb s
  | .cmpLtu t pd ra rb => Sys2Proof.Machine.execCmpLtu t pd ra rb s
  | .cmpGe t pd ra rb => Sys2Proof.Machine.execCmpGe t pd ra rb s
  | .cmpGeu t pd ra rb => Sys2Proof.Machine.execCmpGeu t pd ra rb s
  | .sel t rd ra rb p => Sys2Proof.Machine.execSel t rd ra rb p s
  | .lih t rd ra imm => Sys2Proof.Machine.execLih t rd ra imm s
  | .pand t pd pa pb => Sys2Proof.Machine.execPand t pd pa pb s
  | .por t pd pa pb => Sys2Proof.Machine.execPor t pd pa pb s
  | .pnot t pd pa => Sys2Proof.Machine.execPnot t pd pa s
  -- Scalar FP32, class 0x3 (R194)
  | .fadd t rd ra rb rnd => Sys2Proof.Machine.execFadd t rd ra rb rnd s
  | .fsub t rd ra rb rnd => Sys2Proof.Machine.execFsub t rd ra rb rnd s
  | .fmul t rd ra rb rnd => Sys2Proof.Machine.execFmul t rd ra rb rnd s
  | .ffma t rd ra rb rnd => Sys2Proof.Machine.execFfma t rd ra rb rnd s
  | .fdiv t rd ra rb rnd => Sys2Proof.Machine.execFdiv t rd ra rb rnd s
  | .fsqrt t rd ra rnd => Sys2Proof.Machine.execFsqrt t rd ra rnd s
  | .fmin t rd ra rb rnd => Sys2Proof.Machine.execFmin t rd ra rb rnd s
  | .fmax t rd ra rb rnd => Sys2Proof.Machine.execFmax t rd ra rb rnd s
  | .fcvtFi t rd ra rnd => Sys2Proof.Machine.execFcvtFi t rd ra rnd s
  | .fcvtIf t rd ra rnd => Sys2Proof.Machine.execFcvtIf t rd ra rnd s
  | .feq t pd ra rb => Sys2Proof.Machine.execFeq t pd ra rb s
  | .flt t pd ra rb => Sys2Proof.Machine.execFlt t pd ra rb s
  | .fle t pd ra rb => Sys2Proof.Machine.execFle t pd ra rb s
  -- Scratchpad, class 0x4 (R195)
  | .ldw t rd ra imm => Sys2Proof.Machine.execLdw t rd ra imm s
  | .ldws t rd ra imm => Sys2Proof.Machine.execLdws t rd ra imm s
  | .ldd t rd ra imm => Sys2Proof.Machine.execLdd t rd ra imm s
  | .stw t ra rb imm => Sys2Proof.Machine.execStw t ra rb imm s
  | .std t ra rb imm => Sys2Proof.Machine.execStd t ra rb imm s
  | .ldwTk t rd ra imm tk => Sys2Proof.Machine.execLdwTk t rd ra imm tk s
  | .stwTk t ra rb imm tk => Sys2Proof.Machine.execStwTk t ra rb imm tk s
  -- Global, class 0x5 (R196)
  | .ld8u t rd ra imm => Sys2Proof.Machine.execLd8u t rd ra imm s
  | .ld16u t rd ra imm => Sys2Proof.Machine.execLd16u t rd ra imm s
  | .ld32u t rd ra imm => Sys2Proof.Machine.execLd32u t rd ra imm s
  | .ld64 t rd ra imm => Sys2Proof.Machine.execLd64 t rd ra imm s
  | .ld8s t rd ra imm => Sys2Proof.Machine.execLd8s t rd ra imm s
  | .ld16s t rd ra imm => Sys2Proof.Machine.execLd16s t rd ra imm s
  | .ld32s t rd ra imm => Sys2Proof.Machine.execLd32s t rd ra imm s
  | .st8 t ra rb imm => Sys2Proof.Machine.execSt8 t ra rb imm s
  | .st16 t ra rb imm => Sys2Proof.Machine.execSt16 t ra rb imm s
  | .st32 t ra rb imm => Sys2Proof.Machine.execSt32 t ra rb imm s
  | .st64 t ra rb imm => Sys2Proof.Machine.execSt64 t ra rb imm s
  -- Branches, class 0x6 (R202)
  | .br t imm => Sys2Proof.Machine.execBr t imm s
  | .brp t p sense imm => Sys2Proof.Machine.execBrp t p sense imm s
  | .brr t ra => Sys2Proof.Machine.execBrr t ra s
  | .call t rd imm => Sys2Proof.Machine.execCall t rd imm s
  -- ISSUE, class 0x7 (R203)
  | .issueR t ra => Sys2Proof.Machine.execIssueR t ra s
  | .issueM t ra imm => Sys2Proof.Machine.execIssueM t ra imm s
  -- Counters and tokens, class 0x8 (R206)
  | .wait t ra rb imm => Sys2Proof.Machine.execWait t ra rb imm s
  | .waitTest t pd ra rb imm => Sys2Proof.Machine.execWaitTest t pd ra rb imm s
  | .giveC t ra rb imm => Sys2Proof.Machine.execGiveC t ra rb imm s
  | .readc t rd ra imm => Sys2Proof.Machine.execReadc t rd ra imm s
  | .takeF t ra imm tk => Sys2Proof.Machine.execTakeF t ra imm tk s
  | .takeE t ra imm tk => Sys2Proof.Machine.execTakeE t ra imm tk s
  | .giveF t ra imm tk => Sys2Proof.Machine.execGiveF t ra imm tk s
  | .giveE t ra imm tk => Sys2Proof.Machine.execGiveE t ra imm tk s
  -- Atomics, class 0x9 (R208)
  | .aadd t rd ra rb f => Sys2Proof.Machine.execAadd t rd ra rb f s
  | .aand t rd ra rb f => Sys2Proof.Machine.execAand t rd ra rb f s
  | .aor t rd ra rb f => Sys2Proof.Machine.execAor t rd ra rb f s
  | .axor t rd ra rb f => Sys2Proof.Machine.execAxor t rd ra rb f s
  | .amin t rd ra rb f => Sys2Proof.Machine.execAmin t rd ra rb f s
  | .amax t rd ra rb f => Sys2Proof.Machine.execAmax t rd ra rb f s
  | .aminu t rd ra rb f => Sys2Proof.Machine.execAminu t rd ra rb f s
  | .amaxu t rd ra rb f => Sys2Proof.Machine.execAmaxu t rd ra rb f s
  | .aswap t rd ra rb f => Sys2Proof.Machine.execAswap t rd ra rb f s
  | .acas t rd ra rb f => Sys2Proof.Machine.execAcas t rd ra rb f s
  | .afadd t rd ra rb f => Sys2Proof.Machine.execAfadd t rd ra rb f s
  -- Ordering, crossings, YIELD and system (R212 to R217)
  | .fence t => Sys2Proof.Machine.execFence t s
  | .xbegin t rd imm => Sys2Proof.Machine.execXbegin t rd imm s
  | .xcommit t rd => Sys2Proof.Machine.execXcommit t rd s
  | .yield t => Sys2Proof.Machine.execYield t s
  | .yieldEnd t => Sys2Proof.Machine.execYieldEnd t s
  | .nop t => Sys2Proof.Machine.execNop t s
  | .rdsys t rd sel => Sys2Proof.Machine.execRdsys t rd sel s
  | .pmov t ra => Sys2Proof.Machine.execPmov t ra s
  | .prd t rd => Sys2Proof.Machine.execPrd t rd s
  | .illegalInstruction t w => Sys2Proof.Machine.execIllegalInstruction t w s
  -- Load return path, stores, lanes and engine choice
  | .loadReturn t n ecc => Sys2Proof.Machine.execLoadReturn t n ecc s
  | .storePerform n ecc => Sys2Proof.Machine.execStorePerform n ecc s
  | .prefetchLaneIssue core => Sys2Proof.Machine.execPrefetchLaneIssue core s
  | .engineChoose cls eng err => Sys2Proof.Machine.execEngineChoose cls eng err s
  | .sliceEnd cls eng overrun => Sys2Proof.Machine.execSliceEnd cls eng overrun s
  | .engineClockGate cls eng => Sys2Proof.Machine.execEngineClockGate cls eng s
  | .spanChoose pos => Sys2Proof.Machine.execSpanChoose pos s
  | .spanMm pos core r => Sys2Proof.Machine.execSpanMm pos core r s
  | .towlineBeat pos core beat => Sys2Proof.Machine.execTowlineBeat pos core beat s
  -- Per-core engines (chapter 9)
  | .vecMap core => Sys2Proof.Machine.execVecMap core s
  | .vecReduce core => Sys2Proof.Machine.execVecReduce core s
  | .vecNormFwd core => Sys2Proof.Machine.execVecNormFwd core s
  | .vecNormBwd core => Sys2Proof.Machine.execVecNormBwd core s
  | .vecSoftmaxFwd core => Sys2Proof.Machine.execVecSoftmaxFwd core s
  | .vecSoftmaxBwd core => Sys2Proof.Machine.execVecSoftmaxBwd core s
  | .vecOpt core => Sys2Proof.Machine.execVecOpt core s
  | .keelExp core => Sys2Proof.Machine.execKeelExp core s
  | .keelExpmax core => Sys2Proof.Machine.execKeelExpmax core s
  | .keelEncode core => Sys2Proof.Machine.execKeelEncode core s
  | .keelAdd core => Sys2Proof.Machine.execKeelAdd core s
  | .keelDecode core => Sys2Proof.Machine.execKeelDecode core s
  | .layCopy core => Sys2Proof.Machine.execLayCopy core s
  | .layFill core => Sys2Proof.Machine.execLayFill core s
  | .gatherBag core => Sys2Proof.Machine.execGatherBag core s
  | .gatherRows core => Sys2Proof.Machine.execGatherRows core s
  | .scatterRows core => Sys2Proof.Machine.execScatterRows core s
  | .combineDup core => Sys2Proof.Machine.execCombineDup core s
  | .rndFill core => Sys2Proof.Machine.execRndFill core s
  | .rndMask core => Sys2Proof.Machine.execRndMask core s
  | .rndCtrSet core => Sys2Proof.Machine.execRndCtrSet core s
  | .rndCtrRead core => Sys2Proof.Machine.execRndCtrRead core s
  -- Shared engines: firmware-issued descriptors with their auxiliary record (R248, R281, R283)
  | .compPage eng desc aux => Sys2Proof.Machine.execCompPage eng desc aux s
  | .decompPage eng desc aux => Sys2Proof.Machine.execDecompPage eng desc aux s
  | .moorCopy eng desc aux => Sys2Proof.Machine.execMoorCopy eng desc aux s
  | .moorVersion eng desc aux => Sys2Proof.Machine.execMoorVersion eng desc aux s
  | .moorDigest eng desc aux => Sys2Proof.Machine.execMoorDigest eng desc aux s
  | .moorSha512 eng desc aux => Sys2Proof.Machine.execMoorSha512 eng desc aux s
  -- Azlink port engines (R438, R447)
  | .azWinOpen eng => Sys2Proof.Machine.execAzWinOpen eng s
  | .azWinClose eng => Sys2Proof.Machine.execAzWinClose eng s
  | .azPut eng => Sys2Proof.Machine.execAzPut eng s
  | .azGet eng => Sys2Proof.Machine.execAzGet eng s
  | .azRingOpen eng => Sys2Proof.Machine.execAzRingOpen eng s
  | .azRingClose eng => Sys2Proof.Machine.execAzRingClose eng s
  | .azReduce eng => Sys2Proof.Machine.execAzReduce eng s
  -- Swap, cores and PLLs
  | .swapIn core => Sys2Proof.Machine.execSwapIn core s
  | .swapInComplete core berth ecc => Sys2Proof.Machine.execSwapInComplete core berth ecc s
  | .eviction core => Sys2Proof.Machine.execEviction core s
  | .evictionComplete core berth => Sys2Proof.Machine.execEvictionComplete core berth s
  | .rotation core => Sys2Proof.Machine.execRotation core s
  | .stallLimit pos => Sys2Proof.Machine.execStallLimit pos s
  | .coreSleep core => Sys2Proof.Machine.execCoreSleep core s
  | .coreDeep core => Sys2Proof.Machine.execCoreDeep core s
  | .coreWake core => Sys2Proof.Machine.execCoreWake core s
  | .pllLockTimeout core => Sys2Proof.Machine.execPllLockTimeout core s
  -- Flash tier, residency, scrubbing, bridge
  | .faultInComplete pos page r => Sys2Proof.Machine.execFaultInComplete pos page r s
  | .gatherFlashReadComplete core unit r => Sys2Proof.Machine.execGatherFlashReadComplete core unit r s
  | .evictSweep pos stack => Sys2Proof.Machine.execEvictSweep pos stack s
  | .writeBack pos page unit => Sys2Proof.Machine.execWriteBack pos page unit s
  | .writeBackAck pos page unit programOk => Sys2Proof.Machine.execWriteBackAck pos page unit programOk s
  | .pageAgeTick => Sys2Proof.Machine.execPageAgeTick s
  | .compressionFallback page => Sys2Proof.Machine.execCompressionFallback page s
  | .blockRelocation block => Sys2Proof.Machine.execBlockRelocation block s
  | .wearLevelMove src dst => Sys2Proof.Machine.execWearLevelMove src dst s
  | .mapCheckpoint => Sys2Proof.Machine.execMapCheckpoint s
  | .scrubWord core bank idx ecc => Sys2Proof.Machine.execScrubWord core bank idx ecc s
  | .dramPatrolScrub granule ecc => Sys2Proof.Machine.execDramPatrolScrub granule ecc s
  | .rowMapOut pos failing => Sys2Proof.Machine.execRowMapOut pos failing s
  | .bridgeUnitReceive toShore crcOk => Sys2Proof.Machine.execBridgeUnitReceive toShore crcOk s
  -- Crossings, epochs, moorings, restore, job end
  | .crossingCommit entry err => Sys2Proof.Machine.execCrossingCommit entry err s
  | .crossingTimeout entry => Sys2Proof.Machine.execCrossingTimeout entry s
  | .stepCommit => Sys2Proof.Machine.execStepCommit s
  | .stepCommitLand err => Sys2Proof.Machine.execStepCommitLand err s
  | .tideEvaluate => Sys2Proof.Machine.execTideEvaluate s
  | .moorStaging ecc => Sys2Proof.Machine.execMoorStaging ecc s
  | .moorWriting ok => Sys2Proof.Machine.execMoorWriting ok s
  | .moored ok => Sys2Proof.Machine.execMoored ok s
  | .restoreLoadVerify ok => Sys2Proof.Machine.execRestoreLoadVerify ok s
  | .restoreCompare reply ecc => Sys2Proof.Machine.execRestoreCompare reply ecc s
  | .jobEnding pos => Sys2Proof.Machine.execJobEnding pos s
  | .jobEndDone pos => Sys2Proof.Machine.execJobEndDone pos s
  -- Azlink packets (chapters 14, 15)
  | .winWrite link f err => Sys2Proof.Machine.execWinWrite link f err s
  | .winRead link f => Sys2Proof.Machine.execWinRead link f s
  | .winReadResp link f => Sys2Proof.Machine.execWinReadResp link f s
  | .keelExpData link f => Sys2Proof.Machine.execKeelExpData link f s
  | .keelLanes link f ecc bad => Sys2Proof.Machine.execKeelLanes link f ecc bad s
  | .fpRing link f => Sys2Proof.Machine.execFpRing link f s
  | .noticeForm link f => Sys2Proof.Machine.execNoticeForm link f s
  | .noticeReady link f => Sys2Proof.Machine.execNoticeReady link f s
  | .noticeAccept link f => Sys2Proof.Machine.execNoticeAccept link f s
  | .noticeRetry link f => Sys2Proof.Machine.execNoticeRetry link f s
  | .noticeResend link f => Sys2Proof.Machine.execNoticeResend link f s
  | .noticeVerified link f => Sys2Proof.Machine.execNoticeVerified link f s
  | .noticeFail link f => Sys2Proof.Machine.execNoticeFail link f s
  | .noticeSettle link f => Sys2Proof.Machine.execNoticeSettle link f s
  | .noticeSettled link f => Sys2Proof.Machine.execNoticeSettled link f s
  | .noticeLeave link f => Sys2Proof.Machine.execNoticeLeave link f s
  | .join link f => Sys2Proof.Machine.execJoin link f s
  | .view link f => Sys2Proof.Machine.execView link f s
  | .heartbeat link f => Sys2Proof.Machine.execHeartbeat link f s
  | .loss link f => Sys2Proof.Machine.execLoss link f s
  | .refuse link f => Sys2Proof.Machine.execRefuse link f s
  | .ack link f => Sys2Proof.Machine.execAck link f s
  | .linkCredit link f bad => Sys2Proof.Machine.execLinkCredit link f bad s
  | .hello link f => Sys2Proof.Machine.execHello link f s
  | .creditReq link f err => Sys2Proof.Machine.execCreditReq link f err s
  | .nack link f => Sys2Proof.Machine.execNack link f s
  | .pfcFrame link enable times => Sys2Proof.Machine.execPfcFrame link enable times s
  -- Azlink timers and links
  | .resendTimeout peer vc => Sys2Proof.Machine.execResendTimeout peer vc s
  | .peerTimeout peer => Sys2Proof.Machine.execPeerTimeout peer s
  | .ackTimer peer vc => Sys2Proof.Machine.execAckTimer peer vc s
  | .creditWait peer vc => Sys2Proof.Machine.execCreditWait peer vc s
  | .helloSend link => Sys2Proof.Machine.execHelloSend link s
  | .joinSend => Sys2Proof.Machine.execJoinSend s
  | .heartbeatSend => Sys2Proof.Machine.execHeartbeatSend s
  | .hbTimeout peer => Sys2Proof.Machine.execHbTimeout peer s
  | .viewPublish => Sys2Proof.Machine.execViewPublish s
  | .fleetOfOne => Sys2Proof.Machine.execFleetOfOne s
  | .linkDown link cause => Sys2Proof.Machine.execLinkDown link cause s
  | .linkUp link => Sys2Proof.Machine.execLinkUp link s
  | .ringFormTimeout ctx => Sys2Proof.Machine.execRingFormTimeout ctx s
  | .ringReformTimeout ctx => Sys2Proof.Machine.execRingReformTimeout ctx s
  | .bucketBrokenTimeout ctx bucket => Sys2Proof.Machine.execBucketBrokenTimeout ctx bucket s
  -- Landing and capsules (chapter 16): a capsule command runs the taken capsule of its port
  | .landingSealWrite port off data bad => Sys2Proof.Machine.execLandingSealWrite port off data bad s
  | .query port => Sys2Proof.Machine.execQuery port s
  | .evqSetup port => Sys2Proof.Machine.execEvqSetup port s
  | .credit port => Sys2Proof.Machine.execCredit port s
  | .jobLoad port => Sys2Proof.Machine.execJobLoad port s
  | .jobStart port => Sys2Proof.Machine.execJobStart port s
  | .jobStartPinsDone pos ok => Sys2Proof.Machine.execJobStartPinsDone pos ok s
  | .jobStop port => Sys2Proof.Machine.execJobStop port s
  | .feedOpen port => Sys2Proof.Machine.execFeedOpen port s
  | .feedClose port => Sys2Proof.Machine.execFeedClose port s
  | .resultRead port => Sys2Proof.Machine.execResultRead port s
  | .resultRelease port => Sys2Proof.Machine.execResultRelease port s
  | .xingBegin port => Sys2Proof.Machine.execXingBegin port s
  | .xingCommit port => Sys2Proof.Machine.execXingCommit port s
  | .xingAbort port => Sys2Proof.Machine.execXingAbort port s
  | .settingsSet port => Sys2Proof.Machine.execSettingsSet port s
  | .settingsStore port => Sys2Proof.Machine.execSettingsStore port s
  | .moorNow port => Sys2Proof.Machine.execMoorNow port s
  | .restore port => Sys2Proof.Machine.execRestore port s
  | .imageStage port => Sys2Proof.Machine.execImageStage port s
  | .imageStageProgramDone port readBackOk => Sys2Proof.Machine.execImageStageProgramDone port readBackOk s
  | .attest port => Sys2Proof.Machine.execAttest port s
  | .cargoReadDone port prod data => Sys2Proof.Machine.execCargoReadDone port prod data s
  | .cargoTimeout port => Sys2Proof.Machine.execCargoTimeout port s
  -- Feeds, publication, events
  | .feedPull pos feed => Sys2Proof.Machine.execFeedPull pos feed s
  | .feedBlockDelivered pos feed data ok => Sys2Proof.Machine.execFeedBlockDelivered pos feed data ok s
  | .feedProdPoll pos feed prod ok => Sys2Proof.Machine.execFeedProdPoll pos feed prod ok s
  | .publish pos ch => Sys2Proof.Machine.execPublish pos ch s
  | .publishCopyDone pos ch => Sys2Proof.Machine.execPublishCopyDone pos ch s
  | .eventWrite port bad => Sys2Proof.Machine.execEventWrite port bad s
  | .evCredit port => Sys2Proof.Machine.execEvCredit port s
  | .msixSend port => Sys2Proof.Machine.execMsixSend port s
  | .bootstrapEventWrite port => Sys2Proof.Machine.execBootstrapEventWrite port s
  | .portReset port => Sys2Proof.Machine.execPortReset port s
  | .perstRelease port => Sys2Proof.Machine.execPerstRelease port s
  | .bootRespValidClear port value => Sys2Proof.Machine.execBootRespValidClear port value s
  | .snapValidClear port value => Sys2Proof.Machine.execSnapValidClear port value s
  | .cargoOpen port => Sys2Proof.Machine.execCargoOpen port s
  | .cargoClose port => Sys2Proof.Machine.execCargoClose port s
  | .registerWrite port off size value => Sys2Proof.Machine.execRegisterWrite port off size value s
  -- Boot and power (chapters 17, 18, 21)
  | .boot readA readB fail => Sys2Proof.Machine.execBoot readA readB fail s
  | .lifetimeStore => Sys2Proof.Machine.execLifetimeStore s
  | .standbyEnter => Sys2Proof.Machine.execStandbyEnter s
  | .standbyExit => Sys2Proof.Machine.execStandbyExit s
  | .alwaysOnResetRelease => Sys2Proof.Machine.execAlwaysOnResetRelease s
  | .pwrEnRise => Sys2Proof.Machine.execPwrEnRise s
  | .railsInRegulation => Sys2Proof.Machine.execRailsInRegulation s
  | .pwrEnFall => Sys2Proof.Machine.execPwrEnFall s
  | .powerDownWritebackLimit => Sys2Proof.Machine.execPowerDownWritebackLimit s
  | .powerEmergency overVoltage => Sys2Proof.Machine.execPowerEmergency overVoltage s
  | .railFault => Sys2Proof.Machine.execRailFault s
  | .thermalTrip dram => Sys2Proof.Machine.execThermalTrip dram s
  | .thermtripNExternal => Sys2Proof.Machine.execThermtripNExternal s
  | .vinLossOff => Sys2Proof.Machine.execVinLossOff s
  | .powerDutyEvaluate watts duty => Sys2Proof.Machine.execPowerDutyEvaluate watts duty s
  | .thermalDutyStep tLogic tDram0 tDram1 => Sys2Proof.Machine.execThermalDutyStep tLogic tDram0 tDram1 s
  -- SMBus (R614 to R616)
  | .status => Sys2Proof.Machine.execStatus s
  | .vin mv => Sys2Proof.Machine.execVin mv s
  | .iin value => Sys2Proof.Machine.execIin value s
  | .pin => Sys2Proof.Machine.execPin s
  | .tLogic => Sys2Proof.Machine.execTLogic s
  | .tDram0 => Sys2Proof.Machine.execTDram0 s
  | .tDram1 => Sys2Proof.Machine.execTDram1 s
  | .pcap write => Sys2Proof.Machine.execPcap write s
  | .duty => Sys2Proof.Machine.execDuty s
  | .energy => Sys2Proof.Machine.execEnergy s
  | .tide => Sys2Proof.Machine.execTide s
  | .prsnt => Sys2Proof.Machine.execPrsnt s
  | .alertResponse => Sys2Proof.Machine.execAlertResponse s
  -- Debug port (chapter 19)
  | .getChallenge => Sys2Proof.Machine.execGetChallenge s
  | .orderUnlock order => Sys2Proof.Machine.execOrderUnlock order s
  | .orderEnrol order => Sys2Proof.Machine.execOrderEnrol order s
  | .orderErase order => Sys2Proof.Machine.execOrderErase order s
  | .challengeExpiry => Sys2Proof.Machine.execChallengeExpiry s
  -- Interrupt unit and always-on timers (chapter 18)
  | .iuSrcWrite reg value => Sys2Proof.Machine.execIuSrcWrite reg value s
  | .iuPendingClear n value => Sys2Proof.Machine.execIuPendingClear n value s
  | .iuCoreClaim core => Sys2Proof.Machine.execIuCoreClaim core s
  | .iuCoreComplete core source => Sys2Proof.Machine.execIuCoreComplete core source s
  | .iuDoorbell core ring => Sys2Proof.Machine.execIuDoorbell core ring s
  | .iuDelivery => Sys2Proof.Machine.execIuDelivery s
  | .iuDeliveryLand core => Sys2Proof.Machine.execIuDeliveryLand core s
  | .aotCompareWrite k value => Sys2Proof.Machine.execAotCompareWrite k value s
  | .aotTimerFire k => Sys2Proof.Machine.execAotTimerFire k s
  | .controlDomainSleep => Sys2Proof.Machine.execControlDomainSleep s
  | .controlDomainWake parityOk => Sys2Proof.Machine.execControlDomainWake parityOk s
  -- Fatal causes, sensors, membership and background work
  | .bridgeLaneLost => Sys2Proof.Machine.execBridgeLaneLost s
  | .referenceClockLost => Sys2Proof.Machine.execReferenceClockLost s
  | .regulatorFault => Sys2Proof.Machine.execRegulatorFault s
  | .fatalMemoryError shore => Sys2Proof.Machine.execFatalMemoryError shore s
  | .controlCoreWatchdog core => Sys2Proof.Machine.execControlCoreWatchdog core s
  | .voltageDroopEvent => Sys2Proof.Machine.execVoltageDroopEvent s
  | .stackRefreshDoubled stack hot marginStep => Sys2Proof.Machine.execStackRefreshDoubled stack hot marginStep s
  | .tripCooldown => Sys2Proof.Machine.execTripCooldown s
  | .lossReachTimeout peer => Sys2Proof.Machine.execLossReachTimeout peer s
  | .blockErase block bad => Sys2Proof.Machine.execBlockErase block bad s

end Sys2Proof.Machine
end

