-- ==== Sys2Proof/WellFormed.lean ====
section
/-! DEFINITION. Well-formed commands: each operand names a unit the module has, and an instruction word is one that R187
lets execute. -/

namespace Sys2Proof

/-- An index below a count. -/
def below (n k : Nat) : Bool := decide (k < n)

/-- A berth of a core (R24, R166). -/
def Thr.wf (t : Thr) : Bool := below 64 t.core && below 768 t.berth

/-- 12 bytes of SPEC, a LENGTH of 13 bits (R415). -/
def Frame.wf (f : Frame) : Bool := f.pkt.spec.length == 12 && decide (f.pkt.payload.length < 8192)

/-- At most 7 read-retries (R329). -/
def FlashRead.wf (r : FlashRead) : Bool := decide (r.retries ≤ 7)

def PageRead.wf (r : PageRead) : Bool := decide (r.reads.length ≤ 4) && r.reads.all FlashRead.wf

/-- A source of the 512, or a threshold of the 8 control cores (R551, R552). -/
def IuReg.wf : IuReg → Bool
  | .src n => below 512 n
  | .threshold core => below 8 core

def BootFail.wf : BootFail → Bool
  | .none => true
  | .pll core => below 64 core
  | .bridge => true
  | .dram stack => below 2 stack
  | .map => true

/-- An engine instance of the module (R399). -/
def engineNamed (cls num : Nat) : Bool := Machine.Engine.all.any fun e => e.cls == cls && e.num == num

/-- The berth whose instruction a Tiller command is (R155). -/
def Instr.thr : Instr → Option Thr
  | .add t .. | .sub t .. | .mul t .. | .mulhu t .. | .and t .. | .or t .. | .xor t .. | .shl t .. | .shr t .. | .sar t ..
  | .min t .. | .max t .. | .minu t .. | .maxu t .. | .divu t .. | .remu t .. | .cmpEq t .. | .cmpNe t .. | .cmpLt t ..
  | .cmpLtu t .. | .cmpGe t .. | .cmpGeu t .. | .sel t .. | .lih t .. | .pand t .. | .por t .. | .pnot t .. | .fadd t ..
  | .fsub t .. | .fmul t .. | .ffma t .. | .fdiv t .. | .fsqrt t .. | .fmin t .. | .fmax t .. | .fcvtFi t .. | .fcvtIf t ..
  | .feq t .. | .flt t .. | .fle t .. | .ldw t .. | .ldws t .. | .ldd t .. | .stw t .. | .std t .. | .ldwTk t ..
  | .stwTk t .. | .ld8u t .. | .ld16u t .. | .ld32u t .. | .ld64 t .. | .ld8s t .. | .ld16s t .. | .ld32s t .. | .st8 t ..
  | .st16 t .. | .st32 t .. | .st64 t .. | .br t .. | .brp t .. | .brr t .. | .call t .. | .issueR t .. | .issueM t ..
  | .wait t .. | .waitTest t .. | .giveC t .. | .readc t .. | .takeF t .. | .takeE t .. | .giveF t .. | .giveE t ..
  | .aadd t .. | .aand t .. | .aor t .. | .axor t .. | .amin t .. | .amax t .. | .aminu t .. | .amaxu t .. | .aswap t ..
  | .acas t .. | .afadd t .. | .fence t | .xbegin t .. | .xcommit t .. | .yield t | .yieldEnd t | .nop t | .rdsys t ..
  | .pmov t .. | .prd t .. | .illegalInstruction t .. | .loadReturn t .. => some t
  | _ => none

/-- The units that an event, an engine command or a command of a port names exist. A Tiller command names its berth alone, and the
other commands name no unit. -/
def Instr.namesUnits : Instr → Bool
  | .prefetchLaneIssue lane => below 64 lane.core
  | .engineChoose cls eng .. | .sliceEnd cls eng .. | .engineClockGate cls eng => engineNamed cls eng
  | .spanChoose pos | .stallLimit pos | .jobEnding pos | .jobEndDone pos => below 2 pos
  | .restoreLoadVerify reads => reads.all fun r => r.2.wf
  | .jobStartPinsDone pos reads => below 2 pos && reads.all fun r => r.2.wf
  | .spanMm pos core .. | .towlineBeat pos core .. => below 2 pos && below 64 core
  | .vecMap core | .vecReduce core | .vecNormFwd core | .vecNormBwd core | .vecSoftmaxFwd core | .vecSoftmaxBwd core
  | .vecOpt core | .keelExp core | .keelExpmax core | .keelEncode core | .keelAdd core | .keelDecode core | .layCopy core
  | .layFill core | .gatherBag core | .gatherRows core | .scatterRows core | .combineDup core | .rndFill core | .rndMask core
  | .rndCtrSet core | .rndCtrRead core => below 64 core.num
  | .compPage eng desc aux | .decompPage eng desc aux => below 8 eng.num && desc.length == 64 && aux.length == 64
  | .moorCopy eng desc aux | .moorVersion eng desc aux | .moorDigest eng desc aux
  | .moorSha512 eng desc aux => below 4 eng.num && desc.length == 64 && aux.length == 64
  | .azWinOpen eng | .azWinClose eng | .azPut eng | .azGet eng | .azRingOpen eng | .azRingClose eng
  | .azReduce eng => below 16 eng.num
  | .swapIn core | .eviction core | .rotation core | .coreSleep core | .coreDeep core | .coreWake core
  | .pllLockTimeout core => below 64 core
  | .swapInComplete core berth .. | .evictionComplete core berth => below 64 core && below 768 berth
  | .faultInComplete pos _ r => below 2 pos && r.wf
  | .gatherFlashReadComplete core _ r => below 64 core && r.wf
  | .evictSweep pos stack => below 2 pos && below 2 stack
  | .writeBack pos _ unit | .writeBackAck pos _ unit .. => below 2 pos && below 4 unit
  | .blockRelocation block => below 0x80000 block.num
  | .blockErase block .. => below 0x80000 block
  | .wearLevelMove src dst => below 0x80000 src.num && below 0x80000 dst
  | .scrubWord core bank idx .. => below 64 core && below 64 bank && below 16640 idx
  | .dramPatrolScrub granule .. => below (Machine.dramEnd / 64) granule
  | .rowMapOut pos failing => below 2 pos && failing.all (below 32768)
  | .bridgeUnitReceive toShore .. => below 2 toShore
  | .crossingCommit entry .. | .crossingTimeout entry => below 64 entry
  | .winWrite link f .. | .winRead link f | .winReadResp link f | .keelExpData link f | .keelLanes link f .. | .fpRing link f
  | .noticeForm link f | .noticeReady link f | .noticeAccept link f | .noticeRetry link f | .noticeResend link f
  | .noticeVerified link f | .noticeFail link f | .noticeSettle link f | .noticeSettled link f | .noticeLeave link f
  | .join link f | .view link f | .heartbeat link f | .loss link f | .refuse link f | .ack link f | .linkCredit link f ..
  | .hello link f | .creditReq link f .. | .nack link f => below 64 link && f.wf
  | .pfcFrame link _ times => below 64 link && times.length == 8
  | .resendTimeout peer vc | .ackTimer peer vc | .creditWait peer vc => below 0x8000 peer && below 8 vc
  | .peerTimeout peer | .hbTimeout peer | .lossReachTimeout peer => below 0x8000 peer
  | .helloSend link | .linkDown link .. | .linkUp link => below 64 link
  | .ringFormTimeout ctx | .ringReformTimeout ctx => below 64 ctx
  | .bucketBrokenTimeout ctx bucket => below 64 ctx && below 0x10000 bucket
  | .landingSealWrite port off data .. => below 2 port && decide (off + data.length ≤ 262144)
  | .query port | .evqSetup port | .credit port | .jobLoad port | .jobStart port | .jobStop port | .feedOpen port
  | .feedClose port | .resultRead port | .resultRelease port | .xingBegin port | .xingCommit port | .xingAbort port
  | .settingsSet port | .settingsStore port | .moorNow port | .restore port | .imageStage port
  | .imageStageProgramDone port .. | .attest port | .cargoReadDone port .. | .cargoTimeout port | .eventWrite port ..
  | .evCredit port | .msixSend port | .bootstrapEventWrite port | .portReset port | .perstRelease port
  | .bootRespValidClear port .. | .snapValidClear port .. | .cargoOpen port | .cargoClose port => below 2 port
  | .feedPull pos feed | .feedBlockDelivered pos feed .. | .feedProdPoll pos feed .. => below 2 pos && below 8 feed
  | .publish pos ch | .publishCopyDone pos ch => below 2 pos && below 64 ch
  | .registerWrite port off size .. => below 2 port && (size == 4 || size == 8) && off % size == 0
  | .boot _ _ run => run.fail.wf && run.zeroing.all fun w => below 4096 w.1 && below 16640 w.2
  | .powerDutyEvaluate _ d => below 17 d
  | .iuSrcWrite reg .. => reg.wf
  | .iuPendingClear n .. => below 512 n
  | .iuCoreClaim core | .iuCoreComplete core .. | .iuDoorbell core .. | .iuDeliveryLand core
  | .controlCoreWatchdog core => below 8 core
  | .aotCompareWrite k .. | .aotTimerFire k => below 8 k
  | .fatalMemoryError shore => below 2 shore
  | .stackRefreshDoubled stack .. => below 2 stack
  | _ => true

/-- An ILLEGAL_INSTRUCTION carries a word that is not defined (R187). -/
def Instr.illegalOk : Instr → Bool
  | .illegalInstruction _ w => !Machine.legal w
  | _ => true

/-- The units a command names exist. -/
def Instr.unitsOk (i : Instr) : Bool := (i.thr.all fun t => t.wf) && i.namesUnits && i.illegalOk

/-- The fields of a Tiller command spell a word that executes (R187); other commands have no word. -/
def Instr.wordOk (i : Instr) : Bool :=
  match Machine.encodeFields i with
  | some f => Machine.legalFields f
  | none => true

/-- A well-formed command. -/
def Instr.wf (i : Instr) : Bool := i.unitsOk && i.wordOk

end Sys2Proof
end

