-- ==== Sys2Proof/Certificates/Slice0/Obligations.lean ====
section
/-! DEFINITION. What is claimed of the machine, for the provers. Helpers of the statements stand in Sys2Proof.Claim. -/

namespace Sys2Proof.Claim
end Sys2Proof.Claim

open Sys2Proof Sys2Proof.Machine Sys2Proof.Claim

/-! ### Tiller instructions (chapter 7) -/

/-- The berth `t` may issue an instruction that reads the registers `rs` and the predicates `ps`: its context is `c`, no source
awaits a result, and both the PC and the next one lie in the code region (R154 to R157, R189). -/
def Sys2Proof.Claim.Runs (s : State) (t : Thr) (c : Ctx) (rs : List Reg) (ps : List Prd) : Prop :=
  s.ready t = some c ∧ c.awaits rs ps = false ∧ c.pc.toNat + 1 < s.codeWords (s.posOf t.core)

/-- The context `c` stands in the berth with its PC advanced by 1 (R189). -/
def Sys2Proof.Claim.landed (s : State) (t : Thr) (c : Ctx) : State := s.setCtxAt t { c with pc := c.pc + 1 }

/-- The berth has issued and its instruction has retired with the context `c`; nothing else changes (R155, R189). -/
def Sys2Proof.Claim.retired (s : State) (t : Thr) (c : Ctx) : State := landed (s.noteIssue t) t c

/-- `c` with a result on its way to `d` (R156, R218). -/
def Sys2Proof.Claim.later (c : Ctx) (d : Dest) (v : W64) : Ctx := c.await d (.value v)

/-- The integer instructions of R192, by result: at once, or through the load return path (R218). -/
def Obligations.IntegerResults : Prop :=
  ∀ (s : State) (t : Thr) (c : Ctx) (rd ra : Reg) (b : Src2), Runs s t c (ra :: src2Regs b) [] →
    let x := c.reg ra
    let y := c.src2 b
    exec (.add t rd ra b) s = .next (retired s t (c.write rd (x + y))) ∧
    exec (.sub t rd ra b) s = .next (retired s t (c.write rd (x - y))) ∧
    exec (.mul t rd ra b) s = .next (retired s t (later c (.reg rd) (x * y))) ∧
    exec (.mulhu t rd ra b) s = .next (retired s t (later c (.reg rd) (BitVec.ofNat 64 (x.toNat * y.toNat / 2 ^ 64)))) ∧
    exec (.and t rd ra b) s = .next (retired s t (c.write rd (x &&& y))) ∧
    exec (.or t rd ra b) s = .next (retired s t (c.write rd (x ||| y))) ∧
    exec (.xor t rd ra b) s = .next (retired s t (c.write rd (x ^^^ y))) ∧
    exec (.min t rd ra b) s = .next (retired s t (c.write rd (if x.toInt < y.toInt then x else y))) ∧
    exec (.max t rd ra b) s = .next (retired s t (c.write rd (if x.toInt < y.toInt then y else x))) ∧
    exec (.minu t rd ra b) s = .next (retired s t (c.write rd (if x.toNat < y.toNat then x else y))) ∧
    exec (.maxu t rd ra b) s = .next (retired s t (c.write rd (if x.toNat < y.toNat then y else x))) ∧
    exec (.divu t rd ra b) s = .next (retired s t (later c (.reg rd)
      (if y = 0 then BitVec.allOnes 64 else BitVec.ofNat 64 (x.toNat / y.toNat)))) ∧
    exec (.remu t rd ra b) s = .next (retired s t (later c (.reg rd)
      (if y = 0 then x else BitVec.ofNat 64 (x.toNat % y.toNat)))) ∧
    ((∀ v, b = .imm v → v.toNat < 64) →
      exec (.shl t rd ra b) s = .next (retired s t (c.write rd (x <<< (y.toNat % 64)))) ∧
      exec (.shr t rd ra b) s = .next (retired s t (c.write rd (x >>> (y.toNat % 64)))) ∧
      exec (.sar t rd ra b) s = .next (retired s t (c.write rd (x.sshiftRight (y.toNat % 64)))))

/-- The compare, select and predicate operations of R193. -/
def Obligations.CompareSelectResults : Prop :=
  ∀ (s : State) (t : Thr) (c : Ctx),
    (∀ (pd : Prd) (ra rb : Reg), Runs s t c [ra, rb] [] →
      let x := c.reg ra
      let y := c.reg rb
      exec (.cmpEq t pd ra rb) s = .next (retired s t (c.writePrd pd (decide (x = y)))) ∧
      exec (.cmpNe t pd ra rb) s = .next (retired s t (c.writePrd pd (decide (x ≠ y)))) ∧
      exec (.cmpLt t pd ra rb) s = .next (retired s t (c.writePrd pd (decide (x.toInt < y.toInt)))) ∧
      exec (.cmpLtu t pd ra rb) s = .next (retired s t (c.writePrd pd (decide (x.toNat < y.toNat)))) ∧
      exec (.cmpGe t pd ra rb) s = .next (retired s t (c.writePrd pd (decide (y.toInt ≤ x.toInt)))) ∧
      exec (.cmpGeu t pd ra rb) s = .next (retired s t (c.writePrd pd (decide (y.toNat ≤ x.toNat))))) ∧
    (∀ (rd ra rb : Reg) (p : Prd), Runs s t c [ra, rb] [p] →
      exec (.sel t rd ra rb p) s = .next (retired s t (c.write rd (if c.prd p then c.reg ra else c.reg rb)))) ∧
    (∀ (rd ra : Reg) (imm : W32), Runs s t c [ra] [] →
      exec (.lih t rd ra imm) s =
        .next (retired s t (c.write rd (BitVec.ofNat 64 ((c.reg ra).toNat % 2 ^ 32 + imm.toNat * 2 ^ 32))))) ∧
    (∀ (pd pa pb : Prd), Runs s t c [] [pa, pb] →
      exec (.pand t pd pa pb) s = .next (retired s t (c.writePrd pd (c.prd pa && c.prd pb))) ∧
      exec (.por t pd pa pb) s = .next (retired s t (c.writePrd pd (c.prd pa || c.prd pb)))) ∧
    (∀ (pd pa : Prd), Runs s t c [] [pa, pa] → exec (.pnot t pd pa) s = .next (retired s t (c.writePrd pd (!c.prd pa))))

/-- The scalar FP32 operations of R194, in both rounding modes. -/
def Obligations.ScalarFpResults : Prop :=
  ∀ (s : State) (t : Thr) (c : Ctx) (rd ra rb : Reg) (rnd : BitVec 2) (m : Rnd),
    (rnd = 0 ∧ m = .rne ∨ rnd = 1 ∧ m = .rtz) → Runs s t c [ra, rb, rd] [] →
    let x := f32 (c.reg ra)
    let y := f32 (c.reg rb)
    let res (v : W64) := Host.Outcome.next (retired s t (later c (.reg rd) v))
    exec (.fadd t rd ra rb rnd) s = res (toF32 m (x.add y)) ∧
    exec (.fsub t rd ra rb rnd) s = res (toF32 m (x.sub y)) ∧
    exec (.fmul t rd ra rb rnd) s = res (toF32 m (x.mul y)) ∧
    exec (.ffma t rd ra rb rnd) s = res (toF32 m ((x.mul y).add (f32 (c.reg rd)))) ∧
    exec (.fdiv t rd ra rb rnd) s = res (toF32 m (x.div y)) ∧
    exec (.fsqrt t rd ra rnd) s = res (toF32 m x.sqrt) ∧
    exec (.fmin t rd ra rb rnd) s = res (toF32 m (x.fmin y)) ∧
    exec (.fmax t rd ra rb rnd) s = res (toF32 m (x.fmax y)) ∧
    exec (.fcvtFi t rd ra rnd) s = res (intToF32 m (c.reg ra)) ∧
    exec (.fcvtIf t rd ra rnd) s = res (f32ToInt m x) ∧
    ∀ (pd : Prd),
      let said (b : Bool) := Host.Outcome.next (retired s t (later c (.prd pd) (if b then 1 else 0)))
      exec (.feq t pd ra rb) s = said (feqV x y) ∧
      exec (.flt t pd ra rb) s = said (fltV x y) ∧
      exec (.fle t pd ra rb) s = said (fleV x y)

/-- The berth has issued and its core has translated the address, through its TLB or a walk (R325). -/
def Sys2Proof.Claim.walkedTo (s : State) (t : Thr) (va : Nat) : State := ((s.noteIssue t).tlbWalk t.core va).2

/-- A replica delivers the entries that a walk to the address reads (R319, R325). -/
def Sys2Proof.Claim.walkable (s : State) (t : Thr) (va : Nat) : Prop := ((s.noteIssue t).tlbWalk t.core va).1 = true

/-- A load of `size` bytes at the job address `va` has issued: the context is PENDING until it returns, 8 bytes of scratchpad as two
word accesses (R197, R198). -/
def Sys2Proof.Claim.loadIssued (s : State) (t : Thr) (c : Ctx) (rd : Reg) (va size : Nat) (signed : Bool) : State :=
  landed (walkedTo s t va) t { c.awaitLoad rd va size signed with status := .pending }

/-- The job address leads to memory that the access may reach (R196, R314). -/
def Sys2Proof.Claim.reaches (s : State) (t : Thr) (va : Nat) (write : Bool) : Prop :=
  ∃ pa pg, s.xlate (s.posOf t.core) va write = .phys pa pg

/-- The loads of R195 and R196 issue, outside a crossing, when their address is aligned and resident. -/
def Obligations.LoadsIssue : Prop :=
  ∀ (s : State) (t : Thr) (c : Ctx) (rd ra : Reg) (imm : Imm), Runs s t c [ra] [] → c.xing = none →
    (∀ i, c.wordIndex ra imm = some i → s.posOf (i / 2 ^ 20) = s.posOf t.core →
      exec (.ldw t rd ra imm) s = .next (loadIssued s t c rd (wordAddr i) 4 false) ∧
      exec (.ldws t rd ra imm) s = .next (loadIssued s t c rd (wordAddr i) 4 true) ∧
      (i % 2 = 0 → exec (.ldd t rd ra imm) s = .next (loadIssued s t c rd (wordAddr i) 8 false))) ∧
    (let va := c.byteAddr ra imm
     reaches s t va false → walkable s t va →
      exec (.ld8u t rd ra imm) s = .next (loadIssued s t c rd va 1 false) ∧
      exec (.ld8s t rd ra imm) s = .next (loadIssued s t c rd va 1 true) ∧
      (va % 2 = 0 → exec (.ld16u t rd ra imm) s = .next (loadIssued s t c rd va 2 false) ∧
        exec (.ld16s t rd ra imm) s = .next (loadIssued s t c rd va 2 true)) ∧
      (va % 4 = 0 → exec (.ld32u t rd ra imm) s = .next (loadIssued s t c rd va 4 false) ∧
        exec (.ld32s t rd ra imm) s = .next (loadIssued s t c rd va 4 true)) ∧
      (va % 8 = 0 → exec (.ld64 t rd ra imm) s = .next (loadIssued s t c rd va 8 false)))

/-- A store has retired: its accesses join the stores that wait to be performed (R197, R198). -/
def Sys2Proof.Claim.storeIssued (s : State) (t : Thr) (c : Ctx) (va size : Nat) (v : W64) : State :=
  landed ((walkedTo s t va).pushStore c t.core .store (storeParts va size v)) t c

/-- The stores of R195 and R196 retire, outside a crossing, when their address is aligned, writable and resident. -/
def Obligations.StoresRetire : Prop :=
  ∀ (s : State) (t : Thr) (c : Ctx) (ra rb : Reg) (imm : Imm), Runs s t c [ra, rb] [] → c.xing = none →
    (∀ i, c.wordIndex ra imm = some i → s.posOf (i / 2 ^ 20) = s.posOf t.core →
      exec (.stw t ra rb imm) s = .next (storeIssued s t c (wordAddr i) 4 (c.reg rb)) ∧
      (i % 2 = 0 → exec (.std t ra rb imm) s = .next (storeIssued s t c (wordAddr i) 8 (c.reg rb)))) ∧
    (let va := c.byteAddr ra imm
     reaches s t va true → walkable s t va →
      exec (.st8 t ra rb imm) s = .next (storeIssued s t c va 1 (c.reg rb)) ∧
      (va % 2 = 0 → exec (.st16 t ra rb imm) s = .next (storeIssued s t c va 2 (c.reg rb))) ∧
      (va % 4 = 0 → exec (.st32 t ra rb imm) s = .next (storeIssued s t c va 4 (c.reg rb))) ∧
      (va % 8 = 0 → exec (.st64 t ra rb imm) s = .next (storeIssued s t c va 8 (c.reg rb))))

/-- LOAD_RETURN: a fixed value is delivered, and a load is performed now, the thread's own stores lying over memory, once no crossing
lands on its bytes; a load that meets an uncorrectable error faults its thread at the load's PC (R157, R199, R209, R218, R296). -/
def Obligations.LoadReturns : Prop :=
  ∀ (s : State) (t : Thr) (c : Ctx) (n : Nat) (o : Outst), s.ctxIn t = some c → c.out[n]? = some o →
    (∀ v ecc, o.src = .value v → exec (.loadReturn t n ecc) s = .next (s.setCtxIn t (c.deliver o v))) ∧
    (∀ va size signed pa pg, o.src = .load va size signed → s.xlate (s.posOf t.core) va false = .phys pa pg →
      s.rangeLanding pa size = false →
      (s.ms.poisoned pa size = false → exec (.loadReturn t n .clean) s = .next ((s.touch pg).setCtxIn t
        (c.deliver o (extend size signed (leNat (s.overlay c o.inXing va (rdBytes s.ms.mem pa size))))))) ∧
      (s.ms.poisoned pa size = true → s.covered c va size = false →
        exec (.loadReturn t n .clean) s = .next ((s.touch pg).threadFault c.tid o.pc E.uncorrectable))) ∧
    (∀ i v, o.src = .tok i v → exec (.loadReturn t n .clean) s = .next (s.setCtxIn t (c.deliver o (v.setWidth 64))))

/-- STORE_PERFORM: a waiting store writes its bytes at its home and no others; an atomic leaves the value of R208 there and
its old value goes to the thread (R197, R208, R209). -/
def Sys2Proof.Claim.storesPerform : Prop :=
  ∀ (s : State) (n : Nat) (p : PStore) (pa : Nat) (pg : Option (Nat × Pte)), s.ms.stores[n]? = some p →
    s.storeFirst n p = true → s.xlate p.pos p.va true = .phys pa pg → s.needsCopy p.pos pg = false →
    s.rangeHeld pa p.size = false → s.pageHeld p.pos pg = false → s.ms.poisoned pa p.size = false →
    let gone := s.updMs fun m => { m with stores := m.stores.eraseIdx n }
    let home := (gone.dirty p.pos pg p.va p.size).touch pg
    (p.kind = .store → exec (.storePerform n .clean) s = .next (home.poke pa (leBytes p.size p.data.toNat))) ∧
    (∀ op cmp, p.kind = .atomic op cmp →
      let old := rdNat home.ms.mem pa p.size
      let new := atomicNew op p.size old (p.data.toNat % 2 ^ (8 * p.size)) (cmp.toNat % 2 ^ (8 * p.size))
      exec (.storePerform n .clean) s = .next ((home.poke pa (leBytes p.size new)).updThread p.tid fun c =>
        { c with out := updWhere (fun o => o.src == .atomic p.serial) (fun o => { o with src := .value (BitVec.ofNat 64 old) }) c.out }))

/-- A poke writes its bytes at its address and leaves every other byte of memory as it was. -/
def Sys2Proof.Claim.pokeWritesItsBytes : Prop :=
  ∀ (s : State) (pa : Nat) (bs : List Byte),
    rdBytes (s.poke pa bs).ms.mem pa bs.length = bs ∧
    ∀ a, (a < pa ∨ pa + bs.length ≤ a) → rd8 (s.poke pa bs).ms.mem a = rd8 s.ms.mem a

/-- Waiting stores and atomics write their own bytes at their homes and no others (R197, R208, R209). -/
def Obligations.StoresPerform : Prop := storesPerform ∧ pokeWritesItsBytes

/-- A branch of R202: to PC + imm inside the code region, or on to the next instruction when BRP's predicate differs from its
sense; CALL keeps the return address. -/
def Obligations.BranchesMovePc : Prop :=
  ∀ (s : State) (t : Thr) (c : Ctx),
    (∀ (imm : Imm) (pc : W32), Runs s t c [] [] → branchTarget c.pc imm (s.codeWords (s.posOf t.core)) = some pc →
      exec (.br t imm) s = .next ((s.noteIssue t).setCtxAt t { c with pc := pc }) ∧
      ∀ rd, exec (.call t rd imm) s =
        .next ((s.noteIssue t).setCtxAt t { c.write rd (BitVec.ofNat 64 (c.pc.toNat + 1)) with pc := pc })) ∧
    (∀ (p : Prd) (sense : Bool) (imm : Imm), Runs s t c [] [p] →
      (c.prd p ≠ sense → exec (.brp t p sense imm) s = .next (retired s t c)) ∧
      ∀ pc, c.prd p = sense → branchTarget c.pc imm (s.codeWords (s.posOf t.core)) = some pc →
        exec (.brp t p sense imm) s = .next ((s.noteIssue t).setCtxAt t { c with pc := pc })) ∧
    (∀ (ra : Reg), Runs s t c [ra] [] → (c.reg ra).toNat < 2 ^ 32 →
      (c.reg ra).toNat < s.codeWords (s.posOf t.core) →
      exec (.brr t ra) s = .next ((s.noteIssue t).setCtxAt t { c with pc := BitVec.ofNat 32 (c.reg ra).toNat }))

/-- The counter instructions of R206 on a counter of the job: WAIT retires when the threshold is reached and blocks otherwise,
WAIT.TEST says which, READC takes a snapshot, GIVE.C adds after the thread's stores are performed (a GIVE.C on a PUB_CTR asks for
publications, R508). -/
def Obligations.CounterInstructions : Prop :=
  ∀ (s : State) (t : Thr) (c : Ctx) (ra rb : Reg) (imm : W16), Runs s t c [ra, rb] [] →
    let pos := s.posOf t.core
    let id := c.ctrId ra imm
    let now := (s.ctr pos id).toNat
    let low := (c.reg rb).toNat % 2 ^ 32
    ctrOk pos id = true →
    (∀ pd, exec (.waitTest t pd ra rb imm) s = .next (retired s t (c.writePrd pd (decide (low ≤ now))))) ∧
    (∀ rd, exec (.readc t rd ra imm) s = .next (retired s t (later c (.reg rd) ((s.ctr pos id).setWidth 64)))) ∧
    (c.xing = none →
      (low ≤ now → exec (.wait t ra rb imm) s = .next (retired s t c)) ∧
      (now < low → exec (.wait t ra rb imm) s = .next ((s.noteIssue t).block t c .blockedCounter
        { WaitRec.idle with counter := id, threshold := low })) ∧
      (s.storesDone c.tid = true → now + low < 2 ^ 32 →
        exec (.giveC t ra rb imm) s = .next (((retired s t c).addCtr pos id low).2.markPub pos id now low)))

/-- The slot of a token form: a word of a ring, in the words of the job (R195, R228). -/
def Sys2Proof.Claim.tokenAt (s : State) (t : Thr) (c : Ctx) (ra : Reg) (imm : Imm) (i : Nat) (a : SlotAt) : Prop :=
  c.wordIndex ra imm = some i ∧ s.posOf (i / 2 ^ 20) = s.posOf t.core ∧ s.slotAt (s.posOf t.core) i = some a

/-- A TAKE that the token allows, and a GIVE by the holder, act on the token as R230 says and retire; then the token's waiters
are walked (R232). -/
def Obligations.TakeAndGive : Prop :=
  ∀ (s : State) (t : Thr) (c : Ctx) (ra : Reg) (imm : Imm) (i : Nat) (a : SlotAt), Runs s t c [ra] [] → c.xing = none →
    tokenAt s t c ra imm i a → a.at_ = 0 →
    let k := s.tok a
    let u := s.noteIssue t
    (k.holder = none → k.full = true →
      exec (.takeF t ra imm .clean) s = .next ((landed (u.setTok a { k with holder := some c.tid }) t c).walkAll a)) ∧
    (k.holder = none → k.full = false →
      exec (.takeE t ra imm .clean) s = .next ((landed (u.setTok a { k with holder := some c.tid }) t c).walkAll a)) ∧
    (k.holder = some c.tid → s.storesDone c.tid = true →
      exec (.giveF t ra imm .clean) s = .next ((landed (u.setTok a { k with full := true, holder := none }) t c).walkAll a) ∧
      exec (.giveE t ra imm .clean) s = .next ((landed (u.setTok a { k with full := false, holder := none }) t c).walkAll a))

/-- A waiter joins a token's queue, and its context blocks in BLOCKED_TOKEN on the slot (R163, R232). -/
def Sys2Proof.Claim.tokenWaits (s : State) (t : Thr) (c : Ctx) (a : SlotAt) (op : TokOp) : State :=
  (s.setTok a { s.tok a with waiters := (s.tok a).waiters ++ [{ tid := c.tid, op := op }] }).block t c .blockedToken
    { WaitRec.idle with object := wordAddr (a.core * 2 ^ 20 + a.first) }

/-- LDW.TK of the slot's holder issues as LDW; of a full free slot it reads its word, and the last word empties the slot; of any other
slot it waits in the token's queue (R230 to R232). A form that does not hold the slot comes after the thread's own stores to the word, and
the last word after all its stores (R209, R231). -/
def Sys2Proof.Claim.tokenLoads : Prop :=
  ∀ (s : State) (t : Thr) (c : Ctx) (rd ra : Reg) (imm : Imm) (i : Nat) (a : SlotAt), Runs s t c [ra] [] → c.xing = none →
    tokenAt s t c ra imm i a →
    let k := s.tok a
    (k.holder = some c.tid → exec (.ldwTk t rd ra imm .clean) s = .next (loadIssued s t c rd (wordAddr i) 4 false)) ∧
    (k.holder ≠ some c.tid → (a.at_ + 1 = a.words → s.storesDone c.tid = true) → s.storesTo c.tid (wordAddr i) 4 = false →
      (k.holder = none → k.full = true → s.ms.poisoned (wordAddr i) 4 = false →
        exec (.ldwTk t rd ra imm .clean) s = .next ((landed ((s.noteIssue t).setTok a
          (if i % 2 ^ 20 = a.first + a.words - 1 then { k with full := false } else k)) t
          { c.await (.reg rd) (.tok i (BitVec.ofNat 32 (rdNat s.ms.mem (wordAddr i) 4))) with status := .pending }).walkAll a)) ∧
      (¬(k.holder = none ∧ k.full = true) →
        exec (.ldwTk t rd ra imm .clean) s = .next (tokenWaits (s.noteIssue t) t c a (.load i rd))))

/-- STW.TK of the slot's holder retires as STW; into an empty free slot it writes its word, and the last word fills the slot; into any
other slot it waits in the token's queue (R230 to R232), after the same stores as LDW.TK. -/
def Sys2Proof.Claim.tokenStores : Prop :=
  ∀ (s : State) (t : Thr) (c : Ctx) (ra rb : Reg) (imm : Imm) (i : Nat) (a : SlotAt), Runs s t c [ra, rb] [] → c.xing = none →
    tokenAt s t c ra imm i a →
    let k := s.tok a
    let low : W32 := (c.reg rb).setWidth 32
    (k.holder = some c.tid → exec (.stwTk t ra rb imm .clean) s = .next (storeIssued s t c (wordAddr i) 4 (c.reg rb))) ∧
    (k.holder ≠ some c.tid → (a.at_ + 1 = a.words → s.storesDone c.tid = true) → s.storesTo c.tid (wordAddr i) 4 = false →
      s.rangeHeld (wordAddr i) 4 = false →
      (k.holder = none → k.full = false →
        exec (.stwTk t ra rb imm .clean) s = .next (((((s.noteIssue t).setTok a
          (if i % 2 ^ 20 = a.first + a.words - 1 then { k with full := true } else k)).poke (wordAddr i)
          (leBytes 4 low.toNat)).retire t c).walkAll a)) ∧
      (¬(k.holder = none ∧ k.full = false) →
        exec (.stwTk t ra rb imm .clean) s = .next (tokenWaits (s.noteIssue t) t c a (.store i low))))

/-- LDW.TK and STW.TK (R230 to R232). -/
def Obligations.TokenLoadStore : Prop := tokenLoads ∧ tokenStores

/-- An atomic at an aligned, writable and resident address joins the accesses that wait to be performed, and its context is
PENDING until the old value comes; with RL it issues once the thread's earlier accesses are performed. AFADD has no 64-bit form (R208). -/
def Sys2Proof.Claim.atomicsIssue : Prop :=
  ∀ (s : State) (t : Thr) (c : Ctx) (rd ra rb : Reg) (f : AtomF), Runs s t c [ra, rb, rd] [] → c.xing = none →
    let size := if f.wide then 8 else 4
    let va := c.atomAddr ra f
    va % size = 0 → reaches s t va true → walkable s t va → (f.rel = true → s.storesDone c.tid = true) →
    let issues (op : Nat) (o : Instr) : Prop := exec o s = .next (landed
      ((walkedTo s t va).pushStore c t.core (.atomic op (c.reg rd)) [(va, size, c.reg rb)]) t
      { c.await (.reg rd) (.atomic s.ms.serial) with status := .pending })
    issues 0 (.aadd t rd ra rb f) ∧ issues 1 (.aand t rd ra rb f) ∧ issues 2 (.aor t rd ra rb f) ∧ issues 3 (.axor t rd ra rb f) ∧
    issues 4 (.amin t rd ra rb f) ∧ issues 5 (.amax t rd ra rb f) ∧ issues 6 (.aminu t rd ra rb f) ∧ issues 7 (.amaxu t rd ra rb f) ∧
    issues 8 (.aswap t rd ra rb f) ∧ issues 9 (.acas t rd ra rb f) ∧ (f.wide = false → issues 10 (.afadd t rd ra rb f)) ∧
    (f.wide = true → exec (.afadd t rd ra rb f) s = .next ((s.noteIssue t).threadFault c.tid c.pc E.argFormat))

/-- What an atomic leaves at its location (R208): the sum, the logical results, the smaller or larger number, the new value,
the old value of a compare that fails, and the FP32 sum rounded to nearest even. -/
def Sys2Proof.Claim.atomicValues : Prop :=
  ∀ (size old b cmp : Nat), size = 4 ∨ size = 8 → old < 2 ^ (8 * size) → b < 2 ^ (8 * size) →
    let sgn (n : Nat) : Int := (BitVec.ofNat (8 * size) n).toInt
    atomicNew 0 size old b cmp = (old + b) % 2 ^ (8 * size) ∧
    atomicNew 1 size old b cmp = old &&& b ∧ atomicNew 2 size old b cmp = old ||| b ∧
    atomicNew 3 size old b cmp = old ^^^ b ∧
    atomicNew 4 size old b cmp = (if sgn b < sgn old then b else old) ∧
    atomicNew 5 size old b cmp = (if sgn old < sgn b then b else old) ∧
    atomicNew 6 size old b cmp = min old b ∧ atomicNew 7 size old b cmp = max old b ∧
    atomicNew 8 size old b cmp = b ∧ atomicNew 9 size old b cmp = (if old = cmp then b else old) ∧
    atomicNew 10 size old b cmp = (toF32 .rne ((f32 (BitVec.ofNat 64 old)).add (f32 (BitVec.ofNat 64 b)))).toNat

/-- Atomics issue, and leave the values of R208. -/
def Obligations.Atomics : Prop := atomicsIssue ∧ atomicValues

/-- FENCE, YIELD, NOP and the system reads of R212, R216 and R217. -/
def Obligations.SystemInstructions : Prop :=
  ∀ (s : State) (t : Thr) (c : Ctx), Runs s t c [] [] →
    exec (.nop t) s = .next (retired s t c) ∧
    (c.xing.isSome = true ∨ s.storesDone c.tid = true → exec (.fence t) s = .next (retired s t c)) ∧
    (∀ (rd : Reg) (sel : BitVec 4) (v : W64),
      (sel = 0 ∧ v = BitVec.ofNat 64 c.tid ∨ sel = 1 ∧ v = BitVec.ofNat 64 t.core ∨ sel = 2 ∧ v = BitVec.ofNat 64 s.aoc ∨
       sel = 3 ∧ v = ((s.job (s.posOf t.core)).streams.getD c.stream.toNat (0, 0)).1 ∨
       sel = 4 ∧ v = c.group.setWidth 64 ∨ sel = 5 ∧ v = BitVec.ofNat 64 (s.posOf t.core)) →
      exec (.rdsys t rd sel) s = .next (retired s t (later c (.reg rd) v))) ∧
    (∀ ra, Runs s t c [ra] [] → ∃ out, exec (.pmov t ra) s =
      .next (retired s t { c with pred := (c.reg ra).setWidth 4, out := out })) ∧
    (∀ rd, Runs s t c [] [0, 1, 2, 3] → exec (.prd t rd) s = .next (retired s t (c.write rd (c.pred.setWidth 64)))) ∧
    (c.xing = none →
      let u := s.noteIssue t
      let others := (u.core t.core).berths.filterMap fun b => match b.2 with
        | .resident x => if b.1 % 4 = t.berth % 4 ∧ b.1 ≠ t.berth ∧ u.ctxReady t.core x = true then some b.1 else none
        | _ => none
      (others = [] → exec (.yield t) s = .next (retired s t c)) ∧
      (others ≠ [] → exec (.yield t) s = .next ((retired s t c).updCore t.core fun k =>
        { k with passes := k.passes ++ [{ berth := t.berth, set := others }] }))) ∧
    (c.xing = none → s.storesDone c.tid = true →
      let gone := ((s.noteIssue t).updCore t.core fun k => (k.setBerth t.berth .free).leaveSets t.berth).updJob (s.posOf t.core)
        fun j => { j with swap := tset SwapRec.empty c.tid SwapRec.empty j.swap }
      (gone.liveThreads (s.posOf t.core) ≠ [] → exec (.yieldEnd t) s = .next gone) ∧
      (gone.liveThreads (s.posOf t.core) = [] → exec (.yieldEnd t) s = .next (gone.endJob (s.posOf t.core) .ended E.ok)))

/-- XBEGIN opens a crossing when an entry is free and takes the abort path with E_XING_FULL when none is; XCOMMIT of a crossing
that nothing stands against applies its held writes at once (R213, R214, R292, R296). -/
def Obligations.ThreadCrossings : Prop :=
  ∀ (s : State) (t : Thr) (c : Ctx) (rd : Reg), Runs s t c [] [] →
    (∀ (imm : Imm) (k : Nat), c.xing = none → s.freeThreadEntry t.core = some k → ∃ x : XEntry,
      x.opener = .thread t.core c.tid ∧ x.st = .opened ∧ x.reads = [] ∧ x.wset = [] ∧ x.writes = [] ∧ x.openedAt = s.aoc ∧
      x.timeout = s.xingTimeout ∧ x.exclusive = false ∧
      exec (.xbegin t rd imm) s = .next (landed ((s.noteIssue t).openXing k x) t
        { c.write rd 0 with xing := some { entry := k, rd := rd, target := c.pc + imm.setWidth 32 } })) ∧
    (∀ (imm : Imm), c.xing = none → s.freeThreadEntry t.core = none →
      exec (.xbegin t rd imm) s = .next (((s.noteIssue t).count 0x1090).setCtxAt t
        { c.write rd 0x505 with pc := c.pc + imm.setWidth 32 })) ∧
    (∀ (o : XOpen) (x : XEntry), c.xing = some o → s.xings.find? (fun e => e.1 == o.entry) = some (o.entry, x) →
      s.xings = [(o.entry, x)] → s.aoc < x.openedAt + x.timeout → s.storesDone c.tid = true →
      (∀ e ∈ x.reads ++ x.wset, s.entBad e = false) →
      (∀ w ∈ x.writes, ∃ rs, s.spanOf (s.posOf t.core) w.1 w.2.length true = .runs rs ∧
        ∀ r ∈ rs, s.needsCopy (s.posOf t.core) r.page = false ∧ s.pageHeld (s.posOf t.core) r.page = false) →
      let u := ({ s.noteIssue t with xings := [] } : State).count 0x1040
      exec (.xcommit t rd) s = .next ((u.applyWrites (s.posOf t.core) x.writes).retire t { c.write rd 0 with xing := none }))

/-- An ISSUE whose descriptor passes the port's checks and finds room hands it to the engine and retires, after the thread's
earlier stores; byte 2 of the descriptor becomes the thread's GROUP (R203 to R205). -/
def Obligations.IssueHandsOver : Prop :=
  ∀ (s v : State) (t : Thr) (c : Ctx) (ra : IssueRa), c.xing = none → s.storesDone c.tid = true →
    s.portWinner t.core (t.berth % 4) ra.port.rivals = t.berth % 4 →
    let given (u : State) (raw : List Byte) :=
      u.offer t.core (.thread c.tid t.berth c.pc) c.stream.toNat (patch raw 2 [c.group]) ra.port.finds
    let done := (v.updCore t.core fun k => { k with portLast := t.berth % 4 }).retire t c
    (let rs := (List.range 8).map fun i => ra.ra + BitVec.ofNat 6 i
     Runs s t c rs [] → ra.ra.toNat % 8 = 0 → ra.ra ≠ 0 → given (s.noteIssue t) (rs.flatMap fun r => leBytes 8 (c.reg r).toNat) = .ok v →
      exec (.issueR t ra) s = .next done) ∧
    (∀ (imm : Imm) (i : Nat), Runs s t c [ra.ra] [] → c.wordIndex ra.ra imm = some i → i % 16 = 0 → i / 2 ^ 20 = t.core →
      let read := (s.noteIssue t).readSees (s.posOf t.core) [(wordAddr i, 64)] ra.port.finds
      read.1 = true → read.2.storesDone c.tid = true → given read.2 (rdBytes read.2.ms.mem (wordAddr i) 64) = .ok v →
      exec (.issueM t ra imm) s = .next done)

/-- The port accepts of the requesters that reach it in one cycle the first after the one it accepted last; an ISSUE that loses does not
retire, and its pipeline presents it again (R158). -/
def Sys2Proof.Claim.portTakesTurns : Prop :=
  (∀ (s : State) (core me : Nat) (rivals : List Nat), me < 5 → (s.core core).portLast < 5 →
    let w := s.portWinner core me rivals
    let turn (q : Nat) : Nat := (q + 4 - (s.core core).portLast) % 5
    (w = me ∨ w ∈ rivals ∧ s.mayPresent core w = true) ∧
    ∀ q < 5, q = me ∨ q ∈ rivals ∧ s.mayPresent core q = true → turn w ≤ turn q) ∧
  (∀ (s : State) (t : Thr) (c : Ctx) (ra : IssueRa), s.portWinner t.core (t.berth % 4) ra.port.rivals ≠ t.berth % 4 →
    let kept : Outc := .next (s.updCore t.core fun k => { k with atPort := tset 0 (t.berth % 4) (t.berth + 1) k.atPort })
    (ra.ra.toNat % 8 = 0 → ra.ra ≠ 0 → Runs s t c ((List.range 8).map fun i => ra.ra + BitVec.ofNat 6 i) [] →
      exec (.issueR t ra) s = kept) ∧
    (∀ imm, Runs s t c [ra.ra] [] → exec (.issueM t ra imm) s = kept))

/-- The prefetch lane of a running job hands its next descriptor to the port and advances HEAD_CTR (R174, R176). -/
def Sys2Proof.Claim.laneHandsOver : Prop :=
  ∀ (s v : State) (lane : LaneAt) (l : CoreDecl) (a : Nat) (rs : List Run),
    let core := lane.core
    let pos := s.posOf core
    let raw := s.readJob pos a 64
    (s.job pos).st = .running → (s.core core).power = .run → s.laneNext core = some (l, a) →
    s.spanOf pos a 64 false = .runs rs → s.laneHeld core raw = false → s.portWinner core 4 lane.port.rivals = 4 →
    let read := s.readSees pos [(a, 64)] lane.port.finds
    read.1 = true →
    read.2.offer core (.lane (s.ctr pos l.headCtr).toNat) l.laneStream.toNat (read.2.readJob pos a 64) lane.port.finds = .ok v →
    exec (.prefetchLaneIssue lane) s =
      .next ((v.updCore core fun k => { k with portLast := 4, idle := 0 }).bumpCtr pos l.headCtr)

/-- The port's arbitration, and the lane that issues through it (R158, R174, R176). -/
def Obligations.LaneIssues : Prop := laneHandsOver ∧ portTakesTurns

/-- A fault of a thread: the thread is FAULTED at its instruction's PC, and its job, if RUNNING, ends faulted with the code (R178). -/
def Sys2Proof.Claim.faultsThread (s : State) (tid : Nat) (pc : W32) (code : Code) (u : State) : Prop :=
  (∀ x, s.thread tid = some x → ((s.core (coreOfTid tid)).find tid).isSome = true → ∃ y, u.thread tid = some y ∧ y.status = .faulted ∧ y.pc = pc) ∧
  ((s.job (s.posOf (coreOfTid tid))).st = .running →
    let j := u.job (s.posOf (coreOfTid tid))
    j.st = .ending ∧ j.reason = .faulted ∧ j.code = code)

/-- An undefined instruction word is not executed: its thread faults with E_ARG_FORMAT at its own PC, and so does its job (R187). -/
def Obligations.IllegalWordFaults : Prop :=
  ∀ (s : State) (t : Thr) (c : Ctx) (w : W64), Runs s t c [] [] → legal w = false →
    let u := (s.noteIssue t).threadFault c.tid c.pc E.argFormat
    exec (.illegalInstruction t w) s = .next u ∧ faultsThread (s.noteIssue t) c.tid c.pc E.argFormat u

/-- The token operations that fault: on a word in no ring and, for TAKE and GIVE, on a word that is not a slot's first with E_ARG_RANGE;
a GIVE by a thread that does not hold the token and a TAKE by the thread that does with E_ARG_FORMAT. The token is unchanged (R233). -/
def Obligations.TokenFaults : Prop :=
  ∀ (s : State) (t : Thr) (c : Ctx) (rd ra rb : Reg) (imm : Imm) (i : Nat), Runs s t c [ra, rb] [] → c.xing = none →
    c.wordIndex ra imm = some i → s.posOf (i / 2 ^ 20) = s.posOf t.core →
    let fault (code : Code) := (s.noteIssue t).threadFault c.tid c.pc code
    let takes := [Instr.takeF t ra imm .clean, .takeE t ra imm .clean]
    let gives := [Instr.giveF t ra imm .clean, .giveE t ra imm .clean]
    (s.slotAt (s.posOf t.core) i = none →
      ∀ o ∈ takes ++ gives ++ [.ldwTk t rd ra imm .clean, .stwTk t ra rb imm .clean], exec o s = .next (fault E.argRange)) ∧
    (∀ a, s.slotAt (s.posOf t.core) i = some a →
      (a.at_ ≠ 0 → ∀ o ∈ takes ++ gives, exec o s = .next (fault E.argRange)) ∧
      (a.at_ = 0 → (s.tok a).holder ≠ some c.tid → ∀ o ∈ gives, exec o s = .next (fault E.argFormat)) ∧
      (a.at_ = 0 → (s.tok a).holder = some c.tid → ∀ o ∈ takes, exec o s = .next (fault E.argFormat))) ∧
    ∀ code, faultsThread (s.noteIssue t) c.tid c.pc code (fault code) ∧ ∀ a, (fault code).tok a = s.tok a

/-- The command with a clean token-store read: what the word of a token instruction says. -/
def Sys2Proof.Claim.cleanEntry : Instr → Instr
  | .ldwTk t rd ra imm _ => .ldwTk t rd ra imm .clean
  | .stwTk t ra rb imm _ => .stwTk t ra rb imm .clean
  | .takeF t ra imm _ => .takeF t ra imm .clean
  | .takeE t ra imm _ => .takeE t ra imm .clean
  | .giveF t ra imm _ => .giveF t ra imm .clean
  | .giveE t ra imm _ => .giveE t ra imm .clean
  | i => i

/-- The word of a Tiller command decodes to that command, its token-store read being clean; a defined word is the word of what it
decodes to, but for the rounding field that FEQ, FLT and FLE ignore; every other word decodes to ILLEGAL_INSTRUCTION
(R186, R187, R194). -/
def Obligations.TillerWordsRoundTrip : Prop :=
  (∀ (i : Instr) (t : Thr) (w : W64), i.thr = some t → i.wordOk = true → encodeTiller i = some w →
    decodeTiller t w = cleanEntry i) ∧
  (∀ (t : Thr) (w : W64), legal w = true →
    let f := fieldsOf w
    encodeTiller (decodeTiller t w) = some (if f.cls = 3 ∧ 10 ≤ f.op.toNat then wordOf { f with imm := 0 } else w)) ∧
  (∀ (t : Thr) (w : W64), legal w = false → decodeTiller t w = .illegalInstruction t w)

/-! ### Engines (chapters 3, 5, 9, 13) -/

/-- ENGINE_CHOOSE: an idle instance that finds no error in its account structures goes on with the account whose slice is not over, else
runs the earliest ready descriptor of the account its tolls choose, and leaves every other instance as it was (R402, R404). -/
def Sys2Proof.Claim.engineChoiceRuns : Prop :=
  ∀ (s : State) (cls num : Nat), s.live = true → instanceExists cls num = true → cls ≠ 1 →
    let e := s.refresh (s.engine cls num)
    let of (a : Nat) : List Desc := (s.candidates e).filter fun d => d.account == a
    let runs (e' : Engine) (a slice : Nat) : Prop := exec (.engineChoose cls num .none) s = .next (s.updEngine cls num fun _ =>
      { e' with
        running := (minBy Desc.serial (of a)).map Desc.serial
        sliceAccount := some a, slice := slice, idleRun := 0, gated := false })
    e.running = none →
    (∀ a, e.sliceAccount = some a → 0 < e.slice → of a ≠ [] → runs e a e.slice) ∧
    ((∀ a, e.sliceAccount = some a → e.slice = 0 ∨ of a = []) →
      let c := e.choose ((s.readyAccounts e).filter fun a => !(of a).isEmpty)
      (∀ a slice, c.2 = some (a, slice) → runs c.1 a slice) ∧
      (c.2 = none → exec (.engineChoose cls num .none) s = .next (s.updEngine cls num fun _ => c.1)))

/-- The pick of R402: no ready account of an engine that is not shared has a lower virtual toll than the account picked, and
none with the same toll has a lower number. -/
def Obligations.LowestTollIsPicked : Prop :=
  ∀ (e : Engine) (l : List Nat) (a : Nat), isShared e.cls = false → l.Pairwise (· < ·) → e.pick l = some a →
    a ∈ l ∧ ∀ b ∈ l, (e.toll a).vt.toNat < (e.toll b).vt.toNat ∨ (e.toll a).vt.toNat = (e.toll b).vt.toNat ∧ a ≤ b

/-- SLICE_END takes the instance from the running operation, which has no lookup outstanding; its account owes the cycles past its
slice (R254, R405); ENGINE_CLOCK_GATE gates the clock of an instance without an operation in progress (R549). -/
def Sys2Proof.Claim.sliceEndAndClockGate : Prop :=
  ∀ (s : State) (cls num : Nat), s.live = true →
    (∀ a overrun n, cls ≠ 1 → (s.engine cls num).running = some n → (s.engine cls num).sliceAccount = some a →
      (∀ d, (s.engine cls num).current = some d → ∀ f ∈ d.fetch, f.2.pending = false) →
      exec (.sliceEnd cls num overrun) s = .next (s.updEngine cls num fun e =>
        { e.setToll a { e.toll a with debt := (e.toll a).debt + overrun } with
          running := none, partner := none, sliceAccount := none, slice := 0 })) ∧
    (instanceExists cls num = true → (s.engine cls num).busyWith = none →
      exec (.engineClockGate cls num) s = .next (s.updEngine cls num fun e => { e with gated := true }))

/-- Engine instances choose, slice and gate (R254, R402, R404, R405, R549). -/
def Obligations.EnginesTakeTurns : Prop := engineChoiceRuns ∧ sliceEndAndClockGate

/-- A Span with no operation running starts the one that the slots in turn give, or a PAIR as one (R127, R131). `stale` says which of
them take a stale tile; without REUSE none does (R93). -/
def Sys2Proof.Claim.spanChoiceRuns : Prop :=
  ∀ (s : State) (pos : Nat) (d : Desc), pos < s.spans.length → (s.span pos).plans = [] → s.chooseSpan pos = some d →
    let runs (second : Option Nat) : Prop := ∃ stale : Nat → Bool,
      exec (.spanChoose pos) s = .next ((s.updEngine 1 pos fun e => { e with running := some d.serial, partner := second }).updSpan pos fun x =>
        { x with lastSlot := d.slot, plans := (s.plansOf d).map fun p => { p with stale := stale p.serial }, nextPlans := [], chosen := false
                 chains := [], flight := [], inbox := [] })
    (d.pair = false → runs none) ∧
    (∀ q, d.pair = true → (s.engine 1 pos).partnerOf d = some q → d.pos = pos → runs (some q.serial))

/-- SPAN_MM: a core streams the next row of its pass, or an error that its reads find ends the operation; a towline beat in its turn is
taken with the records that were sent, and any other ends the operation (R95, R99, R115, R117, R118). -/
def Sys2Proof.Claim.spanRowsAndBeats : Prop :=
  ∀ (s : State) (pos core : Nat) (y : RowReads) (x : RowSlot), s.rowSlot pos core = some x →
    (s.rowStalls pos x = false →
      let r := (s.accRead pos x y.corrected).beginPass pos x y.finds
      let u := r.2.readSees pos x.reads y.finds
      let sound : Prop := r.1 = true ∧ u.1 = true ∧ ¬ (s.seedFrom pos x = .buffer ∧ y.bad = true)
      (sound → exec (.spanMm pos core y) s = .next ((u.2.rowDone pos x).endTurn pos x)) ∧
      (¬ sound → exec (.spanMm pos core y) s = .next (u.2.failSpan pos))) ∧
    (∀ (item pass row : Nat) (b : TBeat) (r : List TBeat), s.beatWanted pos core = some (x.d.serial, item, pass, row) →
      tget [] core (s.span pos).flight = b :: r →
      exec (.towlineBeat pos core { serial := x.d.serial, item := item, pass := pass, row := row, corrected := 0, bad := false }) s =
        .next ((if s.bridgeHop pos core then s else s.countBy (0x1100 + 8 * core) 0).updSpan pos fun y =>
          { y with flight := tset [] core r y.flight, inbox := tupd [] core (fun l => l ++ [b]) y.inbox })) ∧
    (∀ beat : Beat, s.beatWanted pos core ≠ some (beat.serial, beat.item, beat.pass, beat.row) →
      exec (.towlineBeat pos core beat) s = .next (s.failSpan pos))

/-- The Span chooses and runs its operations (R95, R115, R118, R127, R131). -/
def Obligations.SpanRuns : Prop := spanChoiceRuns ∧ spanRowsAndBeats

/-- The passes of a product in any geometry, each from the weight registers that its tile loads, form the chain of R103 over all
sections of K: no bit of a pair depends on the geometry (R74, R75, R81, R96, R103, R120). -/
def Obligations.PassesFormTheChain : Prop :=
  ∀ (s : State) (d : Desc) (g i j : Nat) (p : PairRec), g = 1 ∨ g = 2 ∨ g = 3 → (d.trans = true → g = 1) → j < d.n →
    (List.range (d.passes g)).foldl (fun p n =>
      passPair d g n (s.streamed d g n i) (s.loadCells d g n (j / geomW g)) (j % geomW g) p) p = s.chain d i j p

/-- An operation that runs by rows: its class, opcode, command, the ranges it writes, and its rows. -/
structure Sys2Proof.Claim.RowOpAt where
  cls : Nat
  op : Nat
  instr : EngRun → Instr
  outs : State → Desc → List (Nat × Nat)
  run : RowOp

/-- The running operation, whose writes need not wait, runs the rows of its next units in ascending order: it keeps its progress and status
so far while rows are left, and completes after the last or at an error (R251, R252, R254). -/
def Sys2Proof.Claim.runsRows (x : RowOpAt) : Prop :=
  ∀ (s : State) (r : EngRun) (d : Desc), s.runningOp x.cls r.num x.op = some d → s.writesHeld d.pos (x.outs s d) = false →
    let n := Nat.min (x.run.rows d s - d.progress) (r.units * x.run.unit d)
    let a := s.rows d.pos d.progress n (x.run.reads d) (x.run.body d) d.part r.finds
    (a.part.err = E.ok → d.progress + n < x.run.rows d s → exec (x.instr r) s = .next (a.s.saveDesc x.cls r.num d.serial fun d =>
      { d with progress := d.progress + n, part := a.part })) ∧
    (a.part.err ≠ E.ok ∨ x.run.rows d s ≤ d.progress + n → exec (x.instr r) s = .next
      ((a.s.flush d.pos a.part.held).complete x.cls r.num d (x.run.ending d a.s a.part)))

/-- The vector operations with the row function of each (R257 to R262). -/
def Sys2Proof.Claim.vectorOps : List RowOpAt :=
  ([(0x0201, .vecMap, 64, mapRow), (0x0202, .vecReduce, 1, reduceRow), (0x0203, .vecNormFwd, 1, normFwdRow),
    (0x0204, .vecNormBwd, 1, normBwdRow), (0x0205, .vecSoftmaxFwd, 1, softFwdRow), (0x0206, .vecSoftmaxBwd, 1, softBwdRow),
    (0x0207, .vecOpt, 64, optRow)] : List (Nat × (EngRun → Instr) × Nat × (Desc → Nat → State → RowOut))).map fun o =>
    { cls := 2, op := o.1, instr := o.2.1, outs := fun _ => Desc.vecOuts, run := vecOp o.2.2.1 o.2.2.2 }

/-- The Keel operations with the block function of each and what their DETAIL holds (R263 to R265). -/
def Sys2Proof.Claim.keelOps : List RowOpAt :=
  ([(0x0210, .keelExp, keelExpRow, Part.ending), (0x0211, .keelExpmax, keelExpmaxRow, Part.ending),
    (0x0212, .keelEncode, keelEncodeRow, Part.sumEnding), (0x0213, .keelAdd, keelAddRow, Part.sumEnding),
    (0x0214, .keelDecode, keelDecodeRow, Part.ending)] :
      List (Nat × (EngRun → Instr) × (Desc → Nat → State → RowOut) × (Part → Ending))).map fun o =>
    { cls := 2, op := o.1, instr := o.2.1, outs := fun _ => Desc.keelOuts, run := keelOp o.2.2.1 o.2.2.2 }

/-- A running vector or Keel operation runs its rows in ascending order and completes. -/
def Obligations.VectorAndKeelComplete : Prop := ∀ x ∈ vectorOps ++ keelOps, runsRows x

/-- The sum of Keel blocks does not depend on the order of its operands (R66, R264). -/
def Obligations.KeelSumOrderFree : Prop :=
  ∀ (w : Nat) (a b c ab bc x y : KBlock), w = 32 ∨ w = 64 →
    KBlock.add w a b = KBlock.add w b a ∧
    (KBlock.add w a b = .inr ab → KBlock.add w b c = .inr bc → KBlock.add w ab c = .inr x → KBlock.add w a bc = .inr y → x = y)

/-- A layout operation runs its next pieces. It keeps its progress while pieces are left, is suspended where a page is not resident, and
completes after the last piece or at an error once its status record can be written (R251, R252, R254, R268, R269, R343). -/
def Obligations.LayoutCompletes : Prop :=
  ∀ (s : State) (r : EngRun) (d : Desc), ∀ o ∈ ([(0x0301, .layCopy r), (0x0302, .layFill r)] : List (Nat × Instr)),
    s.runningOp 3 r.num o.1 = some d →
    let x := (List.range (Nat.min r.units (d.layPieces - d.progress))).foldl (fun (x : LayRun) _ => x.next d)
      ({ a := { s := s, part := d.part, finds := r.finds }, piece := d.progress, halt := false, bar := [] } : LayRun)
    let kept := x.a.s.saveDesc 3 r.num d.serial fun d => { d with progress := x.piece, part := x.a.part }
    let done := (x.a.s.flush d.pos x.a.part.held).saveDesc 3 r.num d.serial fun d =>
      { d with progress := x.piece, part := { x.a.part with held := [] } }
    (x.a.part.err = E.ok → x.piece < d.layPieces → exec o.2 s =
      .next (if x.bar = [] then kept else kept.suspend 3 r.num d (shoreOf r.num) x.bar)) ∧
    (x.a.part.err ≠ E.ok ∨ d.layPieces ≤ x.piece → done.statusWaits d = false → exec o.2 s = .next (done.complete 3 r.num d
      { x.a.part.ending with err := if x.a.part.err = E.ok ∧ done.statusLost d then E.argRange else x.a.part.err }))

/-- The operations with lookups (R272). -/
def Sys2Proof.Claim.lookupOps (r : EngRun) : List (Nat × Instr × GOp) :=
  [(0x0401, .gatherBag r, bagOp), (0x0402, .gatherRows r, rowsOp), (0x0403, .scatterRows r, scatOp)]

/-- A gather or scatter starts the positions it may; it pools or writes the bags or rows whose positions are settled, in order, keeps its
progress while some are left, and completes after the last or at the failure that ends it (R272, R273, R275 to R277). -/
def Sys2Proof.Claim.lookupsRun : Prop :=
  ∀ (s : State) (r : EngRun) (d0 d : Desc), ∀ o ∈ lookupOps r, s.runningOp 4 r.num o.1 = some d0 →
    let t := s.gTab d0
    let x := (s.gLeft d0).foldl (Starts.next r.num d0.serial t (o.2.2.start r.num t)) { s := s, finds := r.finds, waits := [], stop := false }
    x.s.runningOp 4 r.num o.1 = some d →
    x.s.writesHeld d.pos (((d.gExts t ++ d.statusExt).filter fun e => e.wr).map fun e => (e.addr, e.n)) = false →
    let n := x.s.gSettled d d.progress (Nat.min (d.gCount - d.progress) (r.units * d.gUnit))
    let a := x.s.rows d.pos d.progress n (o.2.2.reads d) (o.2.2.body d t) d.part x.finds
    (a.part.err = E.ok → d.progress + n < d.gCount →
      let past := (List.range n).flatMap fun i => x.s.gPos d (d.progress + i)
      exec o.2.1 s = .next (a.s.saveDesc 4 r.num d.serial fun d =>
        { d with progress := d.progress + n, part := a.part, fetch := d.fetch.filter fun f => !past.contains f.1 })) ∧
    (a.part.err ≠ E.ok ∨ d.gCount ≤ d.progress + n → exec o.2.1 s = .next
      (((a.s.dropOwner d.serial).flush d.pos a.part.held).complete 4 r.num d a.part.ending))

/-- COMBINE_DUP sorts, then sums the gradient rows of each distinct index in ascending order of position (R273, R274). -/
def Sys2Proof.Claim.combineDup : RowOpAt :=
  { cls := 4, op := 0x0404, instr := .combineDup
    outs := fun s d => ((d.gExts (s.gTab d) ++ d.statusExt).filter fun e => e.wr).map fun e => (e.addr, e.n), run := dupOp }

/-- The operations of the gather engine (R272 to R277). -/
def Obligations.LookupsComplete : Prop := lookupsRun ∧ runsRows combineDup

/-- The random-stream operations (R278, R279). -/
def Sys2Proof.Claim.randomOps : List RowOpAt :=
  ([(0x0501, .rndFill), (0x0502, .rndMask), (0x0503, .rndCtrSet), (0x0504, .rndCtrRead)] : List (Nat × (EngRun → Instr))).map fun o =>
    { cls := 5, op := o.1, instr := o.2, outs := fun _ => Desc.rOuts, run := rndOp }

/-- What a block of a random-stream operation writes: 32 bytes of RND_FILL, each the low byte of its element; a word of RND_MASK, whose
bit is 1 when its element exists and is at least P; the captured counter (R278, R279). -/
def Sys2Proof.Claim.randomValues : Prop :=
  ∀ (s : State) (d : Desc) (k : Nat),
    (d.opcode = 0x0501 → (rndRow d k s).writes = [(d.rOut + 32 * k,
      (List.range (Nat.min 32 (4 * d.rCount - 32 * k))).map fun i => BitVec.ofNat 8 (s.drawBits d (32 * k + i)))]) ∧
    (d.opcode = 0x0502 → ∃ bs : List Byte, bs.length = 4 ∧ (rndRow d k s).writes = [(d.rOut + 4 * k, bs)] ∧
      ∀ b i, b < 4 → i < 8 → ((bs.getD b 0).getLsbD i = true ↔
        32 * k + 8 * b + i < d.rCount ∧ d.rThreshold ≤ s.drawBits d (32 * k + 8 * b + i))) ∧
    (d.opcode = 0x0504 → (rndRow d k s).writes = [(d.rOut, leBytes 8 d.cap.toNat)])

/-- The random-stream unit runs its operations block by block and writes what R278 and R279 give them. -/
def Obligations.RandomUnitCompletes : Prop := (∀ x ∈ randomOps, runsRows x) ∧ randomValues

/-- What completing an operation does: the status record is written, the queue entry frees, DONE_CTR advances, and an error
faults the job (R83, R180, R251). -/
def Obligations.CompletionReports : Prop :=
  ∀ (s : State) (cls num : Nat) (d : Desc) (e : Ending),
    let u := if d.statusAddr = 0 then s else s.writeJob d.pos d.statusAddr e.bytes
    let v := (u.freeEntry cls num d.serial).doneCtr d
    s.complete cls num d e = (if e.err = E.ok then v else v.engineFault d e.err) ∧
    ∀ q ∈ (u.freeEntry cls num d.serial).engines, q.cls = cls → q.num = num →
      (∀ x ∈ q.queue, x.serial ≠ d.serial) ∧ q.running ≠ some d.serial

/-- An operation of a compression or mooring engine: its class, opcode, command, and how it runs. -/
structure Sys2Proof.Claim.FwOpAt where
  cls : Nat
  op : Nat
  instr : EngRun → List Byte → List Byte → Instr
  run : EngRun → FwOp

/-- The operations that only firmware issues (R281, R283). -/
def Sys2Proof.Claim.fwOps : List FwOpAt :=
  [{ cls := 6, op := 0x0601, instr := .compPage, run := fun _ => compOp fun bs => some (zstdFrame bs) },
   { cls := 6, op := 0x0602, instr := .decompPage, run := fun _ => compOp zstdPage },
   { cls := 7, op := 0x0701, instr := .moorCopy, run := fun _ =>
      { units := Desc.mCount, unit := copyUnit, writes := fun d => [(d.mDst, d.mCount * d.mPage)], ending := Part.ending } },
   { cls := 7, op := 0x0702, instr := .moorVersion, run := fun r =>
      { units := fun _ => 1, unit := versionUnit r.xing, writes := fun d => [(d.mDst, d.mPage), (d.mPte, 16)], ending := Part.ending } },
   { cls := 7, op := 0x0703, instr := .moorDigest, run := fun _ =>
      { units := Desc.mCount, unit := digestUnit, writes := fun d => [(d.mDst, 8 * d.mCount)], ending := Part.ending } },
   { cls := 7, op := 0x0704, instr := .moorSha512, run := fun _ =>
      { units := fun d => Nat.max 1 (ceilDiv d.mCount shaChunk), unit := shaUnit, writes := fun d => [(d.mDst, 64)]
        ending := Part.ending } }]

/-- A running operation of a compression or mooring engine, none of whose writes a crossing holds, runs its next units, keeps its progress
while units are left, and completes after the last or at an error; firmware hears of the end (R248, R251, R252, R254, R281 to R284). -/
def Sys2Proof.Claim.fwOpsRun : Prop :=
  ∀ x ∈ fwOps, ∀ (s : State) (r : EngRun) (aux : List Byte) (d : Desc), s.live = true → s.runningOp x.cls r.num x.op = some d →
    (∀ pos page f, x.op = 0x0702 → s.versionPage d = some (pos, page, f) →
      s.heldByXing (versionCross pos page 0 r.xing).wset = false) →
    s.rangesHeld ((x.run r).writes d ++ if d.statusAddr = 0 then [] else [(d.statusAddr, 16)]) = false →
    let n := Nat.min ((x.run r).units d - d.progress) r.units
    let a := ((List.range n).map fun k => d.progress + k).foldl
      (fun (a : Acc) k => if a.part.err = E.ok then (x.run r).unit d k a else a) { s := s, part := d.part, finds := r.finds }
    (a.part.err = E.ok → d.progress + n < (x.run r).units d → exec (x.instr r [] aux) s = .next
      (a.s.saveDesc x.cls r.num d.serial fun d => { d with progress := d.progress + n, part := a.part })) ∧
    (a.part.err ≠ E.ok ∨ (x.run r).units d ≤ d.progress + n → exec (x.instr r [] aux) s =
      .next (a.s.fwDone x.cls r.num d ((x.run r).ending a.part)))

/-- Firmware issues a compression descriptor: one that fails a check is reported and does not start; one that passes takes an entry of a
queue with room (R248, R249, R250). Its instance has another operation in progress. -/
def Sys2Proof.Claim.fwIssues : Prop :=
  ∀ (s : State) (r : EngRun) (raw aux : List Byte) (x : Desc), s.live = true → raw ≠ [] →
    (s.engine 6 r.num).current = some x → x.opcode ≠ 0x0601 →
    let d := fwDesc raw aux
    (s.compBad 0x0601 d ≠ E.ok → exec (.compPage r raw aux) s = .next (s.fwReport 6 r.num (s.compBad 0x0601 d))) ∧
    (s.compBad 0x0601 d = E.ok → fld raw 16 1 = 0xFF ∨ fld raw 16 1 = r.num → (s.engine 6 r.num).queue.length < queueCap 6 →
      ∃ t, exec (.compPage r raw aux) s = .next t ∧ (t.engine 6 r.num).queue = (s.engine 6 r.num).queue ++ [{ d with serial := s.ms.serial }])

/-- The engines that firmware gives descriptors to (R248, R281 to R284). -/
def Obligations.FirmwareEnginesComplete : Prop := fwOpsRun ∧ fwIssues

/-- An Azlink port engine's operation ends: a status record that has no place ends it with E_ARG_RANGE (R251, R269). -/
def Sys2Proof.Claim.azEnded (s : State) (num : Nat) (d : Desc) (e : Ending) : State :=
  s.complete 8 num d { e with err := if e.err = E.ok ∧ s.statusLost d then E.argRange else e.err }

/-- The two window operations (R438, R439): opcode, command, the windows it may act on, the entry it leaves, its DETAIL. -/
structure Sys2Proof.Claim.WinOp where
  op : Nat
  instr : Instr
  fit : Prop
  entry : Win → Win
  detail : State → Nat

def Sys2Proof.Claim.winOps (s : State) (r : EngRun) (d : Desc) : List WinOp :=
  let w := s.win d.azWin
  [{ op := 0x0801, instr := .azWinOpen r, fit := w.isOpen = false ∧ w.adv + 1 ≤ 0x3FFFF
     entry := fun w => { w with isOpen := true, base := d.azLocal, length := d.azLen, adv := w.adv + 1, job := d.pos
                                read := bits d.azCtl 1 1 == 1, write := bits d.azCtl 2 1 == 1 }
     detail := fun u => u.winRef d.azWin },
   { op := 0x0802, instr := .azWinClose r, fit := w.isOpen = true ∧ w.job = d.pos
     entry := fun w => { w with isOpen := false, adv := w.adv + 1 }, detail := fun u => u.winGen d.azWin }]

/-- AZ_WIN_OPEN and AZ_WIN_CLOSE: without a peer identity they end with E_PEER_GONE, at a window they cannot act on with E_NO_WINDOW;
otherwise the entry is written in one crossing, which is counted, and the operation completes (R437 to R440). -/
def Sys2Proof.Claim.windowsAct : Prop :=
  ∀ (s : State) (r : EngRun) (d : Desc), ∀ o ∈ winOps s r d, s.runningOp 8 r.num o.op = some d → s.statusWaits d = false →
    (s.ownId = none → exec o.instr s = .next (azEnded s r.num d { err := E.peerGone })) ∧
    (s.ownId ≠ none → ¬ o.fit → exec o.instr s = .next (azEnded s r.num d { err := E.noWindow })) ∧
    (s.ownId ≠ none → o.fit → s.freeFwEntry ≠ none → s.heldByXing [.window d.azWin] = false → r.xing = .none →
      let v := (s.beats [] [.window d.azWin]).count 0x1040
      let u := v.setWin d.azWin (o.entry (v.win d.azWin))
      u.statusWaits d = false → exec o.instr s = .next (azEnded u r.num d { detail := o.detail u }))

/-- AZ_PUT and AZ_GET: to a peer that is no other member they end with E_PEER_GONE; otherwise the operation has started, leaves the
engine's turn, sends packets while there is room, and ends when every fate is known. Commanded again, started ones go on (R425, R438). -/
def Sys2Proof.Claim.transfersAct : Prop :=
  ∀ (s : State) (r : EngRun), ∀ o ∈ ([(0x0803, .azPut r), (0x0804, .azGet r)] : List (Nat × Instr)),
    (∀ d, s.runningOp 8 r.num o.1 = some d →
      (s.ownId = none ∨ s.isMember d.azPeer = false → s.statusWaits d = false →
        exec o.2 s = .next (azEnded s r.num d { err := E.peerGone })) ∧
      (s.ownId ≠ none → s.isMember d.azPeer = true →
        exec o.2 s = .next (((s.azStart r.num d.serial).azFill d.serial 64 r.finds).azEnd d.serial))) ∧
    (s.runningOp 8 r.num o.1 = none → exec o.2 s = .next
      (((s.engine 8 r.num).queue.filter fun d => d.started && d.opcode == o.1).foldl (fun s d => (s.azFill d.serial 64 r.finds).azEnd d.serial) s))

/-- AZ_RING_OPEN, AZ_RING_CLOSE and AZ_REDUCE begin on the reduction context of their job: formation starts, the close waits for the last
bucket, the bucket's exchange starts; with no such context they end with E_PEER_GONE (R447, R454, R455, R475). -/
def Sys2Proof.Claim.ringsAct : Prop :=
  ∀ (s : State) (r : EngRun) (d : Desc),
    (∀ o ∈ ([(0x0810, .azRingOpen r), (0x0811, .azRingClose r), (0x0812, .azReduce r)] : List (Nat × Instr)),
      s.runningOp 8 r.num o.1 = some d → s.ringOf d.rgJob = none → exec o.2 s = .next (s.azComplete d { err := E.peerGone })) ∧
    ∀ k x, s.ringOf d.rgJob = some (k, x) →
      (s.runningOp 8 r.num 0x0810 = some d → exec (.azRingOpen r) s = .next (
        if s.ownId = none then (s.freeRing k).azComplete d { err := E.peerGone }
        else ((s.azStart r.num d.serial).updRing k fun x => { x with opened := true }).formAgain k)) ∧
      (s.runningOp 8 r.num 0x0811 = some d → exec (.azRingClose r) s = .next ((s.azStart r.num d.serial).closeTry k)) ∧
      (s.runningOp 8 r.num 0x0812 = some d → exec (.azReduce r) s = .next ((s.azStart r.num d.serial).startBucket k d.rgBucket))

/-- The Azlink port engines act on their operations (R425, R437 to R440, R447, R454, R455). -/
def Obligations.AzlinkOperationsAct : Prop := windowsAct ∧ transfersAct ∧ ringsAct

/-! ### Berths, core power and flash (chapters 4, 9, 13) -/

/-- The core may swap: its job runs and it is in RUN. -/
def Sys2Proof.Claim.swaps (s : State) (core : Nat) : Prop := s.jobRuns core = true ∧ (s.core core).power = .run

/-- Swap-in, eviction and rotation move contexts between berths and swap records (R167 to R173). -/
def Obligations.ContextsSwap : Prop :=
  ∀ (s : State) (core b : Nat) (c : Ctx),
    let k := s.core core
    let swapTo (k' : Core) : Outc := .next (s.setCore core k')
    (∀ tid at' rest, swaps s core → (∀ e ∈ k.berths, ∀ t, e.2 ≠ .swappingIn t) → k.swapQueue = (tid, at') :: rest →
      (k.freeBerth = some b → exec (.swapIn core) s = swapTo { k.setBerth b (.swappingIn tid) with swapQueue := rest }) ∧
      (k.freeBerth = none → k.ballastBerth = some b → exec (.swapIn core) s =
        swapTo { k.setBerth b (.swappingIn tid) with swapQueue := rest, evictOwed := k.evictOwed + 1 })) ∧
    (∀ tid ecc u, k.berth b = .swappingIn tid → s.readRecord tid ecc = (true, u) → u.record tid = some c →
      exec (.swapInComplete core b ecc) s = .next (((u.updCore core fun k =>
        { k.setBerth b (.resident { c with since := u.aoc }) with idle := 0 }).updJob (s.posOf core) fun j =>
          { j with swap := tset SwapRec.empty tid SwapRec.empty j.swap }).putRecord tid 516 [0])) ∧
    (∀ tid ecc u, k.berth b = .swappingIn tid → s.readRecord tid ecc = (false, u) →
      exec (.swapInComplete core b ecc) s = .next (u.lostLaw 5 core core)) ∧
    (swaps s core → 0 < k.evictOwed →
      minBy (fun x : Nat × Ctx => x.2.wait.blockedAt) (k.residents fun c => c.status.blocked && c.movable) = some (b, c) →
      exec (.eviction core) s = swapTo { (k.setBerth b (.swappingOut c)).leaveSets b with evictOwed := k.evictOwed - 1 }) ∧
    (k.berth b = .swappingOut c → c.out = [] → c.status ≠ .runnable →
      exec (.evictionComplete core b) s = .next (((s.putRecord c.tid 0 c.recordBytes).updCore core fun k =>
        { k.setBerth b (if k.ballastCount < 16 then .ballast else .free) with rotating := k.rotating.filter fun x => x != b }).updJob
          (s.posOf core) fun j => { j with swap := tset SwapRec.empty c.tid { valid := true, ctx := some c } j.swap })) ∧
    (swaps s core → k.rotating.length < s.overdue core → k.freeBerth = none → k.ballastBerth = none →
      minBy (fun x : Nat × Ctx => x.2.since) (k.residents fun c => s.ctxReady core c && c.movable) = some (b, c) →
      exec (.rotation core) s = swapTo { k.swapOut b c with rotating := k.rotating ++ [b] })

/-- A core sleeps, goes deep, which loses its TLB and walk cache, and wakes; a PLL that does not lock puts the device into FAULTED (R38,
R545 to R547, R586). -/
def Obligations.CorePowerStates : Prop :=
  ∀ (s : State) (core : Nat), s.live = true →
    let k := s.core core
    let man := (s.job (s.posOf core)).man
    (s.jobRuns core = true → k.power = .run → s.maySleep core = true → 64 ≤ k.idle →
      exec (.coreSleep core) s = .next (s.updCore core fun k => { k with power := .sleep, idle := 0 })) ∧
    (s.jobRuns core = true → k.power = .sleep → s.wakeDue core = false → man.deepLog2 ≠ 0xFF → 2 ^ man.deepLog2 ≤ k.idle →
      (s.engine 1 (s.posOf core)).queue = [] → exec (.coreDeep core) s = .next (s.updCore core fun k =>
        { k with power := .deep, idle := 0, tlb := [], tlbLarge := [], walks := [] })) ∧
    (k.power ≠ .run → s.wakeDue core = true →
      exec (.coreWake core) s = .next (s.updCore core fun k => { k with power := .run, wakeHeld := false, idle := 0 })) ∧
    (k.power = .deep → s.wakeDue core = true →
      exec (.pllLockTimeout core) s =
        .next ((s.updCore core fun k => { k with pllFailed := true }).enterFaulted 7 E.uncorrectable 0 0xFFFFFFFF core))

/-- A firmware crossing of these sets finds an entry and no error, and nothing that it touches is held (R292, R296, R301). -/
def Sys2Proof.Claim.crosses (s : State) (reads wset : List XEnt) : Prop :=
  s.freeFwEntry ≠ none ∧ s.heldByXing (reads ++ wset) = false ∧ (reads ++ wset).any s.entBad = false

/-- It has passed validation first and is counted (R298, R312). -/
def Sys2Proof.Claim.crossed (s : State) (reads wset : List XEnt) : State := (s.beats reads wset).count 0x1040

/-- A page that has been read enters its frame in a crossing and its waiters run; one that cannot be read fails its waiters; a dirty unit
is copied out in a crossing, then programmed and mapped (R329, R330, R333, R335, R336, R341). -/
def Sys2Proof.Claim.pagesComeAndGo : Prop :=
  ∀ (s : State) (pos page : Nat) (e : Pte), (s.job pos).pages.find? (fun x => x.1 == page) = some (page, e) →
    (∀ f frame (r : PageRead), s.ms.faultIns.find? (fun f => f.pos == pos && f.page == page) = some f → e.resident = false →
      s.frameFor pos f.stack = some frame →
      let u := (s.readPage e.flashPage r).2
      let x := pageCross pos page [.unitMap e.flashPage]
      let done (u : State) : State := u.updMs fun m => { m with faultIns := m.faultIns.filter fun g => g != f }
      ((s.readPage e.flashPage r).1 = true → crosses u x.reads x.wset → exec (.faultInComplete pos page r) s = .next
        ((((done (crossed u x.reads x.wset)).makeResident pos page frame).pageCame pos page).flashReport true)) ∧
      ((s.readPage e.flashPage r).1 = false → exec (.faultInComplete pos page r) s =
        .next (((done u).failPage pos page E.uncorrectable).flashReport false))) ∧
    (∀ unit, s.live = true → unit < 4 → e.flash = true → e.resident = true → e.unitDirty unit = true → s.ms.flash.below 2 = false →
      (∀ w ∈ s.ms.writeBacks, ¬(w.pos = pos ∧ w.page = page ∧ w.unit = unit)) →
      let x := pageCross pos page []
      crosses s x.reads x.wset →
      exec (.writeBack pos page unit) s = .next (((crossed s x.reads x.wset).setPte pos page fun e =>
        { e with dirty := e.dirty &&& ~~~ ((15 : BitVec 16) <<< (4 * unit)) }).updMs fun m =>
          { m with
            writeBacks := m.writeBacks ++ [({ pos := pos, page := page, unit := unit, flashPage := e.flashPage
                                              bytes := rdBytes m.mem (e.frame + 0x4000 * unit) 0x4000, serial := m.serial } : WriteBack)]
            serial := m.serial + 1 })) ∧
    (∀ w unit, s.ms.writeBacks.find? (fun w => w.pos == pos && w.page == page && w.unit == unit) = some w →
      let a := flashAddr w.flashPage + 0x4000 * w.unit
      let units := if s.ms.flash.packed w.flashPage = true then (List.range 4).map (unitOf w.flashPage) else [unitOf w.flashPage w.unit]
      (s.ms.flash.room units.length = true → exec (.writeBackAck pos page unit true) s = .next
        (((({ s with ms := { (s.ms.cleared a 0x4000) with
            mem := wrBytes s.ms.mem a w.bytes, writeBacks := s.ms.writeBacks.filter fun v => v != w } } : State).updFlash fun f =>
          { (f.program units units.length true) with
              sizes := f.sizes.filter (fun e => e.1 != w.flashPage), lifetimeBytes := f.lifetimeBytes + 0x4000 * units.length }).youngPage
                w.flashPage).spareCheck.flashReport true)) ∧
      exec (.writeBackAck pos page unit false) s =
        .next (((s.updFlash fun f => f.retire units.length).spareCheck).flashReport false))

/-- A pool short of free frames opens the eviction of the sweep's victim; a gather engine's read of a flash unit fills the position that
waited for it alone (R277, R334, R337). -/
def Sys2Proof.Claim.sweepsAndDirectReads : Prop :=
  ∀ (s : State), s.live = true →
    (∀ pos page stack k t, (s.job pos).st = .running → s.poolFrames pos stack ≠ [] → (s.freePool pos stack).length < 64 →
      s.freeFwEntry = some k →
      s.sweep pos stack (s.poolFrames pos stack) (2 * (s.poolFrames pos stack).length) = (some page, t) →
      exec (.evictSweep pos stack) s = .next (t.openXing k (t.newXing (.evict pos page) pos [.pte pos page]
        [.pte pos page, .tlb pos page, .unitMap (((t.job pos).pte (page * 0x10000)).elim 0 fun e => e.2.flashPage)] 1))) ∧
    (∀ core unit (r : FlashRead) i d va,
      ((s.engine 4 core).queue.filter fun d => d.fetch.any fun f => match f.2 with
        | .flash us => us.contains unit
        | _ => false) = [d] → d.fetch = [(i, .flash [unit])] → (s.readUnit unit r).1 = true →
      let t := (s.readUnit unit r).2
      t.rowAt d (t.gTab d) i = .here va →
      exec (.gatherFlashReadComplete core unit r) s =
        .next (t.setFetch core d.serial i (.ready ((t.readThrough d.pos va (t.gTab d).rowBytes).getD []))))

/-- Pages move between their frames and the flash tier (R277, R330, R333 to R337). -/
def Obligations.PagesMove : Prop := pagesComeAndGo ∧ sweepsAndDirectReads

/-- The background work of the flash controller (R328, R329, R339 to R341, R575, R585). -/
def Obligations.FlashBackground : Prop :=
  ∀ (s : State) (b fails : Nat), s.live = true →
    let f := s.ms.flash
    let k := f.blk b
    let closed (f : Flash) : Option Nat := if f.openBlock = some b then none else f.openBlock
    exec .pageAgeTick s = .next (s.updFlash fun f => { f with ageTicks := f.ageTicks + 1 }) ∧
    (∀ page, f.fallback = true → s.packable page = true →
      (∀ e ∈ f.map, s.packable (e.1 / 4) = true → f.age (e.1 / 4) ≤ f.age page) →
      let n := (zstdFrame (rdBytes s.ms.mem (flashAddr page) 0x10000)).length
      let g := f.failing (ceilDiv n 0x4000) fails
      (49152 < n → exec (.compressionFallback { num := page, fails := fails }) s =
        .next (s.updFlash fun f => { f with skip := tset 0 page (s.aoc + 2160000000000) f.skip })) ∧
      (n ≤ 49152 → g.room (ceilDiv n 0x4000) = true → exec (.compressionFallback { num := page, fails := fails }) s =
        .next (s.updFlash fun _ => { (g.program ((List.range 4).map (unitOf page)) (ceilDiv n 0x4000) false) with
          sizes := tset 0 page n g.sizes }).spareCheck)) ∧
    (k.st = .valid → (100000 ≤ k.reads ∨ k.retry = true) → exec (.blockRelocation { num := b, fails := fails }) s =
      .next (s.updFlash fun f => ((({ f with openBlock := closed f } : Flash).failing 1 fails).moveAll b).settleBlk b).spareCheck) ∧
    (∀ dst z y, k.st = .valid → (f.blk dst).st = .free → dst < 524288 → (f.blk dst).erases ≤ f.leastFree →
      (z, y) ∈ f.blocks → y.st ≠ .bad → k.erases + 200 < y.erases →
      k.erases ≤ lowest ((f.blocks.filter fun e => e.2.st == .valid).map fun e => e.2.erases) →
      exec (.wearLevelMove { num := b, fails := fails } dst) s = .next (s.updFlash fun f =>
        let g := { (f.updBlk dst (fun k => { k with st := .valid, used := 0 })) with openBlock := some dst }
        { (((g.failing 1 fails).moveAll b).settleBlk b) with openBlock := closed f }).spareCheck) ∧
    (k.st = .invalid → exec (.blockErase b .none) s = .next (s.updFlash fun f =>
      { (f.updBlk b (fun k => { Blk.fresh with erases := k.erases + 1 })) with openBlock := closed f }).spareCheck) ∧
    (k.st = .invalid → exec (.blockErase b .failed) s = .next (s.updFlash fun f =>
      { (f.updBlk b (fun k => { k with st := .bad })) with openBlock := closed f }).spareCheck) ∧
    (b < 524288 → exec (.blockErase b .table) s = .next (s.lostLaw 9 b 0xFFFF))

/-- A scrubber reads the next word of its bank, for the ROW that answers there; the patrol scrub reads a granule; the bridge counts a unit
that fails its CRC and faults on the sixteenth in a row (R23, R238, R239, R320). -/
def Sys2Proof.Claim.scrubbers : Prop :=
  ∀ (s : State), s.live = true →
    (∀ core bank idx ecc, core < 64 → bank < 64 → tget 0 (core * 64 + bank) s.ms.scrubAt = idx →
      let u := s.updMs fun m => { m with scrubAt := tset 0 (core * 64 + bank) ((idx + 1) % 16640) m.scrubAt }
      (∀ r, u.answers (core * 64 + bank) (idx / 32) = some r →
        exec (.scrubWord core bank idx ecc) s = .next (u.checkRead (spBase + 4 * wordOfRow core bank r (idx % 32)) 4 ecc).2) ∧
      (u.answers (core * 64 + bank) (idx / 32) = none →
        exec (.scrubWord core bank idx .clean) s = .next u ∧
        exec (.scrubWord core bank idx .single) s = .next ((u.count (0x1300 + 8 * core)).fire 246) ∧
        exec (.scrubWord core bank idx .double) s = .next (u.count (0x1500 + 8 * core)))) ∧
    (∀ granule ecc, s.pw.standby = false → 64 * granule + 64 ≤ dramEnd → inTranslationMap granule = false →
      (s.checkRead (64 * granule) 64 ecc).2.inSwapRecord granule = none →
      exec (.dramPatrolScrub granule ecc) s = .next (s.checkRead (64 * granule) 64 ecc).2) ∧
    (∀ dir n, n = s.ms.bridgeRetries.getD dir 0 →
      exec (.bridgeUnitReceive dir true) s = .next (s.updMs fun m => { m with bridgeRetries := lset m.bridgeRetries dir 0 }) ∧
      (n + 1 < 16 → exec (.bridgeUnitReceive dir false) s =
        .next ((s.updMs fun m => { m with bridgeRetries := lset m.bridgeRetries dir (n + 1) }).count 0x1000)) ∧
      (16 ≤ n + 1 → exec (.bridgeUnitReceive dir false) s =
        .next ((s.updMs fun m => { m with bridgeRetries := lset m.bridgeRetries dir (n + 1) }).enterFaulted 5 E.uncorrectable 0
          0xFFFFFFFF 0xFFFF)))

/-- At a job boundary the one marked row of a position takes the lowest spare that passes its test, in a crossing; with no such spare the
row stays in use and is counted (R241 to R244). -/
def Sys2Proof.Claim.rowsMapOut : Prop :=
  ∀ (s : State) (pos row k spare : Nat) (failing : List Nat), s.live = true → ((s.job pos).st = .none ∨ (s.job pos).st = .loaded) →
    s.starting pos = false → (s.ms.marked.filter fun r => s.posOf (r / 520 / 64) == pos) = [row] → s.logBusy Rec.repairMap = false →
    s.mapOutOpen 0 = false → s.mapOutOpen 1 = false → s.freeFwEntry = some k → s.ms.remaps.length < 1024 →
    let fails (i : Nat) : Bool := failing.contains (row / 520 * 8 + i)
    let failed := ((s.spareOf row []).takeWhile fails).map fun i => row / 520 * 8 + i
    (((s.spareOf row []).find? fun i => !fails i) = some spare → exec (.rowMapOut pos failing) s = .next
      (s.openXing k (s.newXing (.rowMapOut [rowSpare row spare] failed []) pos [] (mapOutSet [rowSpare row spare]) 1))) ∧
    ((∀ i ∈ s.spareOf row [], fails i = true) → exec (.rowMapOut pos failing) s = .next (s.noteRows failed [row]))

/-- The scrubbers read what their rules give them; marked rows get spares (R23, R238 to R244, R320). -/
def Obligations.ScrubbersAndMapOut : Prop := scrubbers ∧ rowsMapOut

/-! ### Crossings, epochs, moorings and jobs (chapters 6, 10, 12, 13) -/

/-- A firmware crossing of the table, an eviction or a map-out, passes validation and is COMMITTING, or aborts; COMMITTING it lands, or an
error in its own writes puts the device into FAULTED (R296, R301, R312, R337, R242). -/
def Sys2Proof.Claim.tableCrossings : Prop :=
  ∀ (s : State) (k : Nat) (x : XEntry), s.xing k = some x → s.fwUp = true →
    (∃ pos page, x.opener = .evict pos page) ∨ (∃ rows failed unrepaired, x.opener = .rowMapOut rows failed unrepaired) →
    (x.st ≠ .committing → s.timedOut x = false →
      exec (.crossingCommit k .validation) s = .next (s.abortXing k E.uncorrectable) ∧
      (s.xingCode x = E.ok → exec (.crossingCommit k .none) s = .next (s.validated k x)) ∧
      (∀ pos page, x.opener = .evict pos page → (x.reads ++ x.wset).any s.entBad = false → s.evictsClean pos page = false →
        exec (.crossingCommit k .none) s = .next (s.abortXing k E.xingConflict))) ∧
    (x.st = .committing →
      exec (.crossingCommit k .commit) s = .next ((s.dropXing k).enterFaulted 8 E.uncorrectable 0 0xFFFFFFFF 0xFFFF) ∧
      (∀ pos page e, x.opener = .evict pos page → (s.job pos).pages.find? (fun e => e.1 == page) = some (page, e) →
        exec (.crossingCommit k .none) s = .next (((s.landXing k x).setPte pos page fun q =>
          { q with resident := false, frame := 0 }).updMs fun m => { m with refBits := m.refBits.filter fun a => a != e.frame })) ∧
      (∀ rows failed unrepaired r, x.opener = .rowMapOut rows failed unrepaired →
        let new := rows.map s.remapOf
        (s.logRec Rec.repairMap).store s.aoc (repairBytes (s.ms.remaps ++ new)) = (E.ok, r) →
        exec (.crossingCommit k .none) s = .next (((((s.landXing k x).setLog Rec.repairMap r).updMs fun m =>
          { m with remaps := m.remaps ++ new, marked := m.marked.filter fun r => !(rows.map fun n => n / 8).contains r }).countBy
            0x1008 rows.length).noteRows failed unrepaired)))

/-- A crossing that has not begun to commit within its timeout aborts; the host of a group hears of it, and a step commit is answered
E_VERSION_PINNED (R293, R302, R309). -/
def Sys2Proof.Claim.crossingsTimeOut : Prop :=
  ∀ (s : State) (k : Nat) (x : XEntry), s.xing k = some x → x.st ≠ .committing → x.openedAt + x.timeout ≤ s.aoc →
    (∀ core t, x.opener = .thread core t → exec (.crossingTimeout k) s = .next (s.abortXing k E.xingTimeout)) ∧
    (∀ p h, x.opener = .group p h → exec (.crossingTimeout k) s = .next ((s.abortXing k E.xingTimeout).post p
      (s.mkEvent 4 0 E.xingTimeout ({ obj := h } : FaultEv).body))) ∧
    (∀ d, x.opener = .stepCommit 0 → s.epochDecl = some d → exec (.crossingTimeout k) s =
      .next ((s.abortXing k E.versionPinned).stepAnswer d E.versionPinned (2 ^ 64 - 1)))

/-- A step commit reads its request and opens, or refuses it; unpinned it is validated and COMMITTING, and then publishes its epoch and
answers (R294, R296, R302, R358 to R361). -/
def Sys2Proof.Claim.stepCommits : Prop :=
  ∀ (s : State) (k : Nat) (x : XEntry) (d : EpochDecl),
    (s.epochDecl = some d → s.stepXing = none → (s.job 0).reqServed < (s.ctr 0 d.stepCtr).toNat → s.freeFwEntry = some k →
      s.badRange 0 d.stepReq 64 = false →
      let record := s.readJob 0 d.stepReq 64
      let protects : Prop := s.moor.st = .due
      ((s.job 0).refusesCursors (requestCursors record) = true →
        exec .stepCommit s = .next (s.stepAnswer d E.argRange (2 ^ 64 - 1))) ∧
      ((s.job 0).refusesCursors (requestCursors record) = false → ∀ wset acts,
        (protects → wset = XEnt.epochTable :: s.stepGranule d ++ [.protect 0 moorSetEntry] ∧ acts = 3) →
        (¬ protects → wset = XEnt.epochTable :: s.stepGranule d ∧ acts = 2) →
        exec .stepCommit s = .next (s.openXing k
          { s.newXing (.stepCommit 0) 0 [] wset acts with
              writes := [(0, record)], st := if (s.job 0).pinned then .waiting else .opened }))) ∧
    (s.stepXing = some (k, x) → (s.job 0).man.epochs = some d → x.st ≠ .committing → s.epochDecl = some d → s.timedOut x = false →
      (s.job 0).pinned = false → s.stepHeld d = false →
      exec (.stepCommitLand .validation) s = .next ((s.abortXing k E.uncorrectable).stepAnswer d E.uncorrectable (2 ^ 64 - 1)) ∧
      ((x.reads ++ x.wset).any s.entBad = false → (s.job 0).refusesCursors (requestCursors x.record) = true →
        exec (.stepCommitLand .none) s = .next ((s.abortXing k E.argRange).stepAnswer d E.argRange (2 ^ 64 - 1))) ∧
      ((x.reads ++ x.wset).any s.entBad = false → (s.job 0).refusesCursors (requestCursors x.record) = false →
        exec (.stepCommitLand .none) s = .next (s.validated k x))) ∧
    (s.stepXing = some (k, x) → (s.job 0).man.epochs = some d → x.st = .committing →
      exec (.stepCommitLand .none) s = .next (((s.landXing k x).publishStep d x.record
        (x.wset.contains (.protect 0 moorSetEntry))).stepAnswer d E.ok ((s.job 0).current + 1)) ∧
      exec (.stepCommitLand .commit) s =
        .next ((s.dropXing k).enterFaulted 8 E.uncorrectable x.opener.laws x.opener.locator 0xFFFF))

/-- Crossings land or abort whole (R242, R293 to R302, R337, R358 to R361). -/
def Obligations.CrossingsLand : Prop := tableCrossings ∧ crossingsTimeOut ∧ stepCommits

/-- The tide rises at once and falls by one level a second after it last changed (the model's reading, log 97), for some points of the
link input (log 48); a mooring drains its pages, writes them, and is then named by the catalogue (R363 to R371). -/
def Obligations.TideAndMoorings : Prop :=
  ∀ (s : State), s.live = true →
    (∃ (fec : Nat) (level : Nat), fec < 4 ∧
      (let raw := Nat.min 7 ((s.tidePoints fec).foldl (fun a b => a + b) 0)
       level = if s.tide.level < raw then raw
        else if raw < s.tide.level ∧ s.tide.lastChange + secAoc ≤ s.aoc then s.tide.level - 1 else s.tide.level) ∧
      let t : State := { s.takeFree.2 with tide := { s.tide with
        points := s.tidePoints fec, level := level, lastChange := if level = s.tide.level then s.tide.lastChange else s.aoc } }
      let u := if level = s.tide.level then t else t.evTide
      exec .tideEvaluate s = .next (if u.tideDue then u.moorDue else u)) ∧
    (∀ p ecc, s.moor.st = .staging → s.drainEngine = true → s.moor.nextPage = some p →
      let src := s.moorSrc p
      let u := s.checkRead src (pageSize p.large) ecc
      (u.1 = true → exec (.moorStaging ecc) s =
        .next ((u.2.copyPage src p.slot (pageSize p.large)).markStaged src p.slot).settleMoor) ∧
      (u.1 = false → exec (.moorStaging ecc) s = .next (u.2.abandon E.uncorrectable))) ∧
    (∀ fails, s.moor.st = .writing → s.moor.digests = none → (∀ p ∈ s.moor.pages, s.ms.poisoned p.slot (pageSize p.large) = false) →
      s.ms.flash.below 2 = false →
      let u := (s.updFlash fun f => f.failing 1 fails).spareCheck
      u.moor.units ≤ u.ms.flash.freePages → exec (.moorWriting { ok := true, fails := fails }) s = .next u.writeMooring) ∧
    (∀ ds t, s.moor.st = .writing → s.moor.digests = some ds →
      let u : State := { s with moor := { s.moor with st := .moored } }
      (u.logBusy Rec.moorCatalogue = true → exec (.moored true) s = .next u) ∧
      (u.logBusy Rec.moorCatalogue = false →
        u.logStore Rec.moorCatalogue (catalogueBytes s.moor.half s.moor.epoch) = (E.ok, t) →
        exec (.moored true) s =
          .next { t.evMoored with moor := { Moor.closed with gen := t.evMoored.moor.gen, lastPoint := t.evMoored.moor.lastPoint } }))

/-- A restore reads the flash pages of its half, verifies what it loads and applies it when the replica's digest agrees; a job that stalls
ends FAULTED, an ending job is cleared and then leaves its position (R182, R374, R375, R382). -/
def Obligations.RestoresAndJobEnds : Prop :=
  ∀ (s : State) (pos : Nat), s.live = true →
    (∀ reads, let x := s.stored s.restore.half
     let u := s.readPages (x.flashPages.map fun p => (p, p)) reads
     s.restore.phase = .loading →
      (u.1 = true →
        let t := x.pages.foldl (fun (s : State) p => s.copyPage (x.base + p.2) p.1.slot (pageSize p.1.large)) u.2
        exec (.restoreLoadVerify reads) s = .next (if x.verified t.ms.mem then { t with restore := { t.restore with phase := .comparing } }
          else t.restoreFails E.uncorrectable)) ∧
      (u.1 = false → exec (.restoreLoadVerify reads) s = .next (u.2.restoreFails E.uncorrectable))) ∧
    (let x := s.stored s.restore.half
     s.restore.phase = .comparing →
      (∀ d, d ≠ manifestDigest x.record → exec (.restoreCompare (.digest d) .clean) s = .next (s.restoreFails E.digestMismatch)) ∧
      ((∀ p ∈ x.pages, s.ms.poisoned p.1.slot (pageSize p.1.large) = false) →
        exec (.restoreCompare (.digest (manifestDigest x.record)) .clean) s = .next (s.applyRestore x)) ∧
      exec (.restoreCompare (.digest (manifestDigest x.record)) .double) s =
        .next (((s.applyPart x).updJob 0 fun j => { j with unstartable := true }).restoreFails E.uncorrectable)) ∧
    (s.stalled pos = true → 2 ^ (s.job pos).man.stallLog2 ≤ (s.job pos).stall →
      exec (.stallLimit pos) s = .next ((s.evStall pos).endJob pos .faulted E.stall)) ∧
    ((s.job pos).st = .ending → (s.job pos).cleared = false → s.spanBusy pos = false →
      (pos = 0 → ∀ e, s.stepXing = some e → e.2.st ≠ .committing) →
      s.jobWindows pos = [] ∨ (s.freeFwEntry ≠ none ∧ s.heldByXing ((s.jobWindows pos).map .window) = false) →
      let t := s.abortWhere (fun x => x.st != .committing && (match x.opener with
        | .thread core _ => s.posOf core == pos
        | .stepCommit p => p == pos
        | _ => false)) E.noJob
      exec (.jobEnding pos) s = .next (((((((t.discardDescs pos).leaveRings pos).closeWindows pos).clearCores pos).updSpan pos
        fun _ => Span.reset).closeFeeds pos).updJob pos fun j => { j.unbind with swap := [], cleared := true })) ∧
    ((s.job pos).st = .ending → (s.job pos).cleared = true → (∀ p ∈ s.ms.stores, p.pos ≠ pos) → (∀ f ∈ s.ms.faultIns, f.pos ≠ pos) →
      (∀ w ∈ s.ms.writeBacks, w.pos ≠ pos) → (∀ c ∈ (s.job pos).pubs, c.copying = none) → (s.job pos).dirtyUnits = 0 →
      exec (.jobEndDone pos) s = .next (s.leaveJob pos))

/-! ### Azlink and reductions (chapters 14, 15) -/

/-- A frame that link `l` of a running fabric receives and does not discard (R417, R421). -/
def Sys2Proof.Claim.arrives (s : State) (l : Nat) (f : Sys2Proof.Frame) : Prop :=
  s.live = true ∧ s.ownId ≠ none ∧ (s.link l).up = true ∧ s.discards f = false

/-- The receiver with the frame's link credits returned, its acknowledgement taken, and firmware told of it (R419, R424, R550). -/
def Sys2Proof.Claim.received (s : State) (l : Nat) (f : Sys2Proof.Frame) : State :=
  let u := if s.switched l = true ∨ f.pkt.linkCharged = false then s
    else s.sendPlain l ((s.link l).partner.getD f.sa) Wire.ctrl 0 f.pkt.src.toNat (specOf [(20, 1, 2), (22, 2, f.pkt.cost)])
  let u := if f.pkt.ackValid = true ∧ f.pkt.type ≠ Wire.ctrl ∧ f.pkt.vc ≠ 3 then u.ackIn f.pkt.src.toNat f.pkt.vc f.pkt.ackPsn none else u
  if Pkt.forFirmware f.pkt = true then u.setInput (144 + l / 4) true else u

/-- The sequenced packets other than VIEW, each with what tells its frame (R439, R443, R459 to R462, R471). -/
def Sys2Proof.Claim.sequencedPackets (l : Nat) (f : Sys2Proof.Frame) : List (Instr × (Pkt → Bool)) :=
  [(.winWrite l f .clean, isType Wire.winWrite), (.winRead l f, isType Wire.winRead), (.winReadResp l f, isType Wire.winReadResp),
   (.keelExpData l f, fun p => p.type == Wire.keelExp && bits (p.spec' 25 1) 4 1 == 0),
   (.keelLanes l f .clean false, isType Wire.keelLanes), (.fpRing l f, isType Wire.fpRing),
   (.noticeForm l f, isNotice 1), (.noticeReady l f, isNotice 2), (.noticeAccept l f, isNotice 3), (.noticeRetry l f, isNotice 4),
   (.noticeResend l f, isNotice 5), (.noticeVerified l f, isNotice 6), (.noticeFail l f, isNotice 7), (.noticeSettle l f, isNotice 8),
   (.noticeSettled l f, isNotice 9), (.noticeLeave l f, isNotice 10)]

/-- A sequenced packet is taken in order, a duplicate draws an ACK, a gap one NACK, and a frame that fails a check is counted and
changes nothing else (R417, R423, R424). -/
def Obligations.SequencedPackets : Prop :=
  ∀ (s : State) (l : Nat) (f : Sys2Proof.Frame), ∀ o ∈ sequencedPackets l f,
    let k := f.pkt
    let u := received s l f
    (s.live = true → s.ownId ≠ none → (s.link l).up = true → s.discards f = true → exec o.1 s = .next (s.count (0x1800 + 8 * l))) ∧
    (arrives s l f → o.2 k = true → u.isMember k.src.toNat = true →
      (k.psn = (u.vc k.src.toNat k.vc).rxExpected → exec o.1 s = .next ((u.updVc k.src.toNat k.vc fun c =>
        { c with rxExpected := c.rxExpected + 1, nacked := false, held := c.held ++ [k] }).rxGo k.src.toNat k.vc
          ((u.vc k.src.toNat k.vc).held.length + 1))) ∧
      (follows (u.vc k.src.toNat k.vc).rxExpected k.psn = true → exec o.1 s = .next (u.sendAck k.src.toNat k.vc)) ∧
      (follows k.psn (u.vc k.src.toNat k.vc).rxExpected = true → follows (u.vc k.src.toNat k.vc).rxExpected k.psn = false →
        (u.vc k.src.toNat k.vc).nacked = false → exec o.1 s = .next ((u.updVc k.src.toNat k.vc fun c =>
          { c with nacked := true }).sendNack k.src.toNat k.vc E.ok (u.vc k.src.toNat k.vc).rxExpected 0)))

/-- The membership and control packets, and PFC (R412, R419 to R434, R593). -/
def Obligations.MembershipAndControl : Prop :=
  ∀ (s : State) (l : Nat) (f : Sys2Proof.Frame), arrives s l f →
    let p := f.pkt.src.toNat
    let u := received s l f
    let sub (t : Byte) (n : Nat) : Prop := f.pkt.type = t ∧ f.pkt.spec' 20 1 = n
    (sub Wire.member 1 → u.isCoord = true → some p ≠ u.cfg.peerId → u.isMember p = false →
      exec (.join l f) s = .next (let v := (u.heardOn p l f.sa).updPeer p fun x => { x with st := if x.st == .member then .member else .joining }
        { v with az := { v.az with joins := if v.az.joins.contains p then v.az.joins else v.az.joins ++ [p] } })) ∧
    (sub Wire.member 2 → exec (.view l f) s = .next ((u.heardOn p l f.sa).seqIn f.pkt)) ∧
    (sub Wire.member 3 → u.isMember p = true → exec (.heartbeat l f) s = .next (u.updPeer p fun x => { x with lossOpen := false })) ∧
    (sub Wire.member 4 → u.isCoord = true → u.isMember p = true → u.isMember (f.pkt.spec' 24 4) = true →
      exec (.loss l f) s = .next (u.updPeer (f.pkt.spec' 24 4) fun x => { x with lossOpen := true })) ∧
    (sub Wire.member 5 → u.az.refused = false → exec (.refuse l f) s =
      .next (({ u with az := { u.az with refused := true } } : State).evFault E.peerDuplicate { job := 0xFF }).bootDone) ∧
    (sub Wire.ctrl 1 → f.pkt.ackValid = true → exec (.ack l f) s =
      .next ((u.ackIn p f.pkt.vc f.pkt.ackPsn (if f.pkt.vc = 3 then some f.pkt.payload else none)).grantIn p (f.pkt.spec' 22 2))) ∧
    (sub Wire.ctrl 2 → u.switched l = false → ∃ v < 8, exec (.linkCredit l f false) s = .next ((u.takeFree.2.updLink l fun k =>
      { k with credits := lset k.credits v (Nat.min 128 (k.credits.getD v 0 + f.pkt.spec' 22 2)) }).drainLink l)) ∧
    (sub Wire.ctrl 3 → exec (.hello l f) s = .next (u.heardOn p l f.sa)) ∧
    (sub Wire.ctrl 4 → u.isMember p = true →
      (u.az.reserve < 64 → exec (.creditReq l f .clean) s = .next (u.sendNack p 0 E.credit 0 0)) ∧
      (64 ≤ u.az.reserve → (u.peer p).allot < 1024 →
        let g := Nat.min 64 (1024 - (u.peer p).allot)
        let v := u.updPeer p fun x => { x with allot := x.allot + g }
        let w : State := { v with az := { v.az with reserve := v.az.reserve - g } }
        exec (.creditReq l f .clean) s = .next (w.transmit p (w.mkPkt Wire.ctrl 0 p (specOf [(20, 1, 1), (22, 2, g)]) [])))) ∧
    (f.pkt.type = Wire.nack → exec (.nack l f) s = .next (u.nackIn f.pkt)) ∧
    (∀ en times, s.switched l = true → exec (.pfcFrame l en times) s =
      .next (((List.range 8).foldl (fun s v => if en.getLsbD v = true then s.updLink l fun k =>
        { k with paused := lset k.paused v (if times.getD v 0 = 0 then 0 else s.aoc + s.pauseCounts l (times.getD v 0).toNat) } else s)
          s).drainLink l))

/-- What the timers of the Azlink fabric do when they are due, and links that fail and return (R421 to R434). -/
def Sys2Proof.Claim.azlinkTimers : Prop :=
  ∀ (s : State) (p v l : Nat), s.azLive = true →
    let c := s.vc p v
    (c.unacked ≠ [] → exec (.resendTimeout p v) s = .next (((s.timeoutShown p v).updVc p v fun c =>
      { c with rto := Nat.min 6400 (2 * (if (s.vc p v).rto = 0 then s.setting 0x1201 else (s.vc p v).rto)) }).resendFrom p v c.txAcked)) ∧
    (s.isMember p = true → (∃ e ∈ (s.peer p).vcs, e.2.unacked ≠ [] ∨ e.2.waiting ≠ []) →
      let g := ((s.timeoutShown p 0).peerGone p).ringPeerGone p
      let t : State := { g with tide := { g.tide with peerLoss := g.aoc :: g.tide.peerLoss } }
      exec (.peerTimeout p) s = .next (if t.isCoord then t.updPeer p fun x => { x with lossOpen := true }
        else match t.az.coord with
          | some q => t.sendMember q 4 p
          | none => t)) ∧
    (c.due ≠ 0 → exec (.ackTimer p v) s = .next (s.sendAck p v)) ∧
    (∀ t rest, c.waiting = t :: rest → (s.peer p).tx < t.cost →
      exec (.creditWait p v) s = .next (s.transmit p (s.mkPkt Wire.ctrl 0 p (specOf [(20, 1, 4)]) []))) ∧
    ((s.link l).up = true →
      exec (.helloSend l) s = .next (s.sendPlain l (s.discovery l) Wire.ctrl 0 0xFFFF (specOf [(20, 1, 3)])) ∧
      ∀ cause, exec (.linkDown l cause) s = .next (
        let t := s.updLink l fun _ => Link.down
        let t : State := { t with az := { t.az with peers := t.az.peers.map fun e => (e.1, { e.2 with links := e.2.links &&& ~~~ ((1 : BitVec 64) <<< l) }) } }
        let t := (t.count (0x1A00 + 8 * l)).setInput (160 + l) true
        { t with tide := { t.tide with retrains := (t.aoc, l) :: t.tide.retrains } })) ∧
    (s.linkExists l = true → (s.link l).up = false →
      exec (.linkUp l) s = .next ((s.updLink l fun _ => { Link.down with up := true }).setInput (160 + l) false)) ∧
    (s.az.refused = false → s.upLinks ≠ [] → s.az.view.contains (s.cfg.peerId.getD 0xFFFF) = false → exec .joinSend s = .next (
      s.upLinks.foldl (fun s l => s.sendPlain l (s.discovery l) Wire.member 7 0xFFFF (specOf [(20, 1, 1), (22, 2, 0xFFFF)]))
        { s with az := { s.az with firstJoin := some (s.az.firstJoin.getD s.aoc) } })) ∧
    (s.isCoord = true → exec .heartbeatSend s = .next
      ((s.az.view.filter fun p => some p != s.cfg.peerId).foldl (fun s p => s.sendMember p 3 s.az.view.length) s)) ∧
    (∀ q, s.isCoord = false → s.az.coord = some q → exec .heartbeatSend s = .next (s.sendMember q 3 s.az.view.length)) ∧
    (s.isMember p = true → s.isCoord = true → s.az.losses.contains p = false →
      exec (.hbTimeout p) s = .next { s with az := { s.az with losses := s.az.losses ++ [p] } } ∧
      ((s.peer p).lossOpen = true → exec (.lossReachTimeout p) s = .next { s with az := { s.az with losses := s.az.losses ++ [p] } })) ∧
    (s.isCoord = true → s.az.joins ≠ [] ∨ s.az.losses ≠ [] → (∀ t, s.az.lastView = some t → t + 25000 ≤ s.aoc) →
      exec .viewPublish s = .next (s.publishView ((List.range 32768).filter fun p =>
      (s.az.view.contains p || s.az.joins.contains p) && !s.az.losses.contains p))) ∧
    (∀ me, s.cfg.peerId = some me → s.az.view = [] → s.az.refused = false →
      (∃ t, s.az.firstJoin = some t ∧ t + 5000000 ≤ s.aoc) ∨ (s.bootPending = true ∧ s.upLinks = []) →
      exec .fleetOfOne s = .next (s.adopt 1 [me]))

/-- A ring that does not form or does not form again in time ends what waits on it with E_PEER_GONE (R454, R474). -/
def Sys2Proof.Claim.ringTimeouts : Prop :=
  ∀ (s : State) (k : Nat) (x : RingCtx), s.live = true → s.ring k = some x →
    (x.st ≠ .ready → x.openDesc ≠ none → exec (.ringFormTimeout k) s = .next (s.openFails k E.peerGone)) ∧
    (x.st = .broken →
      (x.openDesc = none → exec (.ringReformTimeout k) s =
        .next (((x.buckets.foldl (fun s b => s.endBucket k b.id { err := E.peerGone }) s).evFault E.peerGone
          { job := x.job, obj := k }).formAgain k)) ∧
      (∀ b, x.bucket b ≠ none → exec (.bucketBrokenTimeout k b) s =
        .next ((s.endBucket k b { err := E.peerGone }).evFault E.peerGone { job := x.job, obj := k })))

/-- The timers of Azlink and of its reduction contexts (R421 to R434, R454, R474). -/
def Obligations.AzlinkTimers : Prop := azlinkTimers ∧ ringTimeouts

/-! ### Host ports and capsules (chapters 16, 17, 22) -/

/-- A write that covers a slot's seal is examined, and a good slot is taken; the oldest event goes into the ring against a credit, or
into the bootstrap block; one message announces what was written (R479, R484, R492 to R496). -/
def Obligations.LandingAndEvents : Prop :=
  ∀ (s : State) (p : Nat), p < 2 → s.portUp p = true →
    let q := s.port p
    (∀ slot (data : List Byte), slot < 4096 → data.length = 64 → exec (.landingSealWrite p (64 * slot) data false) s = .next (
      let t := s.updPort p fun q => { q with slots := wrBytes q.slots (64 * slot) data }
      let good := fun t : State => t.updPort p fun q => q.markSealed slot true
      let bad := fun (t : State) c => (t.updPort p fun q => q.markSealed slot false).slotFault p slot c
      (match (t.port p).sealing slot with
        | .good => good t
        | .misSequenced => bad t E.capSeq
        | .unsealed => bad t E.capSeal).takeAll p)) ∧
    (∀ r e rest, s.toBlock p = false → q.ring = some r → q.queue = e :: rest → r.credits ≠ 0 → (r.credits = 1 → q.lcredits ≠ 0) →
      exec (.eventWrite p false) s = .next (((s.out (.hostWrite p (r.addr + 64 * (q.evseq.toNat % r.entries))
          (e.capsule q.evseq.toNat (Nat.min 65535 q.lcredits)))).updPort p fun q => { (q.shift e rest) with
        ring := some { r with credits := r.credits - 1, written := r.written + 1 }
        toAnnounce := q.toAnnounce ++ [if e.isResponse then 0 else 1] }).takeAll p)) ∧
    (q.lcredits ≠ 0 → q.queue = [] → q.takenAt + 50 ≤ s.aoc → exec (.evCredit p) s = .next (s.post p (s.mkEvent 1 0 E.ok []))) ∧
    (∀ r, q.ring = some r → q.toAnnounce ≠ [] → (∀ t, q.lastMsix = some t → t + 25 * r.moderation ≤ s.aoc) →
      exec (.msixSend p) s = .next ((s.sendMsix p (if ∀ k ∈ q.toAnnounce, k = 0 then r.vecResp else r.vecAsync)).updPort p fun q =>
        { q with toAnnounce := [], lastMsix := some s.aoc })) ∧
    (∀ e rest, q.queue = e :: rest → s.toBlock p = true → q.blockValid = false → exec (.bootstrapEventWrite p) s =
      .next (((s.updPort p fun q => { (q.shift e rest) with
        block := e.capsule q.evseq.toNat (Nat.min 65535 q.lcredits), blockValid := true }).sendMsix p 0).takeAll p))

/-- The port acts on capsules (R486, R561). -/
def Sys2Proof.Claim.acts (s : State) (p : Nat) : Prop := s.fwUp = true ∧ s.iu.asleep = false ∧ p < 2

/-- The next ordered capsule of the port has the opcode, passes the common checks of R487 and runs in `u`. -/
def Sys2Proof.Claim.turnOf (s : State) (p op : Nat) (r : Running) (u : State) : Prop :=
  acts s p ∧ (s.port p).nextOrdered = some r ∧ r.opcode = op ∧
  u = (s.updPort p fun q => { (q.dropTaken r) with running := some { r with since := s.aoc } }) ∧ u.commonCode r = E.ok

/-- The capsules that may stand in a group (R307). -/
def Sys2Proof.Claim.groupableCaps (p : Nat) : List (Nat × Instr) :=
  [(Cap.feedOpen, .feedOpen p), (Cap.feedClose, .feedClose p), (Cap.resultRelease, .resultRelease p),
   (Cap.settingsSet, .settingsSet p), (Cap.settingsStore, .settingsStore p), (Cap.moorNow, .moorNow p)]

/-- A groupable capsule outside a group, whose entries no crossing holds and whose own crossing has a free entry (R288, R292, R296). -/
def Sys2Proof.Claim.aloneOf (s : State) (p op : Nat) (r : Running) (u : State) : Prop :=
  turnOf s p op r u ∧ (u.port p).group = none ∧ s.heldByXing (s.capEntries p r) = false ∧
  (u.capEntries p r = [] ∨ u.freeGroupEntry p ≠ none)

/-- QUERY, CREDIT and EVQ_SETUP (R491, R492, R499). -/
def Sys2Proof.Claim.portCapsules : Prop :=
  ∀ (s u : State) (p : Nat) (r : Running),
    (∀ op, acts s p → (s.port p).taken.find? (fun r => r.opcode == op) = some r → u = s.updPort p (fun q => q.dropTaken r) →
      u.commonCode r = E.ok →
      (∀ b, op = Cap.query → u.queryRecord p (r.arg 12 2) (r.arg 16 4) = some b → 28 * r.arg 14 2 < b.length →
        exec (.query p) s = .next (u.respond p r E.ok (slice b (28 * r.arg 14 2) 28))) ∧
      (∀ g, op = Cap.credit → (u.port p).ring = some g → r.arg 12 4 ≤ g.written → exec (.credit p) s = .next ((u.updPort p fun q =>
        { q with reserved := q.reserved - 1
                 ring := q.ring.map fun g => { g with credits := g.credits + r.arg 12 4, written := g.written - r.arg 12 4 } }).takeAll p))) ∧
    (turnOf s p Cap.evqSetup r u → r.ring.code = E.ok →
      exec (.evqSetup p) s = .next ((u.updPort p fun q => { q with ring := some r.ring }).answerFirst p r))

/-- A capsule outside a group that fails a check is answered and changes nothing else (R310); otherwise it acts in a crossing of its own,
which is counted (R288, R311): a feed opens and closes, a result is released, a staged record is stored, a mooring becomes due (R372,
R503, R506, R507, R510, R536). -/
def Sys2Proof.Claim.groupablesAct : Prop :=
  ∀ (s u : State) (p : Nat) (r : Running),
    let landed (t : State) (es : List XEnt) : State := crossed t [] es
    (∀ o ∈ groupableCaps p, aloneOf s p o.1 r u → (u.applyCap p r).code ≠ E.ok →
      exec o.2 s = .next (u.answer p (u.applyCap p r).code [])) ∧
    (∀ d, aloneOf s p Cap.feedOpen r u → r.cargo = false → r.arg 12 1 ≤ 1 →
      let pos := r.arg 12 1
      let i := r.arg 13 1
      let f := (u.job pos).feed i
      (u.job pos).present = true → u.mayAct pos p = true → f.isOpen = false →
      (u.job pos).man.feeds.find? (fun d => d.feed == i) = some d → ringRecordsOk (r.arg 24 4) = true → d.blockRecs ≤ r.arg 24 4 →
      (f.opened = true → r.arg 48 8 = f.cursor) → r.arg 28 4 = d.recBytes → r.feedAligned = true →
      exec (.feedOpen p) s = .next ((landed (u.updJob pos fun j => j.updFeed i fun f => f.bind p r) [.feed pos i]).answer p E.ok
        (leBytes 8 (f.startAt (r.arg 48 8))))) ∧
    (aloneOf s p Cap.feedClose r u → r.cargo = false → r.arg 12 1 ≤ 1 → r.arg 13 1 ≤ 7 →
      let pos := r.arg 12 1
      let i := r.arg 13 1
      let f := (u.job pos).feed i
      (u.job pos).present = true → u.mayAct pos p = true → f.isOpen = true →
      let t := landed (u.updJob pos fun j => j.updFeed i Feed.shut) [.feed pos i]
      (((t.job pos).feed i).isOpen = false → exec (.feedClose p) s = .next (t.answer p E.ok (leBytes 8 f.cursor))) ∧
      (((t.job pos).feed i).isOpen = true → exec (.feedClose p) s = .next t)) ∧
    (let h := r.arg 12 2
     let x := u.result h
     aloneOf s p Cap.resultRelease r u → h ≤ 1023 → u.mayAct (posOfHandle h) p = true → x.st = .ready → exec (.resultRelease p) s =
        .next ((landed (u.setResult h { x with st := .released, data := [] }) [.result h]).answer p E.ok (leBytes 4 x.publication.toNat))) ∧
    (∀ d, aloneOf s p Cap.settingsSet r u → settingDef (r.arg 12 2) = some d → r.arg 14 1 = d.len →
      (∀ i < 32, d.len ≤ i → r.arg (16 + i) 1 = 0) → d.lo ≤ r.arg 16 d.len → r.arg 16 d.len ≤ d.hi →
      exec (.settingsSet p) s = .next ((u.updPort p fun q => { q with staged := q.staged.filter (fun x => x.1 != r.arg 12 2) ++
        [(r.arg 12 2, slice (r.bytes.drop 16) 0 d.len)] }).answer p E.ok [])) ∧
    (∀ x, aloneOf s p Cap.settingsStore r u → r.arg 12 2 ∈ settingsRecords → u.hasStaged p (r.arg 12 2) = true →
      u.logBusy (r.arg 12 2) = false → (u.logRec (r.arg 12 2)).store u.aoc (u.settingsBytes p (r.arg 12 2)) = (E.ok, x) →
      exec (.settingsStore p) s = .next
        ((landed ((u.setLog (r.arg 12 2) x).clearStaged p (r.arg 12 2)) [.logbook (r.arg 12 2)]).answer p E.ok [])) ∧
    (aloneOf s p Cap.moorNow r u → (u.job 0).st = .running → u.mayAct 0 p = true → u.moor.st = .idle →
      exec (.moorNow p) s = .next ((landed u.moorDue [.mooring]).answer p E.ok []))

/-- RESULT_READ writes the bytes to host memory before its response (R480, R510). -/
def Sys2Proof.Claim.resultsAreRead : Prop :=
  ∀ (s u : State) (p : Nat) (r : Running), turnOf s p Cap.resultRead r u →
    let h := r.arg 12 2
    let x := u.result h
    let n := if r.arg 24 8 = 0 then x.length - r.arg 16 8 else r.arg 24 8
    h ≤ 1023 → r.arg 32 8 % 64 = 0 → u.mayAct (posOfHandle h) p = true → x.st = .ready → r.arg 16 8 + n ≤ x.length → exec (.resultRead p) s =
      .next ((u.out (.hostWrite p (r.arg 32 8) (slice x.data (r.arg 16 8) n))).answer p E.ok
        (leBytes 8 n ++ leBytes 4 x.publication.toNat ++ leBytes 4 x.crc.toNat))

/-- Capsules act on the device, or are answered and change nothing else (R310, R372, R491, R492, R499, R503, R506, R510, R535, R536). -/
def Obligations.CapsulesAct : Prop := portCapsules ∧ groupablesAct ∧ resultsAreRead

/-- A group opens, lands whole or is aborted; its commit is answered once the last feed that it closes has closed (R292, R296, R307,
R308, R506). -/
def Obligations.CapsuleGroups : Prop :=
  ∀ (s u : State) (p k : Nat) (r : Running) (g : Nat × List (Nat × List Byte)) (x : XEntry),
    (turnOf s p Cap.xingBegin r u → (u.port p).group = none → u.freeGroupEntry p = some k →
      let h := u.nextHandle.toNat
      let v := u.openXing k (u.newXing (.group p h) 0 [] [] 0)
      exec (.xingBegin p) s = .next ((({ v with nextHandle := v.nextHandle + 1 } : State).updPort p fun q =>
        { q with group := some (h, []) }).answer p E.ok (leBytes 4 h))) ∧
    (u.openGroup p = some (g, k, x) → u.timedOut x = false → g.1 = r.arg 12 4 →
      (turnOf s p Cap.xingCommit r u →
        let a := u.applyAll p g.2
        let left := a.state.stillClosing g.2
        let t := (a.state.landXing k x).updPort p fun q => { q.endGroup g.1 E.ok with landing := left }
        (a.code = E.ok → left = [] → exec (.xingCommit p) s = .next (t.answer p E.ok [])) ∧
        (a.code = E.ok → left ≠ [] → exec (.xingCommit p) s = .next t) ∧
        (a.code ≠ E.ok → exec (.xingCommit p) s = .next ((u.abortXing k a.code).answer p a.code []))) ∧
      (turnOf s p Cap.xingAbort r u → exec (.xingAbort p) s = .next ((u.abortXing k E.xingAborted).answer p E.ok []))) ∧
    (u.openGroup p = some (g, k, x) → u.timedOut x = false → g.2.length < 64 →
      ∀ o ∈ groupableCaps p, turnOf s p o.1 r u → s.heldByXing (s.capEntries p r) = false →
      let before := u.applyAll p g.2
      let a := before.state.applyCap p r
      let wset := x.wset ++ (before.state.capEntries p r).filter fun e => !x.wset.contains e
      before.code = E.ok → a.code = E.ok → wset.length ≤ 256 →
      exec o.2 s = .next (((u.updPort p fun q => { q with group := some (g.1, g.2 ++ [(r.opcode, r.bytes)]) }).updXing k fun x =>
        { x with acts := x.acts + 1, wset := wset }).answer p E.ok a.data))

/-- JOB_LOAD and IMAGE_STAGE that pass their first checks wait for their cargo; a programmed image is answered; a job starts and stops;
a restore starts; a report is signed (R373, R379, R488, R501, R527, R528, R579). -/
def Obligations.JobAndImageCapsules : Prop :=
  ∀ (s u : State) (p : Nat) (r : Running),
    (turnOf s p Cap.jobLoad r u → u.loadCode p r = E.ok → exec (.jobLoad p) s = .next u) ∧
    (turnOf s p Cap.imageStage r u → u.stageCode p r = E.ok → exec (.imageStage p) s = .next u) ∧
    (turnOf s p Cap.jobStart r u → s.mapOutOpen (r.arg 12 1) = false → u.startCode p (r.arg 12 1) = E.ok →
      ((u.job (r.arg 12 1)).pinPages = [] → exec (.jobStart p) s = .next ((u.startJob (r.arg 12 1)).answer p E.ok [])) ∧
      ((u.job (r.arg 12 1)).pinPages ≠ [] → exec (.jobStart p) s = .next u)) ∧
    (∀ pos reads, s.live = true → (s.job pos).st = .loaded → s.starting pos = true → s.mapOutOpen pos = false → s.freeFwEntry ≠ none →
      s.heldByXing ((s.job pos).pinPages.map fun p => .pte pos p.1) = false →
      let v := s.readPins pos reads
      (v.1 = true → ((v.2.job pos).pinPages.any fun p => v.2.entBad (.pte pos p.1)) = false →
        exec (.jobStartPinsDone pos reads) s = .next (((v.2.pinIn pos).startJob pos).answerJob Cap.jobStart pos E.ok)) ∧
      (v.1 = false → exec (.jobStartPinsDone pos reads) s = .next (v.2.answerJob Cap.jobStart pos E.uncorrectable))) ∧
    (turnOf s p Cap.jobStop r u → u.stopCode p (r.arg 12 1) = E.ok →
      ((u.job (r.arg 12 1)).st = .loaded → exec (.jobStop p) s = .next (u.unloadJob (r.arg 12 1))) ∧
      ((u.job (r.arg 12 1)).st = .running → exec (.jobStop p) s = .next (u.endJob (r.arg 12 1) .stopped E.ok))) ∧
    (∀ half, turnOf s p Cap.restore r u → (u.job 0).st = .loaded → u.mayAct 0 p = true → u.starting 0 = false → u.restore.phase = .none →
      (u.moor.st = .idle ∨ u.moor.st = .due) → u.mooringFor = some half → r.arg 12 2 ≤ 32767 → exec (.restore p) s =
        .next (({ u with restore := { phase := .loading, half := half, replica := r.arg 12 2 } } : State).answer p E.ok [])) ∧
    (turnOf s p Cap.attest r u → r.arg 44 8 % 64 = 0 →
      let b := u.report (slice r.bytes 12 32)
      (b.length ≤ r.arg 52 4 → exec (.attest p) s = .next ((u.out (.hostWrite p (r.arg 44 8) b)).answer p E.ok (leBytes 4 b.length))) ∧
      (r.arg 52 4 < b.length → exec (.attest p) s = .next (u.answer p E.noSpace (leBytes 4 b.length)))) ∧
    (s.fwUp = true → p < 2 → (s.port p).running = some r → r.opcode = Cap.imageStage → r.data ≠ [] → s.pw.bootWpN = true →
      s.boot.holding = false →
      exec (.imageStageProgramDone p true) s =
        .next ((((s.programBank (r.arg 12 1) r.data).fire 265).cargoTaken p (r.arg 16 8)).answer p E.ok []))

/-- Cargo: read and handed to the capsule that waits for it, or timed out; opened and closed through its registers (R488, R507,
R625). -/
def Sys2Proof.Claim.cargoCommands : Prop :=
  ∀ (s : State) (p : Nat) (r : Running), p < 2 →
    (s.fwUp = true → (s.port p).running = some r → r.awaitsCargo = true →
      (∀ prod (data : CargoIn), (s.port p).cargo.isOpen = true → (s.port p).cargo.cursor + cargoRecords (r.arg 16 8) ≤ prod.toNat →
        data.bytes.length = 4096 * cargoRecords (r.arg 16 8) → s.aoc ≤ r.since + 25000000 →
        let t := s.updCargo p fun c => { c with lastProd := prod.toNat }
        exec (.cargoReadDone p prod data) s = .next (if r.opcode = Cap.jobLoad then t.loadCargo p r data else t.stageCargo p r data.bytes)) ∧
      (r.since + 25000000 ≤ s.aoc → exec (.cargoTimeout p) s = .next (s.answer p E.capCargo []))) ∧
    (s.portUp p = true →
      let c := (s.port p).cargo
      (c.isOpen = false → ringRecordsOk c.records = true → c.ring % 64 = 0 → c.prod % 8 = 0 → c.cons % 8 = 0 →
        exec (.cargoOpen p) s = .next ((s.conflict [.cargo p]).updCargo p fun c => { c with isOpen := true, code := E.ok })) ∧
      (c.isOpen = true → exec (.cargoClose p) s = .next ((s.conflict [.cargo p]).updCargo p fun c => { c with isOpen := false, code := E.ok })) ∧
      (c.isOpen = true → exec (.cargoOpen p) s = .next (s.updCargo p fun c => { c with code := E.busy })) ∧
      (c.isOpen = false → exec (.cargoClose p) s = .next (s.updCargo p fun c => { c with code := E.noJob })))

/-- A feed's block is announced, read and delivered with its cursor; a publication is copied and its result becomes READY (R504 to
R508). -/
def Sys2Proof.Claim.feedsAndPublication : Prop :=
  ∀ (s : State) (pos i : Nat),
    (∀ f d, s.openFeed pos i = some (f, d) →
      (f.closing = false → f.pulling = false → s.feedRoom pos d = true →
        (f.cursor + d.blockRecs ≤ f.prod →
          exec (.feedPull pos i) s = .next (s.updJob pos fun j => j.updFeed i fun f => { f with pulling := true })) ∧
        (f.prod < f.cursor + d.blockRecs → ∀ prod,
          exec (.feedProdPoll pos i prod true) s = .next (s.updJob pos fun j => j.updFeed i fun f => { f with prod := prod.toNat }) ∧
          exec (.feedProdPoll pos i prod false) s =
            .next (((s.conflict [.feed pos i]).closeFeed pos i).evFault E.argRange { job := pos, obj := i }))) ∧
      (∀ data rs, f.pulling = true → data.length = d.blockRecs * d.recBytes → s.spanOf pos (d.blockAddr f.blocks) data.length true = .runs rs →
        s.mustHold pos (d.blockAddr f.blocks) data.length = false →
        exec (.feedBlockDelivered pos i data true) s = .next (s.deliver pos i f d data))) ∧
    (∀ d c, s.live = true → (s.job pos).man.publish[i]? = some d → (s.job pos).pubs[i]? = some c →
      (let q := pubRecOf (((c.markOf (c.served + 1)).map PubMark.record).getD (s.readJob pos d.recAddr 64))
       (s.job pos).st = .running → c.copying = none → c.served < (s.ctr pos d.pubCtr).toNat → s.badRange pos d.recAddr 64 = false →
        (s.pubCode pos q = E.ok → (s.result q.handle).st = .empty ∨ (s.result q.handle).st = .released → s.storeUsed + q.length ≤ 0x10000000 →
          exec (.publish pos i) s = .next ((s.setResult q.handle { s.result q.handle with
              st := .copying, job := pos, length := q.length, data := [], owner := (s.job pos).owner }).updJob pos fun j =>
            j.updPub i fun c => { c with served := c.served + 1, copying := some (q.handle, q.addr) })) ∧
        (s.pubCode pos q ≠ E.ok → exec (.publish pos i) s = .next (s.jobFault pos (s.pubCode pos q) { job := pos, obj := q.handle }))) ∧
      (∀ h a data, c.copying = some (h, a) → (s.job pos).st = .running ∨ (s.job pos).st = .ending →
        let n := (s.result h).length
        let t := ((s.sees pos [(a, n)] []).2.1).updJob pos fun j => j.updPub i fun c =>
          { c with copying := none, marks := c.marks.filter fun m => decide (c.served < m.hi) }
        s.absentPages pos a n = [] → t.readsBad pos [(a, n)] = false → t.readThrough pos a n = some data →
        let v := t.pubContent pos d.recAddr c data
        exec (.publishCopyDone pos i) s = .next ((v.2.publishResult pos h v.1).bumpCtr pos d.ackCtr) ∧
        ((∀ m, c.markOf c.served = some m → t.pubBroken pos d.recAddr m = false) → v = (data, t))))

/-- Cargo, feeds and publication (R488, R504 to R508, R625). -/
def Obligations.CargoFeedsPublication : Prop := cargoCommands ∧ feedsAndPublication

/-! ### Registers, boot, power, debug, interrupts (chapters 17 to 22) -/

/-- The port reset, PERST and the writable BAR0 registers (R481, R601, R617 to R627). -/
def Obligations.PortsAndRegisters : Prop :=
  ∀ (s : State) (p : Nat), p < 2 →
    (s.fwUp = true →
      (s.groupEntry p = none → exec (.portReset p) s = .next (((s.updPort p fun q => q.afterReset).shutFeeds p).fire (228 + p))) ∧
      (∀ k, s.groupEntry p = some k → exec (.portReset p) s =
        .next (((((s.dropXing k).count (abortCounter E.xingAborted)).updPort p fun q => q.afterReset).shutFeeds p).fire (228 + p)))) ∧
    (s.pw.pwrGood = true → s.pw.goodSince + 2500000 ≤ s.aoc →
      exec (.perstRelease p) s = .next { s with pw := { s.pw with perst := lset s.pw.perst p true } }) ∧
    (s.portUp p = true →
      exec (.bootRespValidClear p 1) s = .next (s.updPort p fun q => { q with blockValid := false }) ∧
      (s.snap.valid = true → exec (.snapValidClear p ((1 : W64) <<< 63)) s =
        .next { s with snap := { Snapshot.reset with lawsReported := s.snap.lawsReported } }) ∧
      (∀ off (v : W64), off % 8 = 0 → 0x600 ≤ off → off < 0x620 →
        ((s.port p).cargo.isOpen = true → exec (.registerWrite p off 8 v) s = .next (s.updCargo p fun c => c)) ∧
        ((s.port p).cargo.isOpen = false → off ≠ 0x608 → exec (.registerWrite p off 8 v) s = .next (s.updCargo p fun c =>
          if off = 0x600 then { c with ring := v.toNat } else if off = 0x610 then { c with prod := v.toNat }
          else { c with cons := v.toNat }))) ∧
      (∀ off (v : W64), off % 8 = 0 → off < 0x200 → exec (.registerWrite p off 8 v) s = .next s))

/-- A boot that finds its bank good and no failure brings the fabric up; with no bank bootable it ends in Holding (R519 to R522); the
logbook's firmware records, and standby (R529, R544). -/
def Obligations.BootAndStandby : Prop :=
  ∀ (s : State),
    (∀ ra rb (r : BootRun), s.dev = .idle → s.boot.booting = true → s.boot.holding = false → s.logBusy Rec.windowGen = false →
      s.oldRoots = [] ∨ s.logBusy Rec.flashRoot = false →
      let a := s.beginBoot.bankCode 0 ra s.beginBoot.storedOwner
      let b := a.2.bankCode 1 rb a.2.storedOwner
      let booted (u : State) (bank : Nat) : State :=
        let v := (((u.configure bank).zeroed r.zeroing).firstKey).finishErase
        let f := if r.fail = .none ∧ (v.logRec Rec.flashRoot).payload = none then .map else r.fail
        if f = .none then v.bringUp else v.bootFails f
      exec (.boot ra rb r) s = .next (if a.1 = E.ok then booted a.2 0 else if b.1 = E.ok then booted b.2 1
        else b.2.enterHolding a.1 b.1)) ∧
    (s.live = true → exec .lifetimeStore s = .next (s.logFirmware Rec.lifetime s.lifetimeBytes)) ∧
    (s.live = true → s.ms.flash.powered = true → (∀ t, s.ms.flash.lastCheckpoint = some t → t + 1500000000 ≤ s.aoc) →
      s.logBusy Rec.flashRoot = false → ∃ a b,
        let t := s.takeFree.2.takeFree.2.logStore Rec.flashRoot (flashRootBytes a b s.wrappedKey)
        (t.1 = E.ok → exec .mapCheckpoint s = .next (t.2.updFlash fun f =>
          { f with root := f.map, journal := [], lastCheckpoint := some s.aoc })) ∧
        (t.1 ≠ E.ok → exec .mapCheckpoint s = .next t.2)) ∧
    (s.mayStandby = true → s.pw.standby = false → exec .standbyEnter s = .next { s with pw := { s.pw with standby := true } }) ∧
    (s.pw.standby = true → exec .standbyExit s = .next ((({ s with pw := { s.pw with standby := false } } : State).takeAll 0).takeAll 1))

/-- The power sequencer: from OFF to ALWAYS-ON to IDLE and back, and the losses of power, each with its cause (R541 to R543, R597 to
R608). -/
def Obligations.PowerSequence : Prop :=
  ∀ (s : State),
    (s.dev = .off → s.pw.pwrEn = false → exec .alwaysOnResetRelease s = .next
      (let t := ({ s with aoc := 0 } : State).setDev .alwaysOn
       { t with pw := { t.pw with railsStarting := false, lowSince := some 0 } })) ∧
    (s.dev = .alwaysOn → s.pw.pwrEn = false → s.pw.needEdge = false → s.pw.tripHold = false → exec .pwrEnRise s =
      .next { s.fire 269 with pw := { s.pw with pwrEn := true, statusUnread := true, railsStarting := true, heldEdge := false, lowSince := none } }) ∧
    (s.dev = .alwaysOn → s.pw.railsStarting = true → exec .railsInRegulation s = .next (let t := s.setDev .idle
      { t with pw := { t.pw with railsStarting := false, pwrGood := true, goodSince := t.aoc }, boot := { t.boot with booting := true } })) ∧
    (s.pw.pwrEn = true → s.dev = .alwaysOn → exec .pwrEnFall s = .next { s.fire 269 with pw := { s.pw with
      pwrEn := false, lowSince := some s.aoc, thermDrive := false, heldEdge := false, statusUnread := true, railsStarting := false } }) ∧
    (s.pw.powerDown = true → s.fwUp = true → (∀ t, s.pw.lowSince = some t → t + 1250000 ≤ s.aoc) →
      exec .powerDownWritebackLimit s = .next s.finishDown) ∧
    (s.dev ≠ .off → exec .vinLossOff s = .next (let t := (s.dropRails 0).setDev .off
      { t with
        aoc := 0, snap := Snapshot.reset
        boot := { t.boot with log := t.boot.log.map fun e => (e.1, { e.2 with last := none }) }
        ms := { t.ms with flash := { t.ms.flash with lastCheckpoint := none } }
        pw := { Power.reset with pwrEn := t.pw.pwrEn, bootWpN := t.pw.bootWpN, prsnt := t.pw.prsnt, smbAddr := t.pw.smbAddr } })) ∧
    (s.fwUp = true →
      let off (source cause : Nat) : State := let t := (s.fire source).dropRails cause
        { t with pw := { t.pw with needEdge := true, heldEdge := false } }
      let trip (source cause : Nat) : State :=
        { off source cause with pw := { (off source cause).pw with thermDrive := (off source cause).pw.pwrEn, tripHold := true } }
      (∀ current, exec (.powerEmergency current) s = .next (off 2 (if current then 3 else 2))) ∧
      exec .railFault s = .next { off 14 7 with pw := { (off 14 7).pw with lastCause := 7 } } ∧
      exec (.thermalTrip false) s = .next (trip 3 4) ∧ exec (.thermalTrip true) s = .next (trip 4 5) ∧
      (s.pw.thermDrive = false → exec .thermtripNExternal s = .next (trip 13 6))) ∧
    (s.dev = .alwaysOn → s.pw.heldEdge = true → s.pw.tripHold = true → s.pw.pwrEn = true → s.pw.cool = true → exec .tripCooldown s =
      .next { s with pw := { s.pw with railsStarting := true, needEdge := false, tripHold := false, heldEdge := false } })

/-- Throttling and the sensors' events (R320, R369, R550, R603, R605). -/
def Sys2Proof.Claim.throttling : Prop :=
  ∀ (s : State), s.fwUp = true →
    (∀ watts duty, 1 ≤ duty → duty ≤ 16 → let p := { s.pw with pin := watts, energyMj := s.pw.energyMj + watts.toNat }
      exec (.powerDutyEvaluate watts duty) s = .next { s with pw := p.withDuty { p with powerDuty := duty } }) ∧
    (∀ a b c, let p := { s.pw with tLogic := a, tDram0 := b, tDram1 := c }
      let t := if s.pw.marginPoints = p.marginPoints then s else s.fire 266
      (p.hot = true → exec (.thermalDutyStep a b c) s =
        .next { t with pw := s.pw.withDuty { p with thermalDuty := Nat.max 1 (p.thermalDuty - 1) } }) ∧
      (p.belowThrottle = true → exec (.thermalDutyStep a b c) s =
        .next { t with pw := s.pw.withDuty { p with thermalDuty := Nat.min 16 (p.thermalDuty + 1) } }) ∧
      (p.hot = false → p.belowThrottle = false → exec (.thermalDutyStep a b c) s = .next { t with pw := p })) ∧
    (∀ stack hot step, exec (.stackRefreshDoubled stack hot step) s = .next (let t := if step then s.fire 266 else s
      { t with pw := { t.pw with refresh2x := lset t.pw.refresh2x stack hot } })) ∧
    (s.live = true → exec .voltageDroopEvent s = .next (let t := s.fire 267
      { t with tide := { t.tide with droops := t.aoc :: t.tide.droops } }))

/-- The causes that put the device into FAULTED from outside its memories, each with its source; the watchdog only fires its own
(R550, R586). -/
def Sys2Proof.Claim.fatalCauses : Prop :=
  ∀ (s : State), s.fwUp = true →
    (s.live = true → exec .bridgeLaneLost s = .next (s.enterFaulted 5 E.uncorrectable 0 0xFFFFFFFF 0xFFFF)) ∧
    exec .referenceClockLost s = .next (s.enterFaulted 11 E.uncorrectable 0 0xFFFFFFFF 0xFFFF) ∧
    exec .regulatorFault s = .next (s.enterFaulted 12 E.uncorrectable 0 0xFFFFFFFF 0xFFFF) ∧
    (∀ shore < 2, exec (.fatalMemoryError shore) s = .next (s.enterFaulted shore E.uncorrectable 0 0xFFFFFFFF 0xFFFF)) ∧
    (∀ core < 8, exec (.controlCoreWatchdog core) s = .next (s.fire 6)) ∧
    (∀ source code laws loc near, (s.enterFaulted source code laws loc near).dev = .faulted)

/-- Sensors, duty and fatal causes (R320, R369, R550, R586, R603, R605). -/
def Obligations.ThrottlingAndFatalCauses : Prop := throttling ∧ fatalCauses

/-- The management interface answers in every state but OFF with the byte string of R614 to R616 and changes nothing but what a read
measures or releases. -/
def Obligations.ManagementInterface : Prop :=
  ∀ (s : State), s.dev ≠ .off →
    let answers (cmd : Nat) (bs : List Byte) (t : State) : Outc := .next (t.out (.smbus cmd bs))
    (∃ t, exec .status s = .next t ∧ t = { s.out (.smbus 1 (leBytes 2 s.statusWord)) with pw := { s.pw with statusUnread := false } }) ∧
    (∀ mv, exec (.vin mv) s = answers 2 (leBytes 2 mv.toNat) { s with pw := { s.pw with vin := mv } }) ∧
    (∀ v, exec (.iin v) s = answers 3 (leBytes 2 v.toNat) { s with pw := { s.pw with iin := v } }) ∧
    exec .pin s = answers 4 (leBytes 2 s.pw.pin.toNat) s ∧
    exec .tLogic s = answers 5 (leBytes 2 s.pw.tLogic.toNat) s ∧
    exec .tDram0 s = answers 6 (leBytes 2 s.pw.tDram0.toNat) s ∧
    exec .tDram1 s = answers 7 (leBytes 2 s.pw.tDram1.toNat) s ∧
    exec (.pcap none) s = answers 8 (leBytes 2 s.pw.pcap.toNat) s ∧
    (∀ v : W16, 400 ≤ v.toNat → v.toNat ≤ 1500 → exec (.pcap (some (v, true))) s = .next { s with pw := { s.pw with pcap := v } }) ∧
    (∀ v : W16, exec (.pcap (some (v, false))) s = .next s) ∧
    exec .duty s = answers 9 (leBytes 1 (Nat.min s.pw.powerDuty s.pw.thermalDuty)) s ∧
    exec .energy s = answers 10 (leBytes 8 (s.pw.energyMj / 1000)) s ∧
    exec .tide s = answers 11 (leBytes 1 s.tide.level) s ∧
    exec .prsnt s = answers 12 (leBytes 2 s.pw.prsnt.toNat) s ∧
    (s.pw.statusUnread = true → exec .alertResponse s = .next (s.out (.alertAddress (0x58 + s.pw.smbAddr))))

/-- The debug port: a challenge is given and expires; an order that passes the checks of R573 has its effect or begins its stores, a refused
one is answered its code, and any order that names the challenge uses it up (R571 to R577). -/
def Obligations.DebugPort : Prop :=
  ∀ (s : State) (o : List Byte), s.fwUp = true →
    let t := s.useChallenge o
    let answers (c : Code) (u : State) : Outc :=
      .next (({ u with boot := { u.boot with order := none } } : State).out (.debug (leBytes 2 c.toNat)))
    (∃ c t, s.takeRandom 32 = (c, t) ∧ exec .getChallenge s =
      .next (({ t with boot := { t.boot with challenge := some { value := c, issued := t.aoc } } } : State).out (.debug (identityKey ++ c)))) ∧
    (∀ c, s.boot.challenge = some c → c.issued + 1500000000 ≤ s.aoc →
      exec .challengeExpiry s = .next { s with boot := { s.boot with challenge := none } }) ∧
    (s.boot.order = none →
      (∀ x ∈ ([(1, .orderUnlock o), (2, .orderEnrol o), (3, .orderErase o)] : List (Nat × Instr)),
        fld o 8 1 = x.1 ∨ fld o 8 1 ∉ ([1, 2, 3] : List Nat) → s.orderCode o ≠ E.ok → exec x.2 s = answers (s.orderCode o) t) ∧
      (fld o 8 1 = 1 → s.orderCode o = E.ok →
        exec (.orderUnlock o) s = answers E.ok { t with boot := { t.boot with scopes := t.boot.scopes ||| fld o 10 2 } }) ∧
      (fld o 8 1 = 3 → s.orderCode o = E.ok →
        exec (.orderErase o) s = .next (t.startOrder { owner := none, stage := 0, root := [] })) ∧
      (fld o 8 1 = 2 → s.orderCode o = E.ok → exec (.orderEnrol o) s = .next
        (t.startOrder { owner := some (slice o 80 32), stage := if t.storedOwner = none then 5 else 0, root := [] })))

/-- Memory and the tables of the timers are in canonical form. -/
def Sys2Proof.Claim.canonical (s : State) : Prop :=
  Memory.wf s.ms.mem = true ∧ twf compareReset s.iu.compare = true ∧ twf false s.iu.fired = true

/-- The interrupt unit, its timers and the sleep of the control domain (R540, R551 to R564). -/
def Obligations.InterruptUnit : Prop :=
  ∀ (s : State), s.fwUp = true →
    (s.iu.asleep = false →
      (∀ n (v : W64), 16 ≤ n → n < 512 → rsvOk v 0xFFFFFF00FFF802F0 = true →
        let set (x : IuSrc) : IuSrc := { x with targets := BitVec.ofNat 8 (bits v.toNat 32 8), mask := v.getLsbD 8, prio := bits v.toNat 0 4 }
        (v.getLsbD 10 = false → exec (.iuSrcWrite (.src n) v) s = .next (s.updSrc n set)) ∧
        (v.getLsbD 10 = true → isLevel n = false → exec (.iuPendingClear n v) s =
          .next (s.updSrc n fun x => { set x with pending := false }))) ∧
      (∀ core < 8, ∀ v : W64, v.toNat < 16 →
        exec (.iuSrcWrite (.threshold core) v) s = .next (s.updIuCore core fun k => { k with threshold := bits v.toNat 0 4 })) ∧
      (∀ core < 8, ∀ ring : W32, ring.toNat < 256 → exec (.iuDoorbell core ring) s =
        .next ((List.range 8).foldl (fun (s : State) k => if ring.getLsbD k then s.fire (248 + k) else s) s)) ∧
      (∀ n c, (List.range 15).flatMap (fun i => s.eligibleAt (15 - i)) = [n] → s.targetOf n = some c →
        exec .iuDelivery s = .next (s.startDelivery n c)) ∧
      (∀ core n, s.deliveryTo core = some n → (s.iuCore core).claim = none → exec (.iuDeliveryLand core) s =
        .next ((s.updSrc n fun x => { x with delivering := false, deliverTo := 0, deliverPrio := 0 }).updIuCore core fun k =>
          { k with claim := some (n, (s.iuSrc n).deliverPrio) })) ∧
      (∀ core n prio, (s.iuCore core).claim = some (n, prio) → exec (.iuCoreClaim core) s =
        .next ((s.updSrc n fun x => { x with active := true }).updIuCore core fun k =>
          { k with claim := none, stack := (n, prio) :: k.stack })) ∧
      (∀ core n prio rest, core < 8 → (s.iuCore core).stack = (n, prio) :: rest → 16 ≤ n → n < 512 →
        exec (.iuCoreComplete core (BitVec.ofNat 32 n)) s = .next ((s.updSrc n fun x =>
          { x with active := false, input := x.input && !isReport n }).updIuCore core fun k => { k with stack := rest })) ∧
      (∀ core (n : W32), core < 8 → n.toNat < 512 → (∀ prio rest, (s.iuCore core).stack ≠ (n.toNat, prio) :: rest) →
        exec (.iuCoreComplete core n) s = .next (s.updIuCore core fun k => { k with bad := Nat.min 15 (k.bad + 1) })) ∧
      (∀ k < 8, ∀ v : W64, s.aoc < v.toNat → exec (.aotCompareWrite k v) s = .next { s with iu := { s.iu with
        compare := tset compareReset k v s.iu.compare, fired := tset false k false s.iu.fired } }) ∧
      (s.maySleepControl = true → exec .controlDomainSleep s = .next { s with iu := { s.iu with asleep := true, latches := [] } })) ∧
    (∀ k < 8, tget false k s.iu.fired = false → (s.compareOf k).toNat ≤ s.aoc → exec (.aotTimerFire k) s =
      .next (let t := s.fire (256 + k)
        { t with iu := { t.iu with fired := tset false k true t.iu.fired } })) ∧
    (∀ n < 270, s.iu.asleep = true → s.wakes n = true → let t : State := { s with iu := { s.iu with asleep := false, latches := [] } }
      exec (.controlDomainWake true) s = .next (s.iu.latches.foldl (fun (s : State) n => s.fire n) t) ∧
      exec (.controlDomainWake false) s = .next (({ t with iu := { t.iu with srcs := [], cores := [] } } : State).enterFaulted 15
        E.uncorrectable 0 0xFFFFFFFF 0xFFFF))

/-- A write of IU_DOORBELL by any of the 8 control cores fires source 248 + k once for each bit k set in RING: the source becomes
PENDING, or merges into the delivery under way, and keeps its MASK, PRIO and TARGETS; every other source is as it was (R553, R557). -/
def Obligations.DoorbellFires : Prop :=
  ∀ (s : State) (core : Nat) (ring : W32), s.fwUp = true → s.iu.asleep = false → core < 8 → ring.toNat < 256 →
    ∃ u, exec (.iuDoorbell core ring) s = .next u ∧
      (∀ k, k < 8 → u.iuSrc (248 + k) = if ring.getLsbD k = true ∧ (s.iuSrc (248 + k)).delivering = false
        then { s.iuSrc (248 + k) with pending := true } else s.iuSrc (248 + k)) ∧
      (∀ n, (n < 248 ∨ 256 ≤ n) → u.iuSrc n = s.iuSrc n) ∧ u.iu.cores = s.iu.cores ∧ u.ms = s.ms ∧ u.jobs = s.jobs

/-! ### The whole machine -/

/-- A step runs the command at the front of the queue on the state with the queue's rest; on an empty queue one AOC cycle passes, and in
OFF nothing does (the model's choice, log 3). -/
def Obligations.StepTakesFront : Prop :=
  ∀ (s : State) (c : Instr) (rest : List Instr),
    (s.pending = c :: rest → step s = exec c { s with pending := rest }) ∧
    (s.pending = [] → ∃ t, step s = .next t ∧ t.aoc = (if s.dev = .off then s.aoc else (s.aoc + 1) % 2 ^ 64) ∧
      (s.dev = .off → t = s))

/-- Every command completes in every state (R4): the block has no state in which a command stops it. -/
def Obligations.EveryCommandCompletes : Prop := ∀ (c : Instr) (s : State), ∃ t, exec c s = .next t

/-- Every step keeps memory and the timers' tables in canonical form, so that equal memories are equal data. -/
def Obligations.StepKeepsCanonical : Prop :=
  ∀ (s t : State), canonical s → step s = .next t → canonical t

/-- The machine after reset: OFF, no job, no open crossing, memory empty and canonical, registers at the values the manual gives. -/
def Obligations.ResetState : Prop :=
  canonical State.reset ∧ State.reset.pending = [] ∧ State.reset.ms.mem = [] ∧ State.reset.dev = .off ∧ State.reset.xings = [] ∧
  (∀ pos, (State.reset.job pos).st = .none) ∧ State.reset.pw.pcap = 1500 ∧ State.reset.pw.duty = 16 ∧ State.reset.tide.level = 0 ∧
  State.reset.snap.valid = false ∧ (∀ p, (State.reset.port p).ring = none ∧ (State.reset.port p).blockValid = false) ∧
  (∀ n, State.reset.iuPending n = false) ∧ (∀ k, State.reset.compareOf k = BitVec.allOnes 64)

/-- The integer instructions of R192. -/
def Sys2Proof.Claim.integers : List (Thr → Reg → Reg → Src2 → Instr) :=
  [.add, .sub, .mul, .mulhu, .and, .or, .xor, .min, .max, .minu, .maxu, .divu, .remu, .shl, .shr, .sar]

/-- What an integer instruction leaves as it was: every register but RD (and g0 still reads 0), the predicates, the status and the
crossing of its context; every other context; every byte of memory, every job and its counters, every engine and crossing (R188, R189,
R192). -/
def Obligations.IntegerFrame : Prop :=
  ∀ (s : State) (t : Thr) (c : Ctx) (rd ra : Reg) (b : Src2), Runs s t c (ra :: src2Regs b) [] → (∀ v, b = .imm v → v.toNat < 64) →
    ∀ i ∈ integers, ∃ (u : State) (c' : Ctx), exec (i t rd ra b) s = .next u ∧ u.ctxAt t = some c' ∧ c'.pc = c.pc + 1 ∧
      (∀ r, r ≠ rd → c'.reg r = c.reg r) ∧ c'.reg 0 = 0 ∧ c'.pred = c.pred ∧ c'.status = c.status ∧ c'.xing = c.xing ∧
      (∀ t' : Thr, t' ≠ t → u.ctxAt t' = s.ctxAt t') ∧ (∀ a, rd8 u.ms.mem a = rd8 s.ms.mem a) ∧ u.ms.stores = s.ms.stores ∧
      u.jobs = s.jobs ∧ u.engines = s.engines ∧ u.xings = s.xings ∧ u.moor = s.moor ∧ u.az = s.az ∧ u.iu = s.iu ∧ u.ras = s.ras
end

