-- ==== Sys2Proof/Laws/Table.lean ====
section
/-! SUPPORT. Laws of sparse tables: a write reads back, leaves every other key alone and keeps the canonical form. -/

set_option Elab.async false

namespace Sys2Proof.Machine

variable {α : Type} [DecidableEq α] {d v : α} {k j lo : Nat} {t : Tbl α}

@[simp] theorem tget_nil : tget d k ([] : Tbl α) = d := rfl

theorem tget_tput_self : tget d k (tput k v t) = v := by
  induction t with
  | nil => simp [tput, tget]
  | cons e r ih =>
    obtain ⟨k', v'⟩ := e
    unfold tput
    split
    · simp [tget]
    · split
      · simp [tget]
      · rename_i h1 h2
        simp [tget, Ne.symm h2, ih]

theorem tget_tput_ne (h : j ≠ k) : tget d j (tput k v t) = tget d j t := by
  induction t with
  | nil => simp [tput, tget, h.symm]
  | cons e r ih =>
    obtain ⟨k', v'⟩ := e
    unfold tput
    split
    · simp [tget, h.symm]
    · split
      · subst k'; simp [tget, h.symm]
      · simp only [tget, ih]

theorem tget_filter_self : tget d k (t.filter fun e => e.1 != k) = d := by
  induction t with
  | nil => rfl
  | cons e r ih =>
    obtain ⟨k', v'⟩ := e
    by_cases hk : k' = k <;> simp [List.filter_cons, hk, tget, ih]

theorem tget_filter_ne (h : j ≠ k) : tget d j (t.filter fun e => e.1 != k) = tget d j t := by
  induction t with
  | nil => rfl
  | cons e r ih =>
    obtain ⟨k', v'⟩ := e
    by_cases hk : k' = k
    · subst k'; simp [List.filter_cons, tget, h.symm, ih]
    · simp [List.filter_cons, hk, tget, ih]

/-- What is written reads back, in any table. -/
@[simp] theorem tget_tset_self : tget d k (tset d k v t) = v := by
  unfold tset
  split
  · rename_i h; rw [tget_filter_self, h]
  · exact tget_tput_self

/-- A write leaves every other key alone, in any table. -/
theorem tget_tset_ne (h : j ≠ k) : tget d j (tset d k v t) = tget d j t := by
  unfold tset
  split
  · exact tget_filter_ne h
  · exact tget_tput_ne h

theorem tget_tset : tget d j (tset d k v t) = if j = k then v else tget d j t := by
  split
  · subst j; exact tget_tset_self
  · exact tget_tset_ne ‹_›

/-- A table whose keys all lie above a key holds the default there. -/
theorem tget_of_twfFrom (h : twfFrom d lo t = true) (hk : k < lo) : tget d k t = d := by
  induction t generalizing lo with
  | nil => rfl
  | cons e r ih =>
    obtain ⟨k', v'⟩ := e
    simp only [twfFrom, Bool.and_eq_true, decide_eq_true_eq] at h
    have : k' ≠ k := by omega
    simp only [tget, this, if_false]
    exact ih h.2 (by omega)

theorem twfFrom_mono {lo' : Nat} (h : twfFrom d lo t = true) (hl : lo' ≤ lo) : twfFrom d lo' t = true := by
  cases t with
  | nil => rfl
  | cons e r =>
    simp only [twfFrom, Bool.and_eq_true, decide_eq_true_eq] at h ⊢
    exact ⟨⟨by omega, h.1.2⟩, h.2⟩

/-- A part of a canonical table is canonical. -/
theorem twfFrom_filter {p : Nat × α → Bool} (h : twfFrom d lo t = true) : twfFrom d lo (t.filter p) = true := by
  induction t generalizing lo with
  | nil => rfl
  | cons e r ih =>
    obtain ⟨k', v'⟩ := e
    simp only [twfFrom, Bool.and_eq_true, decide_eq_true_eq] at h
    simp only [List.filter_cons]
    split
    · simp only [twfFrom, Bool.and_eq_true, decide_eq_true_eq]; exact ⟨h.1, ih h.2⟩
    · exact twfFrom_mono (ih h.2) (by omega)

theorem twfFrom_tput (h : twfFrom d lo t = true) (hk : lo ≤ k) (hv : v ≠ d) : twfFrom d lo (tput k v t) = true := by
  induction t generalizing lo with
  | nil => simp [tput, twfFrom, hv, hk]
  | cons e r ih =>
    obtain ⟨k', v'⟩ := e
    simp only [twfFrom, Bool.and_eq_true, decide_eq_true_eq] at h
    unfold tput
    split
    · rename_i hlt
      have h2 : twfFrom d (k + 1) ((k', v') :: r) = true := by
        simp only [twfFrom, Bool.and_eq_true, decide_eq_true_eq]; exact ⟨⟨by omega, h.1.2⟩, h.2⟩
      rw [twfFrom]
      simp [hk, hv, h2]
    · split
      · subst k'; simp [hv, twfFrom, hk, h.2]
      · simp only [twfFrom, Bool.and_eq_true, decide_eq_true_eq]
        exact ⟨h.1, ih h.2 (by omega)⟩

/-- A write keeps the canonical form. -/
theorem twfFrom_tset (h : twfFrom d lo t = true) (hk : lo ≤ k) : twfFrom d lo (tset d k v t) = true := by
  unfold tset
  split
  · exact twfFrom_filter h
  · exact twfFrom_tput h hk ‹_›

theorem twf_tset (h : twf d t = true) : twf d (tset d k v t) = true := twfFrom_tset h (Nat.zero_le _)

theorem twf_tupd {f : α → α} (h : twf d t = true) : twf d (tupd d k f t) = true := twf_tset h

theorem twf_nil : twf d ([] : Tbl α) = true := rfl

end Sys2Proof.Machine
end

