-- ==== Sys2Proof/Laws/Memory.lean ====
section
/-! SUPPORT. Laws of memory: every operation keeps the canonical form, a write reads back and leaves every other byte alone. -/

set_option Elab.async false

namespace Sys2Proof.Machine

variable {m : Memory} {a b n v : Nat} {x : Byte} {bs : List Byte}

theorem Memory.wf_wr8 (h : Memory.wf m = true) : Memory.wf (wr8 m a x) = true := twf_tset h

theorem Memory.wf_wrBytes (h : Memory.wf m = true) : Memory.wf (wrBytes m a bs) = true := by
  induction bs generalizing m a with
  | nil => exact h
  | cons y r ih => exact ih (Memory.wf_wr8 h)

theorem Memory.wf_wrNat (h : Memory.wf m = true) : Memory.wf (wrNat m a n v) = true := Memory.wf_wrBytes h

theorem Memory.wf_zeroRange (h : Memory.wf m = true) : Memory.wf (zeroRange m a n) = true := twfFrom_filter h

theorem Memory.wf_foldl {β : Type} {f : Memory → β → Memory} (hf : ∀ m y, Memory.wf m = true → Memory.wf (f m y) = true) (l : List β)
    (h : Memory.wf m = true) : Memory.wf (l.foldl f m) = true := by
  induction l generalizing m with
  | nil => exact h
  | cons y r ih => exact ih (hf _ _ h)

theorem Memory.wf_copyCells {dst : Nat} (h : Memory.wf m = true) : Memory.wf (copyCells m a dst n) = true :=
  Memory.wf_foldl (fun _ _ h => Memory.wf_wr8 h) _ (Memory.wf_zeroRange h)

/-- Memory at reset is canonical. -/
theorem State.reset_wf : Memory.wf State.reset.ms.mem = true := rfl

theorem rd8_wr8_self : rd8 (wr8 m a x) a = x := tget_tset_self

theorem rd8_wr8_ne (h : b ≠ a) : rd8 (wr8 m a x) b = rd8 m b := tget_tset_ne h

/-- Bytes outside those written are as they were. -/
theorem rd8_wrBytes_out (h : b < a ∨ a + bs.length ≤ b) : rd8 (wrBytes m a bs) b = rd8 m b := by
  induction bs generalizing m a with
  | nil => rfl
  | cons y r ih =>
    simp only [List.length_cons] at h
    rw [wrBytes, ih (by omega), rd8_wr8_ne (by omega)]

end Sys2Proof.Machine
end

