-- ==== Sys2Proof/Laws/State.lean ====
section
/-! SUPPORT. What each update of the state does to each field, so that no proof unfolds a record update. -/

set_option Elab.async false

namespace Sys2Proof.Machine

variable (s : State)

/-! ### setCore -/

@[simp] theorem State.setCore_pending (k : Nat) (x : Core) : (s.setCore k x).pending = s.pending := rfl
@[simp] theorem State.setCore_aoc (k : Nat) (x : Core) : (s.setCore k x).aoc = s.aoc := rfl
@[simp] theorem State.setCore_fabric (k : Nat) (x : Core) : (s.setCore k x).fabric = s.fabric := rfl
@[simp] theorem State.setCore_dev (k : Nat) (x : Core) : (s.setCore k x).dev = s.dev := rfl
@[simp] theorem State.setCore_pw (k : Nat) (x : Core) : (s.setCore k x).pw = s.pw := rfl
@[simp] theorem State.setCore_boot (k : Nat) (x : Core) : (s.setCore k x).boot = s.boot := rfl
@[simp] theorem State.setCore_cfg (k : Nat) (x : Core) : (s.setCore k x).cfg = s.cfg := rfl
@[simp] theorem State.setCore_cores (k : Nat) (x : Core) : (s.setCore k x).cores = tset Core.reset k x s.cores := rfl
@[simp] theorem State.setCore_jobs (k : Nat) (x : Core) : (s.setCore k x).jobs = s.jobs := rfl
@[simp] theorem State.setCore_ms (k : Nat) (x : Core) : (s.setCore k x).ms = s.ms := rfl
@[simp] theorem State.setCore_engines (k : Nat) (x : Core) : (s.setCore k x).engines = s.engines := rfl
@[simp] theorem State.setCore_spans (k : Nat) (x : Core) : (s.setCore k x).spans = s.spans := rfl
@[simp] theorem State.setCore_totals (k : Nat) (x : Core) : (s.setCore k x).totals = s.totals := rfl
@[simp] theorem State.setCore_xings (k : Nat) (x : Core) : (s.setCore k x).xings = s.xings := rfl
@[simp] theorem State.setCore_nextHandle (k : Nat) (x : Core) : (s.setCore k x).nextHandle = s.nextHandle := rfl
@[simp] theorem State.setCore_moor (k : Nat) (x : Core) : (s.setCore k x).moor = s.moor := rfl
@[simp] theorem State.setCore_restore (k : Nat) (x : Core) : (s.setCore k x).restore = s.restore := rfl
@[simp] theorem State.setCore_tide (k : Nat) (x : Core) : (s.setCore k x).tide = s.tide := rfl
@[simp] theorem State.setCore_snap (k : Nat) (x : Core) : (s.setCore k x).snap = s.snap := rfl
@[simp] theorem State.setCore_ras (k : Nat) (x : Core) : (s.setCore k x).ras = s.ras := rfl
@[simp] theorem State.setCore_iu (k : Nat) (x : Core) : (s.setCore k x).iu = s.iu := rfl
@[simp] theorem State.setCore_ports (k : Nat) (x : Core) : (s.setCore k x).ports = s.ports := rfl
@[simp] theorem State.setCore_results (k : Nat) (x : Core) : (s.setCore k x).results = s.results := rfl
@[simp] theorem State.setCore_az (k : Nat) (x : Core) : (s.setCore k x).az = s.az := rfl
@[simp] theorem State.setCore_outs (k : Nat) (x : Core) : (s.setCore k x).outs = s.outs := rfl
@[simp] theorem State.setCore_freeCount (k : Nat) (x : Core) : (s.setCore k x).freeCount = s.freeCount := rfl

/-! ### updCore -/

@[simp] theorem State.updCore_pending (k : Nat) (f : Core → Core) : (s.updCore k f).pending = s.pending := rfl
@[simp] theorem State.updCore_aoc (k : Nat) (f : Core → Core) : (s.updCore k f).aoc = s.aoc := rfl
@[simp] theorem State.updCore_fabric (k : Nat) (f : Core → Core) : (s.updCore k f).fabric = s.fabric := rfl
@[simp] theorem State.updCore_dev (k : Nat) (f : Core → Core) : (s.updCore k f).dev = s.dev := rfl
@[simp] theorem State.updCore_pw (k : Nat) (f : Core → Core) : (s.updCore k f).pw = s.pw := rfl
@[simp] theorem State.updCore_boot (k : Nat) (f : Core → Core) : (s.updCore k f).boot = s.boot := rfl
@[simp] theorem State.updCore_cfg (k : Nat) (f : Core → Core) : (s.updCore k f).cfg = s.cfg := rfl
@[simp] theorem State.updCore_cores (k : Nat) (f : Core → Core) : (s.updCore k f).cores = tset Core.reset k (f (s.core k)) s.cores := rfl
@[simp] theorem State.updCore_jobs (k : Nat) (f : Core → Core) : (s.updCore k f).jobs = s.jobs := rfl
@[simp] theorem State.updCore_ms (k : Nat) (f : Core → Core) : (s.updCore k f).ms = s.ms := rfl
@[simp] theorem State.updCore_engines (k : Nat) (f : Core → Core) : (s.updCore k f).engines = s.engines := rfl
@[simp] theorem State.updCore_spans (k : Nat) (f : Core → Core) : (s.updCore k f).spans = s.spans := rfl
@[simp] theorem State.updCore_totals (k : Nat) (f : Core → Core) : (s.updCore k f).totals = s.totals := rfl
@[simp] theorem State.updCore_xings (k : Nat) (f : Core → Core) : (s.updCore k f).xings = s.xings := rfl
@[simp] theorem State.updCore_nextHandle (k : Nat) (f : Core → Core) : (s.updCore k f).nextHandle = s.nextHandle := rfl
@[simp] theorem State.updCore_moor (k : Nat) (f : Core → Core) : (s.updCore k f).moor = s.moor := rfl
@[simp] theorem State.updCore_restore (k : Nat) (f : Core → Core) : (s.updCore k f).restore = s.restore := rfl
@[simp] theorem State.updCore_tide (k : Nat) (f : Core → Core) : (s.updCore k f).tide = s.tide := rfl
@[simp] theorem State.updCore_snap (k : Nat) (f : Core → Core) : (s.updCore k f).snap = s.snap := rfl
@[simp] theorem State.updCore_ras (k : Nat) (f : Core → Core) : (s.updCore k f).ras = s.ras := rfl
@[simp] theorem State.updCore_iu (k : Nat) (f : Core → Core) : (s.updCore k f).iu = s.iu := rfl
@[simp] theorem State.updCore_ports (k : Nat) (f : Core → Core) : (s.updCore k f).ports = s.ports := rfl
@[simp] theorem State.updCore_results (k : Nat) (f : Core → Core) : (s.updCore k f).results = s.results := rfl
@[simp] theorem State.updCore_az (k : Nat) (f : Core → Core) : (s.updCore k f).az = s.az := rfl
@[simp] theorem State.updCore_outs (k : Nat) (f : Core → Core) : (s.updCore k f).outs = s.outs := rfl
@[simp] theorem State.updCore_freeCount (k : Nat) (f : Core → Core) : (s.updCore k f).freeCount = s.freeCount := rfl

/-! ### setJob -/

@[simp] theorem State.setJob_pending (p : Nat) (j : Job) : (s.setJob p j).pending = s.pending := rfl
@[simp] theorem State.setJob_aoc (p : Nat) (j : Job) : (s.setJob p j).aoc = s.aoc := rfl
@[simp] theorem State.setJob_fabric (p : Nat) (j : Job) : (s.setJob p j).fabric = s.fabric := rfl
@[simp] theorem State.setJob_dev (p : Nat) (j : Job) : (s.setJob p j).dev = s.dev := rfl
@[simp] theorem State.setJob_pw (p : Nat) (j : Job) : (s.setJob p j).pw = s.pw := rfl
@[simp] theorem State.setJob_boot (p : Nat) (j : Job) : (s.setJob p j).boot = s.boot := rfl
@[simp] theorem State.setJob_cfg (p : Nat) (j : Job) : (s.setJob p j).cfg = s.cfg := rfl
@[simp] theorem State.setJob_cores (p : Nat) (j : Job) : (s.setJob p j).cores = s.cores := rfl
@[simp] theorem State.setJob_jobs (p : Nat) (j : Job) : (s.setJob p j).jobs = tset Job.absent p j s.jobs := rfl
@[simp] theorem State.setJob_ms (p : Nat) (j : Job) : (s.setJob p j).ms = s.ms := rfl
@[simp] theorem State.setJob_engines (p : Nat) (j : Job) : (s.setJob p j).engines = s.engines := rfl
@[simp] theorem State.setJob_spans (p : Nat) (j : Job) : (s.setJob p j).spans = s.spans := rfl
@[simp] theorem State.setJob_totals (p : Nat) (j : Job) : (s.setJob p j).totals = s.totals := rfl
@[simp] theorem State.setJob_xings (p : Nat) (j : Job) : (s.setJob p j).xings = s.xings := rfl
@[simp] theorem State.setJob_nextHandle (p : Nat) (j : Job) : (s.setJob p j).nextHandle = s.nextHandle := rfl
@[simp] theorem State.setJob_moor (p : Nat) (j : Job) : (s.setJob p j).moor = s.moor := rfl
@[simp] theorem State.setJob_restore (p : Nat) (j : Job) : (s.setJob p j).restore = s.restore := rfl
@[simp] theorem State.setJob_tide (p : Nat) (j : Job) : (s.setJob p j).tide = s.tide := rfl
@[simp] theorem State.setJob_snap (p : Nat) (j : Job) : (s.setJob p j).snap = s.snap := rfl
@[simp] theorem State.setJob_ras (p : Nat) (j : Job) : (s.setJob p j).ras = s.ras := rfl
@[simp] theorem State.setJob_iu (p : Nat) (j : Job) : (s.setJob p j).iu = s.iu := rfl
@[simp] theorem State.setJob_ports (p : Nat) (j : Job) : (s.setJob p j).ports = s.ports := rfl
@[simp] theorem State.setJob_results (p : Nat) (j : Job) : (s.setJob p j).results = s.results := rfl
@[simp] theorem State.setJob_az (p : Nat) (j : Job) : (s.setJob p j).az = s.az := rfl
@[simp] theorem State.setJob_outs (p : Nat) (j : Job) : (s.setJob p j).outs = s.outs := rfl
@[simp] theorem State.setJob_freeCount (p : Nat) (j : Job) : (s.setJob p j).freeCount = s.freeCount := rfl

/-! ### updJob -/

@[simp] theorem State.updJob_pending (p : Nat) (f : Job → Job) : (s.updJob p f).pending = s.pending := rfl
@[simp] theorem State.updJob_aoc (p : Nat) (f : Job → Job) : (s.updJob p f).aoc = s.aoc := rfl
@[simp] theorem State.updJob_fabric (p : Nat) (f : Job → Job) : (s.updJob p f).fabric = s.fabric := rfl
@[simp] theorem State.updJob_dev (p : Nat) (f : Job → Job) : (s.updJob p f).dev = s.dev := rfl
@[simp] theorem State.updJob_pw (p : Nat) (f : Job → Job) : (s.updJob p f).pw = s.pw := rfl
@[simp] theorem State.updJob_boot (p : Nat) (f : Job → Job) : (s.updJob p f).boot = s.boot := rfl
@[simp] theorem State.updJob_cfg (p : Nat) (f : Job → Job) : (s.updJob p f).cfg = s.cfg := rfl
@[simp] theorem State.updJob_cores (p : Nat) (f : Job → Job) : (s.updJob p f).cores = s.cores := rfl
@[simp] theorem State.updJob_jobs (p : Nat) (f : Job → Job) : (s.updJob p f).jobs = tset Job.absent p (f (s.job p)) s.jobs := rfl
@[simp] theorem State.updJob_ms (p : Nat) (f : Job → Job) : (s.updJob p f).ms = s.ms := rfl
@[simp] theorem State.updJob_engines (p : Nat) (f : Job → Job) : (s.updJob p f).engines = s.engines := rfl
@[simp] theorem State.updJob_spans (p : Nat) (f : Job → Job) : (s.updJob p f).spans = s.spans := rfl
@[simp] theorem State.updJob_totals (p : Nat) (f : Job → Job) : (s.updJob p f).totals = s.totals := rfl
@[simp] theorem State.updJob_xings (p : Nat) (f : Job → Job) : (s.updJob p f).xings = s.xings := rfl
@[simp] theorem State.updJob_nextHandle (p : Nat) (f : Job → Job) : (s.updJob p f).nextHandle = s.nextHandle := rfl
@[simp] theorem State.updJob_moor (p : Nat) (f : Job → Job) : (s.updJob p f).moor = s.moor := rfl
@[simp] theorem State.updJob_restore (p : Nat) (f : Job → Job) : (s.updJob p f).restore = s.restore := rfl
@[simp] theorem State.updJob_tide (p : Nat) (f : Job → Job) : (s.updJob p f).tide = s.tide := rfl
@[simp] theorem State.updJob_snap (p : Nat) (f : Job → Job) : (s.updJob p f).snap = s.snap := rfl
@[simp] theorem State.updJob_ras (p : Nat) (f : Job → Job) : (s.updJob p f).ras = s.ras := rfl
@[simp] theorem State.updJob_iu (p : Nat) (f : Job → Job) : (s.updJob p f).iu = s.iu := rfl
@[simp] theorem State.updJob_ports (p : Nat) (f : Job → Job) : (s.updJob p f).ports = s.ports := rfl
@[simp] theorem State.updJob_results (p : Nat) (f : Job → Job) : (s.updJob p f).results = s.results := rfl
@[simp] theorem State.updJob_az (p : Nat) (f : Job → Job) : (s.updJob p f).az = s.az := rfl
@[simp] theorem State.updJob_outs (p : Nat) (f : Job → Job) : (s.updJob p f).outs = s.outs := rfl
@[simp] theorem State.updJob_freeCount (p : Nat) (f : Job → Job) : (s.updJob p f).freeCount = s.freeCount := rfl

/-! ### setPort -/

@[simp] theorem State.setPort_pending (p : Nat) (x : Port) : (s.setPort p x).pending = s.pending := rfl
@[simp] theorem State.setPort_aoc (p : Nat) (x : Port) : (s.setPort p x).aoc = s.aoc := rfl
@[simp] theorem State.setPort_fabric (p : Nat) (x : Port) : (s.setPort p x).fabric = s.fabric := rfl
@[simp] theorem State.setPort_dev (p : Nat) (x : Port) : (s.setPort p x).dev = s.dev := rfl
@[simp] theorem State.setPort_pw (p : Nat) (x : Port) : (s.setPort p x).pw = s.pw := rfl
@[simp] theorem State.setPort_boot (p : Nat) (x : Port) : (s.setPort p x).boot = s.boot := rfl
@[simp] theorem State.setPort_cfg (p : Nat) (x : Port) : (s.setPort p x).cfg = s.cfg := rfl
@[simp] theorem State.setPort_cores (p : Nat) (x : Port) : (s.setPort p x).cores = s.cores := rfl
@[simp] theorem State.setPort_jobs (p : Nat) (x : Port) : (s.setPort p x).jobs = s.jobs := rfl
@[simp] theorem State.setPort_ms (p : Nat) (x : Port) : (s.setPort p x).ms = s.ms := rfl
@[simp] theorem State.setPort_engines (p : Nat) (x : Port) : (s.setPort p x).engines = s.engines := rfl
@[simp] theorem State.setPort_spans (p : Nat) (x : Port) : (s.setPort p x).spans = s.spans := rfl
@[simp] theorem State.setPort_totals (p : Nat) (x : Port) : (s.setPort p x).totals = s.totals := rfl
@[simp] theorem State.setPort_xings (p : Nat) (x : Port) : (s.setPort p x).xings = s.xings := rfl
@[simp] theorem State.setPort_nextHandle (p : Nat) (x : Port) : (s.setPort p x).nextHandle = s.nextHandle := rfl
@[simp] theorem State.setPort_moor (p : Nat) (x : Port) : (s.setPort p x).moor = s.moor := rfl
@[simp] theorem State.setPort_restore (p : Nat) (x : Port) : (s.setPort p x).restore = s.restore := rfl
@[simp] theorem State.setPort_tide (p : Nat) (x : Port) : (s.setPort p x).tide = s.tide := rfl
@[simp] theorem State.setPort_snap (p : Nat) (x : Port) : (s.setPort p x).snap = s.snap := rfl
@[simp] theorem State.setPort_ras (p : Nat) (x : Port) : (s.setPort p x).ras = s.ras := rfl
@[simp] theorem State.setPort_iu (p : Nat) (x : Port) : (s.setPort p x).iu = s.iu := rfl
@[simp] theorem State.setPort_ports (p : Nat) (x : Port) : (s.setPort p x).ports = tset Port.reset p x s.ports := rfl
@[simp] theorem State.setPort_results (p : Nat) (x : Port) : (s.setPort p x).results = s.results := rfl
@[simp] theorem State.setPort_az (p : Nat) (x : Port) : (s.setPort p x).az = s.az := rfl
@[simp] theorem State.setPort_outs (p : Nat) (x : Port) : (s.setPort p x).outs = s.outs := rfl
@[simp] theorem State.setPort_freeCount (p : Nat) (x : Port) : (s.setPort p x).freeCount = s.freeCount := rfl

/-! ### updPort -/

@[simp] theorem State.updPort_pending (p : Nat) (f : Port → Port) : (s.updPort p f).pending = s.pending := rfl
@[simp] theorem State.updPort_aoc (p : Nat) (f : Port → Port) : (s.updPort p f).aoc = s.aoc := rfl
@[simp] theorem State.updPort_fabric (p : Nat) (f : Port → Port) : (s.updPort p f).fabric = s.fabric := rfl
@[simp] theorem State.updPort_dev (p : Nat) (f : Port → Port) : (s.updPort p f).dev = s.dev := rfl
@[simp] theorem State.updPort_pw (p : Nat) (f : Port → Port) : (s.updPort p f).pw = s.pw := rfl
@[simp] theorem State.updPort_boot (p : Nat) (f : Port → Port) : (s.updPort p f).boot = s.boot := rfl
@[simp] theorem State.updPort_cfg (p : Nat) (f : Port → Port) : (s.updPort p f).cfg = s.cfg := rfl
@[simp] theorem State.updPort_cores (p : Nat) (f : Port → Port) : (s.updPort p f).cores = s.cores := rfl
@[simp] theorem State.updPort_jobs (p : Nat) (f : Port → Port) : (s.updPort p f).jobs = s.jobs := rfl
@[simp] theorem State.updPort_ms (p : Nat) (f : Port → Port) : (s.updPort p f).ms = s.ms := rfl
@[simp] theorem State.updPort_engines (p : Nat) (f : Port → Port) : (s.updPort p f).engines = s.engines := rfl
@[simp] theorem State.updPort_spans (p : Nat) (f : Port → Port) : (s.updPort p f).spans = s.spans := rfl
@[simp] theorem State.updPort_totals (p : Nat) (f : Port → Port) : (s.updPort p f).totals = s.totals := rfl
@[simp] theorem State.updPort_xings (p : Nat) (f : Port → Port) : (s.updPort p f).xings = s.xings := rfl
@[simp] theorem State.updPort_nextHandle (p : Nat) (f : Port → Port) : (s.updPort p f).nextHandle = s.nextHandle := rfl
@[simp] theorem State.updPort_moor (p : Nat) (f : Port → Port) : (s.updPort p f).moor = s.moor := rfl
@[simp] theorem State.updPort_restore (p : Nat) (f : Port → Port) : (s.updPort p f).restore = s.restore := rfl
@[simp] theorem State.updPort_tide (p : Nat) (f : Port → Port) : (s.updPort p f).tide = s.tide := rfl
@[simp] theorem State.updPort_snap (p : Nat) (f : Port → Port) : (s.updPort p f).snap = s.snap := rfl
@[simp] theorem State.updPort_ras (p : Nat) (f : Port → Port) : (s.updPort p f).ras = s.ras := rfl
@[simp] theorem State.updPort_iu (p : Nat) (f : Port → Port) : (s.updPort p f).iu = s.iu := rfl
@[simp] theorem State.updPort_ports (p : Nat) (f : Port → Port) : (s.updPort p f).ports = tset Port.reset p (f (s.port p)) s.ports := rfl
@[simp] theorem State.updPort_results (p : Nat) (f : Port → Port) : (s.updPort p f).results = s.results := rfl
@[simp] theorem State.updPort_az (p : Nat) (f : Port → Port) : (s.updPort p f).az = s.az := rfl
@[simp] theorem State.updPort_outs (p : Nat) (f : Port → Port) : (s.updPort p f).outs = s.outs := rfl
@[simp] theorem State.updPort_freeCount (p : Nat) (f : Port → Port) : (s.updPort p f).freeCount = s.freeCount := rfl

/-! ### updMs -/

@[simp] theorem State.updMs_pending (f : MemSys → MemSys) : (s.updMs f).pending = s.pending := rfl
@[simp] theorem State.updMs_aoc (f : MemSys → MemSys) : (s.updMs f).aoc = s.aoc := rfl
@[simp] theorem State.updMs_fabric (f : MemSys → MemSys) : (s.updMs f).fabric = s.fabric := rfl
@[simp] theorem State.updMs_dev (f : MemSys → MemSys) : (s.updMs f).dev = s.dev := rfl
@[simp] theorem State.updMs_pw (f : MemSys → MemSys) : (s.updMs f).pw = s.pw := rfl
@[simp] theorem State.updMs_boot (f : MemSys → MemSys) : (s.updMs f).boot = s.boot := rfl
@[simp] theorem State.updMs_cfg (f : MemSys → MemSys) : (s.updMs f).cfg = s.cfg := rfl
@[simp] theorem State.updMs_cores (f : MemSys → MemSys) : (s.updMs f).cores = s.cores := rfl
@[simp] theorem State.updMs_jobs (f : MemSys → MemSys) : (s.updMs f).jobs = s.jobs := rfl
@[simp] theorem State.updMs_ms (f : MemSys → MemSys) : (s.updMs f).ms = f s.ms := rfl
@[simp] theorem State.updMs_engines (f : MemSys → MemSys) : (s.updMs f).engines = s.engines := rfl
@[simp] theorem State.updMs_spans (f : MemSys → MemSys) : (s.updMs f).spans = s.spans := rfl
@[simp] theorem State.updMs_totals (f : MemSys → MemSys) : (s.updMs f).totals = s.totals := rfl
@[simp] theorem State.updMs_xings (f : MemSys → MemSys) : (s.updMs f).xings = s.xings := rfl
@[simp] theorem State.updMs_nextHandle (f : MemSys → MemSys) : (s.updMs f).nextHandle = s.nextHandle := rfl
@[simp] theorem State.updMs_moor (f : MemSys → MemSys) : (s.updMs f).moor = s.moor := rfl
@[simp] theorem State.updMs_restore (f : MemSys → MemSys) : (s.updMs f).restore = s.restore := rfl
@[simp] theorem State.updMs_tide (f : MemSys → MemSys) : (s.updMs f).tide = s.tide := rfl
@[simp] theorem State.updMs_snap (f : MemSys → MemSys) : (s.updMs f).snap = s.snap := rfl
@[simp] theorem State.updMs_ras (f : MemSys → MemSys) : (s.updMs f).ras = s.ras := rfl
@[simp] theorem State.updMs_iu (f : MemSys → MemSys) : (s.updMs f).iu = s.iu := rfl
@[simp] theorem State.updMs_ports (f : MemSys → MemSys) : (s.updMs f).ports = s.ports := rfl
@[simp] theorem State.updMs_results (f : MemSys → MemSys) : (s.updMs f).results = s.results := rfl
@[simp] theorem State.updMs_az (f : MemSys → MemSys) : (s.updMs f).az = s.az := rfl
@[simp] theorem State.updMs_outs (f : MemSys → MemSys) : (s.updMs f).outs = s.outs := rfl
@[simp] theorem State.updMs_freeCount (f : MemSys → MemSys) : (s.updMs f).freeCount = s.freeCount := rfl

/-! ### setMem -/

@[simp] theorem State.setMem_pending (m : Memory) : (s.setMem m).pending = s.pending := rfl
@[simp] theorem State.setMem_aoc (m : Memory) : (s.setMem m).aoc = s.aoc := rfl
@[simp] theorem State.setMem_fabric (m : Memory) : (s.setMem m).fabric = s.fabric := rfl
@[simp] theorem State.setMem_dev (m : Memory) : (s.setMem m).dev = s.dev := rfl
@[simp] theorem State.setMem_pw (m : Memory) : (s.setMem m).pw = s.pw := rfl
@[simp] theorem State.setMem_boot (m : Memory) : (s.setMem m).boot = s.boot := rfl
@[simp] theorem State.setMem_cfg (m : Memory) : (s.setMem m).cfg = s.cfg := rfl
@[simp] theorem State.setMem_cores (m : Memory) : (s.setMem m).cores = s.cores := rfl
@[simp] theorem State.setMem_jobs (m : Memory) : (s.setMem m).jobs = s.jobs := rfl
@[simp] theorem State.setMem_ms (m : Memory) : (s.setMem m).ms = { s.ms with mem := m } := rfl
@[simp] theorem State.setMem_engines (m : Memory) : (s.setMem m).engines = s.engines := rfl
@[simp] theorem State.setMem_spans (m : Memory) : (s.setMem m).spans = s.spans := rfl
@[simp] theorem State.setMem_totals (m : Memory) : (s.setMem m).totals = s.totals := rfl
@[simp] theorem State.setMem_xings (m : Memory) : (s.setMem m).xings = s.xings := rfl
@[simp] theorem State.setMem_nextHandle (m : Memory) : (s.setMem m).nextHandle = s.nextHandle := rfl
@[simp] theorem State.setMem_moor (m : Memory) : (s.setMem m).moor = s.moor := rfl
@[simp] theorem State.setMem_restore (m : Memory) : (s.setMem m).restore = s.restore := rfl
@[simp] theorem State.setMem_tide (m : Memory) : (s.setMem m).tide = s.tide := rfl
@[simp] theorem State.setMem_snap (m : Memory) : (s.setMem m).snap = s.snap := rfl
@[simp] theorem State.setMem_ras (m : Memory) : (s.setMem m).ras = s.ras := rfl
@[simp] theorem State.setMem_iu (m : Memory) : (s.setMem m).iu = s.iu := rfl
@[simp] theorem State.setMem_ports (m : Memory) : (s.setMem m).ports = s.ports := rfl
@[simp] theorem State.setMem_results (m : Memory) : (s.setMem m).results = s.results := rfl
@[simp] theorem State.setMem_az (m : Memory) : (s.setMem m).az = s.az := rfl
@[simp] theorem State.setMem_outs (m : Memory) : (s.setMem m).outs = s.outs := rfl
@[simp] theorem State.setMem_freeCount (m : Memory) : (s.setMem m).freeCount = s.freeCount := rfl

/-! ### updEngine -/

@[simp] theorem State.updEngine_pending (c n : Nat) (f : Engine → Engine) : (s.updEngine c n f).pending = s.pending := rfl
@[simp] theorem State.updEngine_aoc (c n : Nat) (f : Engine → Engine) : (s.updEngine c n f).aoc = s.aoc := rfl
@[simp] theorem State.updEngine_fabric (c n : Nat) (f : Engine → Engine) : (s.updEngine c n f).fabric = s.fabric := rfl
@[simp] theorem State.updEngine_dev (c n : Nat) (f : Engine → Engine) : (s.updEngine c n f).dev = s.dev := rfl
@[simp] theorem State.updEngine_pw (c n : Nat) (f : Engine → Engine) : (s.updEngine c n f).pw = s.pw := rfl
@[simp] theorem State.updEngine_boot (c n : Nat) (f : Engine → Engine) : (s.updEngine c n f).boot = s.boot := rfl
@[simp] theorem State.updEngine_cfg (c n : Nat) (f : Engine → Engine) : (s.updEngine c n f).cfg = s.cfg := rfl
@[simp] theorem State.updEngine_cores (c n : Nat) (f : Engine → Engine) : (s.updEngine c n f).cores = s.cores := rfl
@[simp] theorem State.updEngine_jobs (c n : Nat) (f : Engine → Engine) : (s.updEngine c n f).jobs = s.jobs := rfl
@[simp] theorem State.updEngine_ms (c n : Nat) (f : Engine → Engine) : (s.updEngine c n f).ms = s.ms := rfl
@[simp] theorem State.updEngine_engines (c n : Nat) (f : Engine → Engine) : (s.updEngine c n f).engines = updWhere (fun e => e.cls == c && e.num == n) f s.engines := rfl
@[simp] theorem State.updEngine_spans (c n : Nat) (f : Engine → Engine) : (s.updEngine c n f).spans = s.spans := rfl
@[simp] theorem State.updEngine_totals (c n : Nat) (f : Engine → Engine) : (s.updEngine c n f).totals = s.totals := rfl
@[simp] theorem State.updEngine_xings (c n : Nat) (f : Engine → Engine) : (s.updEngine c n f).xings = s.xings := rfl
@[simp] theorem State.updEngine_nextHandle (c n : Nat) (f : Engine → Engine) : (s.updEngine c n f).nextHandle = s.nextHandle := rfl
@[simp] theorem State.updEngine_moor (c n : Nat) (f : Engine → Engine) : (s.updEngine c n f).moor = s.moor := rfl
@[simp] theorem State.updEngine_restore (c n : Nat) (f : Engine → Engine) : (s.updEngine c n f).restore = s.restore := rfl
@[simp] theorem State.updEngine_tide (c n : Nat) (f : Engine → Engine) : (s.updEngine c n f).tide = s.tide := rfl
@[simp] theorem State.updEngine_snap (c n : Nat) (f : Engine → Engine) : (s.updEngine c n f).snap = s.snap := rfl
@[simp] theorem State.updEngine_ras (c n : Nat) (f : Engine → Engine) : (s.updEngine c n f).ras = s.ras := rfl
@[simp] theorem State.updEngine_iu (c n : Nat) (f : Engine → Engine) : (s.updEngine c n f).iu = s.iu := rfl
@[simp] theorem State.updEngine_ports (c n : Nat) (f : Engine → Engine) : (s.updEngine c n f).ports = s.ports := rfl
@[simp] theorem State.updEngine_results (c n : Nat) (f : Engine → Engine) : (s.updEngine c n f).results = s.results := rfl
@[simp] theorem State.updEngine_az (c n : Nat) (f : Engine → Engine) : (s.updEngine c n f).az = s.az := rfl
@[simp] theorem State.updEngine_outs (c n : Nat) (f : Engine → Engine) : (s.updEngine c n f).outs = s.outs := rfl
@[simp] theorem State.updEngine_freeCount (c n : Nat) (f : Engine → Engine) : (s.updEngine c n f).freeCount = s.freeCount := rfl

/-! ### updSpan -/

@[simp] theorem State.updSpan_pending (p : Nat) (f : Span → Span) : (s.updSpan p f).pending = s.pending := rfl
@[simp] theorem State.updSpan_aoc (p : Nat) (f : Span → Span) : (s.updSpan p f).aoc = s.aoc := rfl
@[simp] theorem State.updSpan_fabric (p : Nat) (f : Span → Span) : (s.updSpan p f).fabric = s.fabric := rfl
@[simp] theorem State.updSpan_dev (p : Nat) (f : Span → Span) : (s.updSpan p f).dev = s.dev := rfl
@[simp] theorem State.updSpan_pw (p : Nat) (f : Span → Span) : (s.updSpan p f).pw = s.pw := rfl
@[simp] theorem State.updSpan_boot (p : Nat) (f : Span → Span) : (s.updSpan p f).boot = s.boot := rfl
@[simp] theorem State.updSpan_cfg (p : Nat) (f : Span → Span) : (s.updSpan p f).cfg = s.cfg := rfl
@[simp] theorem State.updSpan_cores (p : Nat) (f : Span → Span) : (s.updSpan p f).cores = s.cores := rfl
@[simp] theorem State.updSpan_jobs (p : Nat) (f : Span → Span) : (s.updSpan p f).jobs = s.jobs := rfl
@[simp] theorem State.updSpan_ms (p : Nat) (f : Span → Span) : (s.updSpan p f).ms = s.ms := rfl
@[simp] theorem State.updSpan_engines (p : Nat) (f : Span → Span) : (s.updSpan p f).engines = s.engines := rfl
@[simp] theorem State.updSpan_spans (p : Nat) (f : Span → Span) : (s.updSpan p f).spans = lset s.spans p (f (s.span p)) := rfl
@[simp] theorem State.updSpan_totals (p : Nat) (f : Span → Span) : (s.updSpan p f).totals = s.totals := rfl
@[simp] theorem State.updSpan_xings (p : Nat) (f : Span → Span) : (s.updSpan p f).xings = s.xings := rfl
@[simp] theorem State.updSpan_nextHandle (p : Nat) (f : Span → Span) : (s.updSpan p f).nextHandle = s.nextHandle := rfl
@[simp] theorem State.updSpan_moor (p : Nat) (f : Span → Span) : (s.updSpan p f).moor = s.moor := rfl
@[simp] theorem State.updSpan_restore (p : Nat) (f : Span → Span) : (s.updSpan p f).restore = s.restore := rfl
@[simp] theorem State.updSpan_tide (p : Nat) (f : Span → Span) : (s.updSpan p f).tide = s.tide := rfl
@[simp] theorem State.updSpan_snap (p : Nat) (f : Span → Span) : (s.updSpan p f).snap = s.snap := rfl
@[simp] theorem State.updSpan_ras (p : Nat) (f : Span → Span) : (s.updSpan p f).ras = s.ras := rfl
@[simp] theorem State.updSpan_iu (p : Nat) (f : Span → Span) : (s.updSpan p f).iu = s.iu := rfl
@[simp] theorem State.updSpan_ports (p : Nat) (f : Span → Span) : (s.updSpan p f).ports = s.ports := rfl
@[simp] theorem State.updSpan_results (p : Nat) (f : Span → Span) : (s.updSpan p f).results = s.results := rfl
@[simp] theorem State.updSpan_az (p : Nat) (f : Span → Span) : (s.updSpan p f).az = s.az := rfl
@[simp] theorem State.updSpan_outs (p : Nat) (f : Span → Span) : (s.updSpan p f).outs = s.outs := rfl
@[simp] theorem State.updSpan_freeCount (p : Nat) (f : Span → Span) : (s.updSpan p f).freeCount = s.freeCount := rfl

/-! ### countBy -/

@[simp] theorem State.countBy_pending (o n : Nat) : (s.countBy o n).pending = s.pending := rfl
@[simp] theorem State.countBy_aoc (o n : Nat) : (s.countBy o n).aoc = s.aoc := rfl
@[simp] theorem State.countBy_fabric (o n : Nat) : (s.countBy o n).fabric = s.fabric := rfl
@[simp] theorem State.countBy_dev (o n : Nat) : (s.countBy o n).dev = s.dev := rfl
@[simp] theorem State.countBy_pw (o n : Nat) : (s.countBy o n).pw = s.pw := rfl
@[simp] theorem State.countBy_boot (o n : Nat) : (s.countBy o n).boot = s.boot := rfl
@[simp] theorem State.countBy_cfg (o n : Nat) : (s.countBy o n).cfg = s.cfg := rfl
@[simp] theorem State.countBy_cores (o n : Nat) : (s.countBy o n).cores = s.cores := rfl
@[simp] theorem State.countBy_jobs (o n : Nat) : (s.countBy o n).jobs = s.jobs := rfl
@[simp] theorem State.countBy_ms (o n : Nat) : (s.countBy o n).ms = s.ms := rfl
@[simp] theorem State.countBy_engines (o n : Nat) : (s.countBy o n).engines = s.engines := rfl
@[simp] theorem State.countBy_spans (o n : Nat) : (s.countBy o n).spans = s.spans := rfl
@[simp] theorem State.countBy_totals (o n : Nat) : (s.countBy o n).totals = s.totals := rfl
@[simp] theorem State.countBy_xings (o n : Nat) : (s.countBy o n).xings = s.xings := rfl
@[simp] theorem State.countBy_nextHandle (o n : Nat) : (s.countBy o n).nextHandle = s.nextHandle := rfl
@[simp] theorem State.countBy_moor (o n : Nat) : (s.countBy o n).moor = s.moor := rfl
@[simp] theorem State.countBy_restore (o n : Nat) : (s.countBy o n).restore = s.restore := rfl
@[simp] theorem State.countBy_tide (o n : Nat) : (s.countBy o n).tide = s.tide := rfl
@[simp] theorem State.countBy_snap (o n : Nat) : (s.countBy o n).snap = s.snap := rfl
@[simp] theorem State.countBy_ras (o n : Nat) : (s.countBy o n).ras = tset 0 o (Nat.min (tget 0 o s.ras + n) (2 ^ 64 - 1)) s.ras := rfl
@[simp] theorem State.countBy_iu (o n : Nat) : (s.countBy o n).iu = s.iu := rfl
@[simp] theorem State.countBy_ports (o n : Nat) : (s.countBy o n).ports = s.ports := rfl
@[simp] theorem State.countBy_results (o n : Nat) : (s.countBy o n).results = s.results := rfl
@[simp] theorem State.countBy_az (o n : Nat) : (s.countBy o n).az = s.az := rfl
@[simp] theorem State.countBy_outs (o n : Nat) : (s.countBy o n).outs = s.outs := rfl
@[simp] theorem State.countBy_freeCount (o n : Nat) : (s.countBy o n).freeCount = s.freeCount := rfl

/-! ### out -/

@[simp] theorem State.out_pending (o : Out) : (s.out o).pending = s.pending := rfl
@[simp] theorem State.out_aoc (o : Out) : (s.out o).aoc = s.aoc := rfl
@[simp] theorem State.out_fabric (o : Out) : (s.out o).fabric = s.fabric := rfl
@[simp] theorem State.out_dev (o : Out) : (s.out o).dev = s.dev := rfl
@[simp] theorem State.out_pw (o : Out) : (s.out o).pw = s.pw := rfl
@[simp] theorem State.out_boot (o : Out) : (s.out o).boot = s.boot := rfl
@[simp] theorem State.out_cfg (o : Out) : (s.out o).cfg = s.cfg := rfl
@[simp] theorem State.out_cores (o : Out) : (s.out o).cores = s.cores := rfl
@[simp] theorem State.out_jobs (o : Out) : (s.out o).jobs = s.jobs := rfl
@[simp] theorem State.out_ms (o : Out) : (s.out o).ms = s.ms := rfl
@[simp] theorem State.out_engines (o : Out) : (s.out o).engines = s.engines := rfl
@[simp] theorem State.out_spans (o : Out) : (s.out o).spans = s.spans := rfl
@[simp] theorem State.out_totals (o : Out) : (s.out o).totals = s.totals := rfl
@[simp] theorem State.out_xings (o : Out) : (s.out o).xings = s.xings := rfl
@[simp] theorem State.out_nextHandle (o : Out) : (s.out o).nextHandle = s.nextHandle := rfl
@[simp] theorem State.out_moor (o : Out) : (s.out o).moor = s.moor := rfl
@[simp] theorem State.out_restore (o : Out) : (s.out o).restore = s.restore := rfl
@[simp] theorem State.out_tide (o : Out) : (s.out o).tide = s.tide := rfl
@[simp] theorem State.out_snap (o : Out) : (s.out o).snap = s.snap := rfl
@[simp] theorem State.out_ras (o : Out) : (s.out o).ras = s.ras := rfl
@[simp] theorem State.out_iu (o : Out) : (s.out o).iu = s.iu := rfl
@[simp] theorem State.out_ports (o : Out) : (s.out o).ports = s.ports := rfl
@[simp] theorem State.out_results (o : Out) : (s.out o).results = s.results := rfl
@[simp] theorem State.out_az (o : Out) : (s.out o).az = s.az := rfl
@[simp] theorem State.out_outs (o : Out) : (s.out o).outs = s.outs ++ [o] := rfl
@[simp] theorem State.out_freeCount (o : Out) : (s.out o).freeCount = s.freeCount := rfl

/-! ### setCtxAt -/

@[simp] theorem State.setCtxAt_pending (t : Thr) (c : Ctx) : (s.setCtxAt t c).pending = s.pending := rfl
@[simp] theorem State.setCtxAt_aoc (t : Thr) (c : Ctx) : (s.setCtxAt t c).aoc = s.aoc := rfl
@[simp] theorem State.setCtxAt_fabric (t : Thr) (c : Ctx) : (s.setCtxAt t c).fabric = s.fabric := rfl
@[simp] theorem State.setCtxAt_dev (t : Thr) (c : Ctx) : (s.setCtxAt t c).dev = s.dev := rfl
@[simp] theorem State.setCtxAt_pw (t : Thr) (c : Ctx) : (s.setCtxAt t c).pw = s.pw := rfl
@[simp] theorem State.setCtxAt_boot (t : Thr) (c : Ctx) : (s.setCtxAt t c).boot = s.boot := rfl
@[simp] theorem State.setCtxAt_cfg (t : Thr) (c : Ctx) : (s.setCtxAt t c).cfg = s.cfg := rfl
@[simp] theorem State.setCtxAt_cores (t : Thr) (c : Ctx) : (s.setCtxAt t c).cores = tset Core.reset t.core ((s.core t.core).setBerth t.berth (.resident c)) s.cores := rfl
@[simp] theorem State.setCtxAt_jobs (t : Thr) (c : Ctx) : (s.setCtxAt t c).jobs = s.jobs := rfl
@[simp] theorem State.setCtxAt_ms (t : Thr) (c : Ctx) : (s.setCtxAt t c).ms = s.ms := rfl
@[simp] theorem State.setCtxAt_engines (t : Thr) (c : Ctx) : (s.setCtxAt t c).engines = s.engines := rfl
@[simp] theorem State.setCtxAt_spans (t : Thr) (c : Ctx) : (s.setCtxAt t c).spans = s.spans := rfl
@[simp] theorem State.setCtxAt_totals (t : Thr) (c : Ctx) : (s.setCtxAt t c).totals = s.totals := rfl
@[simp] theorem State.setCtxAt_xings (t : Thr) (c : Ctx) : (s.setCtxAt t c).xings = s.xings := rfl
@[simp] theorem State.setCtxAt_nextHandle (t : Thr) (c : Ctx) : (s.setCtxAt t c).nextHandle = s.nextHandle := rfl
@[simp] theorem State.setCtxAt_moor (t : Thr) (c : Ctx) : (s.setCtxAt t c).moor = s.moor := rfl
@[simp] theorem State.setCtxAt_restore (t : Thr) (c : Ctx) : (s.setCtxAt t c).restore = s.restore := rfl
@[simp] theorem State.setCtxAt_tide (t : Thr) (c : Ctx) : (s.setCtxAt t c).tide = s.tide := rfl
@[simp] theorem State.setCtxAt_snap (t : Thr) (c : Ctx) : (s.setCtxAt t c).snap = s.snap := rfl
@[simp] theorem State.setCtxAt_ras (t : Thr) (c : Ctx) : (s.setCtxAt t c).ras = s.ras := rfl
@[simp] theorem State.setCtxAt_iu (t : Thr) (c : Ctx) : (s.setCtxAt t c).iu = s.iu := rfl
@[simp] theorem State.setCtxAt_ports (t : Thr) (c : Ctx) : (s.setCtxAt t c).ports = s.ports := rfl
@[simp] theorem State.setCtxAt_results (t : Thr) (c : Ctx) : (s.setCtxAt t c).results = s.results := rfl
@[simp] theorem State.setCtxAt_az (t : Thr) (c : Ctx) : (s.setCtxAt t c).az = s.az := rfl
@[simp] theorem State.setCtxAt_outs (t : Thr) (c : Ctx) : (s.setCtxAt t c).outs = s.outs := rfl
@[simp] theorem State.setCtxAt_freeCount (t : Thr) (c : Ctx) : (s.setCtxAt t c).freeCount = s.freeCount := rfl

/-! ### noteIssue -/

@[simp] theorem State.noteIssue_pending (t : Thr) : (s.noteIssue t).pending = s.pending := rfl
@[simp] theorem State.noteIssue_aoc (t : Thr) : (s.noteIssue t).aoc = s.aoc := rfl
@[simp] theorem State.noteIssue_fabric (t : Thr) : (s.noteIssue t).fabric = s.fabric := rfl
@[simp] theorem State.noteIssue_dev (t : Thr) : (s.noteIssue t).dev = s.dev := rfl
@[simp] theorem State.noteIssue_pw (t : Thr) : (s.noteIssue t).pw = s.pw := rfl
@[simp] theorem State.noteIssue_boot (t : Thr) : (s.noteIssue t).boot = s.boot := rfl
@[simp] theorem State.noteIssue_cfg (t : Thr) : (s.noteIssue t).cfg = s.cfg := rfl
@[simp] theorem State.noteIssue_jobs (t : Thr) : (s.noteIssue t).jobs = s.jobs := rfl
@[simp] theorem State.noteIssue_ms (t : Thr) : (s.noteIssue t).ms = s.ms := rfl
@[simp] theorem State.noteIssue_engines (t : Thr) : (s.noteIssue t).engines = s.engines := rfl
@[simp] theorem State.noteIssue_spans (t : Thr) : (s.noteIssue t).spans = s.spans := rfl
@[simp] theorem State.noteIssue_totals (t : Thr) : (s.noteIssue t).totals = s.totals := rfl
@[simp] theorem State.noteIssue_xings (t : Thr) : (s.noteIssue t).xings = s.xings := rfl
@[simp] theorem State.noteIssue_nextHandle (t : Thr) : (s.noteIssue t).nextHandle = s.nextHandle := rfl
@[simp] theorem State.noteIssue_moor (t : Thr) : (s.noteIssue t).moor = s.moor := rfl
@[simp] theorem State.noteIssue_restore (t : Thr) : (s.noteIssue t).restore = s.restore := rfl
@[simp] theorem State.noteIssue_tide (t : Thr) : (s.noteIssue t).tide = s.tide := rfl
@[simp] theorem State.noteIssue_snap (t : Thr) : (s.noteIssue t).snap = s.snap := rfl
@[simp] theorem State.noteIssue_ras (t : Thr) : (s.noteIssue t).ras = s.ras := rfl
@[simp] theorem State.noteIssue_iu (t : Thr) : (s.noteIssue t).iu = s.iu := rfl
@[simp] theorem State.noteIssue_ports (t : Thr) : (s.noteIssue t).ports = s.ports := rfl
@[simp] theorem State.noteIssue_results (t : Thr) : (s.noteIssue t).results = s.results := rfl
@[simp] theorem State.noteIssue_az (t : Thr) : (s.noteIssue t).az = s.az := rfl
@[simp] theorem State.noteIssue_outs (t : Thr) : (s.noteIssue t).outs = s.outs := rfl
@[simp] theorem State.noteIssue_freeCount (t : Thr) : (s.noteIssue t).freeCount = s.freeCount := rfl

/-! ### takeFree -/

@[simp] theorem State.takeFree_value : s.takeFree.1 = freeValue s.freeCount := rfl
@[simp] theorem State.takeFree_pending : s.takeFree.2.pending = s.pending := rfl
@[simp] theorem State.takeFree_aoc : s.takeFree.2.aoc = s.aoc := rfl
@[simp] theorem State.takeFree_fabric : s.takeFree.2.fabric = s.fabric := rfl
@[simp] theorem State.takeFree_dev : s.takeFree.2.dev = s.dev := rfl
@[simp] theorem State.takeFree_pw : s.takeFree.2.pw = s.pw := rfl
@[simp] theorem State.takeFree_boot : s.takeFree.2.boot = s.boot := rfl
@[simp] theorem State.takeFree_cfg : s.takeFree.2.cfg = s.cfg := rfl
@[simp] theorem State.takeFree_cores : s.takeFree.2.cores = s.cores := rfl
@[simp] theorem State.takeFree_jobs : s.takeFree.2.jobs = s.jobs := rfl
@[simp] theorem State.takeFree_ms : s.takeFree.2.ms = s.ms := rfl
@[simp] theorem State.takeFree_engines : s.takeFree.2.engines = s.engines := rfl
@[simp] theorem State.takeFree_spans : s.takeFree.2.spans = s.spans := rfl
@[simp] theorem State.takeFree_totals : s.takeFree.2.totals = s.totals := rfl
@[simp] theorem State.takeFree_xings : s.takeFree.2.xings = s.xings := rfl
@[simp] theorem State.takeFree_nextHandle : s.takeFree.2.nextHandle = s.nextHandle := rfl
@[simp] theorem State.takeFree_moor : s.takeFree.2.moor = s.moor := rfl
@[simp] theorem State.takeFree_restore : s.takeFree.2.restore = s.restore := rfl
@[simp] theorem State.takeFree_tide : s.takeFree.2.tide = s.tide := rfl
@[simp] theorem State.takeFree_snap : s.takeFree.2.snap = s.snap := rfl
@[simp] theorem State.takeFree_ras : s.takeFree.2.ras = s.ras := rfl
@[simp] theorem State.takeFree_iu : s.takeFree.2.iu = s.iu := rfl
@[simp] theorem State.takeFree_ports : s.takeFree.2.ports = s.ports := rfl
@[simp] theorem State.takeFree_results : s.takeFree.2.results = s.results := rfl
@[simp] theorem State.takeFree_az : s.takeFree.2.az = s.az := rfl
@[simp] theorem State.takeFree_outs : s.takeFree.2.outs = s.outs := rfl
@[simp] theorem State.takeFree_freeCount : s.takeFree.2.freeCount = s.freeCount + 1 := rfl

end Sys2Proof.Machine
end

