-- ==== Sys2Proof/Laws/Kept.lean ====
section
/-! SUPPORT. What the shared operations leave alone: the bytes of memory and the timers' compare registers. The one lemma per
operation that a proof over all commands cites. -/

set_option Elab.async false

namespace Sys2Proof.Machine

/-- `u` has the memory and the timers of `s`. -/
def State.Kept (s u : State) : Prop := u.ms.mem = s.ms.mem ∧ u.iu.compare = s.iu.compare ∧ u.iu.fired = s.iu.fired

variable {s u v : State}

theorem State.Kept.refl : s.Kept s := ⟨rfl, rfl, rfl⟩

theorem State.Kept.trans (h : s.Kept u) (h' : u.Kept v) : s.Kept v :=
  ⟨h'.1.trans h.1, h'.2.1.trans h.2.1, h'.2.2.trans h.2.2⟩

theorem State.Kept.ite {p : Prop} [Decidable p] (h : s.Kept u) (h' : s.Kept v) : s.Kept (if p then u else v) := by
  split <;> assumption

theorem State.Kept.foldl {α : Type} {f : State → α → State} (hf : ∀ (s : State) a, s.Kept (f s a)) (l : List α) : s.Kept (l.foldl f s) := by
  induction l generalizing s with
  | nil => exact .refl
  | cons a r ih => exact (hf s a).trans ih

/-! ### Accessors -/

theorem State.kept_setCore {k x} : s.Kept (s.setCore k x) := .refl
theorem State.kept_updCore {k f} : s.Kept (s.updCore k f) := .refl
theorem State.kept_setJob {p j} : s.Kept (s.setJob p j) := .refl
theorem State.kept_updJob {p f} : s.Kept (s.updJob p f) := .refl
theorem State.kept_setPort {p x} : s.Kept (s.setPort p x) := .refl
theorem State.kept_updPort {p f} : s.Kept (s.updPort p f) := .refl
theorem State.kept_updEngine {c n f} : s.Kept (s.updEngine c n f) := .refl
theorem State.kept_updSpan {p f} : s.Kept (s.updSpan p f) := .refl
theorem State.kept_countBy {o n} : s.Kept (s.countBy o n) := .refl
theorem State.kept_count {o} : s.Kept (s.count o) := .refl
theorem State.kept_out {o} : s.Kept (s.out o) := .refl
theorem State.kept_setCtxAt {t c} : s.Kept (s.setCtxAt t c) := .refl
theorem State.kept_takeFree : s.Kept s.takeFree.2 := .refl
theorem State.kept_takeRandom {n} : s.Kept (s.takeRandom n).2 := .refl
theorem State.kept_updMs {f : MemSys → MemSys} (h : ∀ m, (f m).mem = m.mem) : s.Kept (s.updMs f) := ⟨h _, rfl, rfl⟩

/-! ### Events and interrupt sources -/

theorem State.kept_setInput {n b} : s.Kept (s.setInput n b) := .refl
theorem State.kept_fire {n} : s.Kept (s.fire n) := by
  unfold State.fire
  split
  · exact .refl
  · split
    · exact .refl
    · dsimp only; split <;> exact .refl
theorem State.kept_post {p e} : s.Kept (s.post p e) := .refl
theorem State.kept_postBoth {e} : s.Kept (s.postBoth e) := .refl
theorem State.kept_postOwner {p e} : s.Kept (s.postOwner p e) := by
  unfold State.postOwner
  refine .trans ?_ (.foldl (fun _ _ => State.kept_post) _)
  split <;> exact .refl
theorem State.kept_evFault {c f} : s.Kept (s.evFault c f) := .ite State.kept_postBoth State.kept_postOwner
theorem State.kept_evDoneJob {p r c l} : s.Kept (s.evDoneJob p r c l) := State.kept_postOwner
theorem State.kept_respond {p r c d} : s.Kept (s.respond p r c d) := by
  unfold State.respond; dsimp only; split <;> exact .refl
theorem State.kept_settleTaken {p n} : s.Kept (s.settleTaken p n) := by
  induction n generalizing s with
  | zero => exact .refl
  | succ n ih =>
    unfold State.settleTaken
    split
    · exact .refl
    · split
      · exact .refl
      · exact (State.kept_updPort.trans State.kept_respond).trans ih
theorem State.kept_answer {p c d} : s.Kept (s.answer p c d) := by
  unfold State.answer
  split
  · exact .refl
  · exact (State.kept_respond.trans State.kept_updPort).trans State.kept_settleTaken
theorem State.kept_answerJob {o p c} : s.Kept (s.answerJob o p c) :=
  .foldl (fun s a => by split <;> first | exact .refl | (split <;> first | exact .refl | exact State.kept_answer)) _

/-! ### Threads, crossings, jobs -/

theorem State.kept_updThread {t f} : s.Kept (s.updThread t f) := by
  unfold State.updThread; dsimp only
  split
  · split <;> exact .refl
  · exact .refl
theorem State.kept_wakeCore {c} : s.Kept (s.wakeCore c) := .refl
theorem State.kept_wake {t f} : s.Kept (s.wake t f) := by
  unfold State.wake; dsimp only
  have h : s.Kept (s.updThread t fun c => { f c with status := .runnable, wait := WaitRec.idle }) := State.kept_updThread
  generalize (s.updThread t fun c => { f c with status := .runnable, wait := WaitRec.idle }) = u at h ⊢
  refine h.trans ?_
  split <;> exact .refl
theorem State.kept_setDev {d} : s.Kept (s.setDev d) := .ite .refl .refl
theorem State.kept_settleDev : s.Kept s.settleDev := .ite State.kept_setDev (.ite State.kept_setDev .refl)
theorem State.kept_abortXing {k c} : s.Kept (s.abortXing k c) := by
  unfold State.abortXing
  split
  · exact .refl
  · dsimp only
    have h1 : ∀ u : State, s.Kept u → s.Kept (if c = E.xingConflict ∨ c = E.xingTimeout then u.setInput 247 true else u) :=
      fun u h => .ite (h.trans State.kept_setInput) h
    have h2 := h1 _ (State.Kept.ite (p := abortCounter c = 0) .refl (State.kept_count (s := s) (o := abortCounter c)))
    generalize (if c = E.xingConflict ∨ c = E.xingTimeout then _ else _ : State) = u at h2 ⊢
    split
    · exact (h2.trans (v := { u with xings := u.xings.filter fun e => e.1 != k }) .refl).trans State.kept_updThread
    · split <;> exact h2
    · split <;> exact h2
    · exact h2
    · exact (h2.trans (v := { u with xings := u.xings.filter fun e => e.1 != k }) .refl).trans State.kept_updPort
theorem State.kept_abortWhere {p c} : s.Kept (s.abortWhere p c) := .foldl (fun _ _ => State.kept_abortXing) _
theorem State.kept_conflict {es} : s.Kept (s.conflict es) := State.kept_abortWhere
theorem State.kept_conflictRange {a n} : s.Kept (s.conflictRange a n) := State.kept_abortWhere
theorem State.kept_endJob {p r c} : s.Kept (s.endJob p r c) := .ite (State.kept_updJob.trans State.kept_settleDev) .refl
theorem State.kept_jobFault {p c f} : s.Kept (s.jobFault p c f) := .ite (State.kept_evFault.trans State.kept_endJob) .refl
theorem State.kept_threadFault {t p c} : s.Kept (s.threadFault t p c) := by
  unfold State.threadFault; dsimp only
  refine .trans ?_ (State.kept_updThread.trans (State.kept_updCore.trans State.kept_jobFault))
  split
  · exact State.kept_abortXing
  · exact .refl
theorem State.kept_laneFault {k h c} : s.Kept (s.laneFault k h c) := State.kept_jobFault
theorem State.kept_engineFault {d c} : s.Kept (s.engineFault d c) := by
  unfold State.engineFault; split <;> first | exact .refl | exact State.kept_jobFault
theorem State.kept_dropJob {p c} : s.Kept (s.dropJob p c) := by
  unfold State.dropJob; dsimp only
  refine .trans ?_ State.kept_updJob
  split <;> first | exact .refl | exact State.kept_evDoneJob
theorem State.kept_faultCapsules : s.Kept s.faultCapsules :=
  .foldl (fun s a => by
    split
    · exact .refl
    · split
      · exact State.kept_answer
      · split <;> first | exact .refl | exact State.kept_answer) _
theorem State.kept_abandon {c} : s.Kept (s.abandon c) := by
  unfold State.abandon State.Kept
  cases s.moor.owner <;> refine ⟨?_, ?_, ?_⟩ <;> dsimp only <;> split <;> rfl
theorem State.kept_abandonMoor {c} : s.Kept (s.abandonMoor c) := .ite State.kept_abandon .refl

/-- FAULTED changes no byte of memory (R587). -/
theorem State.kept_enterFaulted {n c l o k} : s.Kept (s.enterFaulted n c l o k) := by
  unfold State.enterFaulted
  split
  · exact .refl
  · dsimp only
    have h : s.Kept (((s.fire n).snapDetect c l o).count 0x1048) := State.kept_fire
    generalize (((s.fire n).snapDetect c l o).count 0x1048) = u at h ⊢
    refine h.trans ?_
    split
    · split
      · exact .refl
      · exact .trans (u := { u with snap := { u.snap with lawsReported := u.snap.lawsReported ||| l } }) .refl State.kept_postBoth
    · have h1 : u.Kept (u.abortWhere (fun x => x.st != .committing) E.noJob) := State.kept_abortWhere
      generalize u.abortWhere (fun x => x.st != .committing) E.noJob = w at h1 ⊢
      have h2 : u.Kept (w.abandonMoor c) := h1.trans State.kept_abandonMoor
      generalize w.abandonMoor c = x at h2 ⊢
      refine h2.trans (.trans (u := { x with snap := { x.snap with lawsReported := l } }) .refl ?_)
      generalize { x with snap := { x.snap with lawsReported := l } } = y
      have h3 : y.Kept (((y.postBoth (y.mkEvent 4 0 c (fatalBody k l o))).dropJob 0 c).dropJob 1 c).faultCapsules :=
        ((State.kept_postBoth.trans State.kept_dropJob).trans State.kept_dropJob).trans State.kept_faultCapsules
      generalize (((y.postBoth (y.mkEvent 4 0 c (fatalBody k l o))).dropJob 0 c).dropJob 1 c).faultCapsules = z at h3 ⊢
      have h4 : y.Kept (z.setDev .faulted) := h3.trans State.kept_setDev
      generalize z.setDev .faulted = z' at h4 ⊢
      exact ⟨h4.1, h4.2.1, h4.2.2⟩
theorem State.kept_lostLaw {l o k} : s.Kept (s.lostLaw l o k) := State.kept_enterFaulted

/-! ### Counters -/

theorem State.kept_advance {t} : s.Kept (s.advance t) := by
  unfold State.advance; split
  · exact .refl
  · exact .ite State.kept_threadFault State.kept_updThread
theorem State.kept_wakeCounter {p i} : s.Kept (s.wakeCounter p i) :=
  .foldl (fun _ _ => State.kept_wake.trans State.kept_advance) _
theorem State.kept_settleReleases {p} : s.Kept (s.settleReleases p) := .foldl (fun _ _ => by dsimp only; split <;> exact .refl) _
theorem State.kept_bindSlot {p i b} : s.Kept (s.bindSlot p i b) := .ite .refl (State.kept_updJob.trans State.kept_settleReleases)
theorem State.kept_addCtr {p i a} : s.Kept (s.addCtr p i a).2 := by
  unfold State.addCtr; dsimp only
  split
  · exact .refl
  · split
    · exact .refl
    · refine .trans ?_ State.kept_wakeCounter
      refine State.kept_updJob.trans (.ite (.foldl (fun _ _ => State.kept_bindSlot) _) .refl)
theorem State.kept_markPub {p i v a} : s.Kept (s.markPub p i v a) :=
  .ite .refl (.foldl (fun _ _ => State.kept_updJob) _)
theorem State.kept_doneCtr {d} : s.Kept (s.doneCtr d) := by
  unfold State.doneCtr; dsimp only
  split
  · exact .refl
  · split
    · exact .ite .refl State.kept_addCtr
    · have h := State.kept_addCtr (s := s) (p := d.pos) (i := fld d.raw 6 2) (a := 1)
      split <;> rename_i he <;> rw [he] at h
      · exact h
      · exact h.trans State.kept_engineFault
theorem State.kept_bumpCtr {p i} : s.Kept (s.bumpCtr p i) := by
  unfold State.bumpCtr
  have h := State.kept_addCtr (s := s) (p := p) (i := i) (a := 1)
  split <;> rename_i he <;> rw [he] at h
  · exact h
  · exact h.trans State.kept_jobFault

/-! ### Memory -/

theorem State.kept_markRow {r} : s.Kept (s.markRow r) := .ite .refl .refl
theorem State.kept_tallyRow {r w} : s.Kept (s.tallyRow r w) := by
  unfold State.tallyRow; dsimp only
  split
  · split
    · exact .refl
    · split <;> first | exact .refl | exact State.Kept.trans (u := State.updMs (State.updMs s _) _) .refl State.kept_markRow
  · split
    · exact .refl
    · split <;> first | exact .refl | exact State.Kept.trans (u := State.updMs (State.updMs s _) _) .refl State.kept_markRow
theorem State.kept_checkRead {a n e} : s.Kept (s.checkRead a n e).2 := by
  unfold State.checkRead
  cases e with
  | clean => exact .refl
  | single =>
    dsimp only
    split
    · exact (State.kept_count.trans State.kept_tallyRow).trans State.kept_fire
    · split
      · exact State.kept_count.trans State.kept_fire
      · exact .refl
  | double =>
    dsimp only
    split
    · exact (State.kept_count.trans (State.kept_updMs fun _ => rfl)).trans State.kept_markRow
    · split <;> exact .refl
theorem State.kept_touch {g} : s.Kept (s.touch g) := by
  unfold State.touch; split
  · exact .ite .refl .refl
  · exact .refl
theorem State.kept_youngPage {g} : s.Kept (s.youngPage g) := .refl
theorem State.kept_faultIn {p g k a} : s.Kept (s.faultIn p g k a) := .ite .refl .refl
theorem State.kept_openXing {k x} : s.Kept (s.openXing k x) := .refl

theorem State.kept_spanGuard {a n} : s.Kept (s.spanGuard a n) := .ite .refl (.foldl (fun _ _ => State.kept_updEngine) _)

/-- What a write at its home does to memory: the bytes it names, and no other (R298, R319). -/
theorem State.poke_mem {a bs} : (s.poke a bs).ms.mem = wrBytes s.ms.mem a bs := by
  unfold State.poke; dsimp only
  rw [(State.kept_conflictRange.trans State.kept_spanGuard (s := s)).1]

theorem State.poke_timers {a bs} : (s.poke a bs).iu.compare = s.iu.compare ∧ (s.poke a bs).iu.fired = s.iu.fired :=
  (State.kept_conflictRange.trans State.kept_spanGuard (s := s)).2

end Sys2Proof.Machine
end

