-- ==== Sys2Proof/Laws/Ops.lean ====
section
/-! SUPPORT. One lemma per shared operation that says what it can do: the accessors' reads after writes, an instruction's issue and
retirement, and a context's registers. -/

set_option Elab.async false

namespace Sys2Proof.Machine

/-! ### Reads after writes -/

theorem State.core_updCore_ne {s : State} {k j : Nat} {f : Core → Core} (h : j ≠ k) : (s.updCore k f).core j = s.core j :=
  tget_tset_ne h
@[simp] theorem State.core_updCore_self {s : State} {k : Nat} {f : Core → Core} : (s.updCore k f).core k = f (s.core k) := tget_tset_self
theorem State.job_updJob_ne {s : State} {p q : Nat} {f : Job → Job} (h : q ≠ p) : (s.updJob p f).job q = s.job q := tget_tset_ne h
@[simp] theorem State.job_updJob_self {s : State} {p : Nat} {f : Job → Job} : (s.updJob p f).job p = f (s.job p) := tget_tset_self
theorem State.port_updPort_ne {s : State} {p q : Nat} {f : Port → Port} (h : q ≠ p) : (s.updPort p f).port q = s.port q := tget_tset_ne h
@[simp] theorem State.port_updPort_self {s : State} {p : Nat} {f : Port → Port} : (s.updPort p f).port p = f (s.port p) := tget_tset_self

theorem State.berth_of_ctxAt {s : State} {t : Thr} {c : Ctx} (h : s.ctxAt t = some c) : (s.core t.core).berth t.berth = .resident c := by
  revert h; unfold State.ctxAt; split <;> simp [*]

@[simp] theorem Core.berth_setBerth_self {c : Core} {b : Nat} {x : Berth} : (c.setBerth b x).berth b = x := tget_tset_self
theorem Core.berth_setBerth_ne {c : Core} {a b : Nat} {x : Berth} (h : a ≠ b) : (c.setBerth b x).berth a = c.berth a := tget_tset_ne h

/-- A context put into a berth stands there. -/
@[simp] theorem State.ctxAt_setCtxAt {s : State} {t : Thr} {c : Ctx} : (s.setCtxAt t c).ctxAt t = some c := by
  unfold State.ctxAt State.setCtxAt
  rw [State.core_updCore_self, Core.berth_setBerth_self]

/-- Every other berth keeps its context. -/
theorem State.ctxAt_setCtxAt_ne {s : State} {t t' : Thr} {c : Ctx} (h : t' ≠ t) : (s.setCtxAt t c).ctxAt t' = s.ctxAt t' := by
  unfold State.ctxAt State.setCtxAt
  by_cases hk : t'.core = t.core
  · have hb : t'.berth ≠ t.berth := by intro hb; apply h; cases t; cases t'; simp_all
    rw [hk, State.core_updCore_self, Core.berth_setBerth_ne hb]
  · rw [State.core_updCore_ne hk]

/-- Issuing leaves every context as it is. -/
@[simp] theorem State.ctxAt_noteIssue {s : State} {t t' : Thr} : (s.noteIssue t).ctxAt t' = s.ctxAt t' := by
  unfold State.ctxAt State.noteIssue
  by_cases hk : t'.core = t.core
  · rw [hk, State.core_updCore_self]; rfl
  · rw [State.core_updCore_ne hk]

/-! ### What issue and retirement leave alone -/

theorem State.job_noteIssue {s : State} {t : Thr} {p : Nat} : (s.noteIssue t).job p = s.job p := rfl
theorem State.posOf_noteIssue {s : State} {t : Thr} {k : Nat} : (s.noteIssue t).posOf k = s.posOf k := rfl
theorem State.codeWords_noteIssue {s : State} {t : Thr} {p : Nat} : (s.noteIssue t).codeWords p = s.codeWords p := rfl
theorem State.xlate_noteIssue {s : State} {t : Thr} {p a : Nat} {w : Bool} : (s.noteIssue t).xlate p a w = s.xlate p a w := rfl
theorem State.codeWords_congr {s u : State} {p : Nat} (h : u.jobs = s.jobs) : u.codeWords p = s.codeWords p := by
  simp only [State.codeWords, State.job, h]
theorem State.posOf_congr {s u : State} {k : Nat} (h : u.cfg = s.cfg) : u.posOf k = s.posOf k := by
  unfold State.posOf State.reserved; rw [h]

/-! ### Issue and retirement (R153 to R157, R189) -/

/-- What `ready` answers: the context in the berth, RUNNABLE, of a RUNNING job on a core in RUN (R155, R156). -/
theorem State.ready_some {s : State} {t : Thr} {c : Ctx} (h : s.ready t = some c) :
    s.ctxAt t = some c ∧ c.status = .runnable ∧ (s.job (s.posOf t.core)).st = .running ∧ (s.core t.core).power = .run := by
  unfold State.ready at h; grind

/-- A berth whose sources have all arrived issues: the instruction's own effect follows, and nothing else. -/
theorem State.issue_runs {s : State} {t : Thr} {c : Ctx} {rs : List Reg} {ps : List Prd} {inX : Bool} {body : Ctx → State → State}
    (h : s.ready t = some c) (ha : c.awaits rs ps = false) (hp : c.pc.toNat < s.codeWords (s.posOf t.core)) (hx : inX = true ∨ c.xing = none) :
    s.issue t rs ps inX body = body c (s.noteIssue t) := by
  have hw : ¬ s.codeWords (s.posOf t.core) ≤ c.pc.toNat := by omega
  have hxx : (c.xing.isSome && !inX) = false := by rcases hx with h | h <;> simp [h]
  simp [State.issue, h, ha, hw, hxx]

/-- Everything an issue can do: nothing, wait for a source, fault the thread, or run the instruction (R154 to R157, R303). -/
theorem State.issue_cases {s : State} {t : Thr} {rs : List Reg} {ps : List Prd} {inX : Bool} {body : Ctx → State → State} :
    (s.ready t = none ∧ s.issue t rs ps inX body = s) ∨
    ∃ c, s.ready t = some c ∧
      ((c.awaits rs ps = true ∧ s.issue t rs ps inX body = s.pend t c) ∨
       (s.issue t rs ps inX body = s.threadFault c.tid c.pc E.argRange) ∨
       (c.xing.isSome = true ∧ inX = false ∧ s.issue t rs ps inX body = s.threadFault c.tid c.pc E.argFormat) ∨
       (c.awaits rs ps = false ∧ c.pc.toNat < s.codeWords (s.posOf t.core) ∧ s.issue t rs ps inX body = body c (s.noteIssue t))) := by
  unfold State.issue
  split
  · exact .inl ⟨by assumption, rfl⟩
  · rename_i c hc
    refine .inr ⟨c, hc, ?_⟩
    split
    · exact .inl ⟨by assumption, rfl⟩
    · split
      · exact .inr (.inl rfl)
      · split
        · rename_i h; simp only [Bool.and_eq_true, Bool.not_eq_true'] at h; exact .inr (.inr (.inl ⟨h.1, h.2, rfl⟩))
        · exact .inr (.inr (.inr ⟨by simp_all, by omega, rfl⟩))

/-- An instruction that is not the region's last retires with its PC one higher (R189). -/
theorem State.retire_inside {s : State} {t : Thr} {c : Ctx} (h : c.pc.toNat + 1 < s.codeWords (s.posOf t.core)) :
    s.retire t c = s.setCtxAt t { c with pc := c.pc + 1 } := by
  have : ¬ s.codeWords (s.posOf t.core) ≤ c.pc.toNat + 1 := by omega
  simp [State.retire, this]

/-- The last instruction of the region faults its thread after its effect (R154). -/
theorem State.retire_outside {s : State} {t : Thr} {c : Ctx} (h : s.codeWords (s.posOf t.core) ≤ c.pc.toNat + 1) :
    s.retire t c = (s.setCtxAt t c).threadFault c.tid c.pc E.argRange := by
  simp [State.retire, h]

/-! ### Registers and predicates of a context (R153, R188, R191) -/

@[simp] theorem Ctx.reg_zero {c : Ctx} : c.reg 0 = 0 := rfl
@[simp] theorem Ctx.setReg_pc {c : Ctx} {r : Reg} {v : W64} : (c.setReg r v).pc = c.pc := by unfold Ctx.setReg; split <;> rfl
@[simp] theorem Ctx.setReg_pred {c : Ctx} {r : Reg} {v : W64} : (c.setReg r v).pred = c.pred := by unfold Ctx.setReg; split <;> rfl
@[simp] theorem Ctx.setReg_status {c : Ctx} {r : Reg} {v : W64} : (c.setReg r v).status = c.status := by unfold Ctx.setReg; split <;> rfl
@[simp] theorem Ctx.setReg_xing {c : Ctx} {r : Reg} {v : W64} : (c.setReg r v).xing = c.xing := by unfold Ctx.setReg; split <;> rfl
@[simp] theorem Ctx.write_pc {c : Ctx} {r : Reg} {v : W64} : (c.write r v).pc = c.pc := Ctx.setReg_pc
@[simp] theorem Ctx.write_pred {c : Ctx} {r : Reg} {v : W64} : (c.write r v).pred = c.pred := Ctx.setReg_pred
@[simp] theorem Ctx.write_status {c : Ctx} {r : Reg} {v : W64} : (c.write r v).status = c.status := Ctx.setReg_status
@[simp] theorem Ctx.write_xing {c : Ctx} {r : Reg} {v : W64} : (c.write r v).xing = c.xing := Ctx.setReg_xing
@[simp] theorem Ctx.writePrd_pc {c : Ctx} {p : Prd} {b : Bool} : (c.writePrd p b).pc = c.pc := rfl
@[simp] theorem Ctx.await_pc {c : Ctx} {d : Dest} {x : ResSrc} : (c.await d x).pc = c.pc := rfl

/-- A write to g0 is discarded (R188). -/
theorem Ctx.setReg_zero {c : Ctx} {v : W64} : c.setReg 0 v = c := rfl

/-- A write leaves every other register alone (R188). -/
theorem Ctx.reg_setReg_ne {c : Ctx} {r q : Reg} {v : W64} (h : q ≠ r) : (c.setReg r v).reg q = c.reg q := by
  unfold Ctx.setReg Ctx.reg
  split
  · rfl
  · split
    · rfl
    · exact tget_tset_ne fun h' => h (BitVec.eq_of_toNat_eq h')

/-- What is written reads back (R188). -/
theorem Ctx.reg_setReg_self {c : Ctx} {r : Reg} {v : W64} (h : r ≠ 0) : (c.setReg r v).reg r = v := by
  unfold Ctx.setReg Ctx.reg
  simp only [h, if_false]
  exact tget_tset_self

end Sys2Proof.Machine
end

