-- ==== Sys2Proof/Safety.lean ====
section
/-! DEFINITION. What counts as a safe run: no step of it ends in a fault or a refusal. -/

namespace Sys2Proof

/-- The step from `s` answers a next state. -/
def stepSafe (s : Machine.State) : Prop := ∃ t, Machine.step s = .next t

/-- `k` steps from `s` answer next states throughout. -/
def runSafe : Nat → Machine.State → Prop
  | 0, _ => True
  | k + 1, s => ∃ t, Machine.step s = .next t ∧ runSafe k t

end Sys2Proof
end

