-- ==== Sys2Proof/Tests/Slice0.lean ====
section
/-! SUPPORT. The model's own tests: ill-formed commands that WellFormed refuses, worked words of chapter 7, and for every statement
with hypotheses a state and operands that meet them. -/

set_option Elab.async false

open Sys2Proof Sys2Proof.Machine Sys2Proof.Claim

namespace Sys2Proof.Tests

/-! ### A small running state -/

/-- Thread 0 of core 0, at PC 5, with g1 = 64, g2 = 4096 (a scratchpad word index), g3 = 3. -/
def ctx0 : Ctx :=
  { tid := 0, pc := 5, stream := 0, group := 7, pred := 0b0010, status := .runnable, g := [(1, 64), (2, 4096), (3, 3)]
    wait := WaitRec.idle, out := [], xing := none, since := 0 }

def core0 : Core := { Core.reset with power := .run, berths := [(0, .resident ctx0), (4, .resident { ctx0 with tid := 1 })] }

/-- One writable 64 KiB DRAM page at job address 0x10000, and the swap area on it. -/
def pte0 : Pte :=
  { large := false, flash := false, writable := true, resident := true, pin := false, protect := false, frame := 0x100000, dirty := 0
    flashPage := 0 }

def lane0 : CoreDecl :=
  { core := 0, lane := true, laneGroup := 0, laneStream := 0, swapBase := 0x10000, laneBase := 0, laneLength := 4, tailCtr := 1
    headCtr := 2 }

def man0 : Manifest := { Manifest.empty with codeWords := 100, cores := [lane0] }

def job0 : Job := { Job.absent with st := .running, owner := some 0, man := man0, pages := [(1, pte0)], streams := [(9, 0)] }

def s0 : State := { State.reset with dev := .active, cores := [(0, core0)], jobs := [(0, job0)] }

def t0 : Thr := { core := 0, berth := 0 }

/-! ### Chapter 7 -/

/-- `ctx0` may issue an instruction that reads any register or predicate. -/
theorem runs0 (rs : List Reg) (ps : List Prd) : Runs s0 t0 ctx0 rs ps := ⟨by decide, rfl, by decide⟩

theorem test_wit_IntegerResults : Runs s0 t0 ctx0 [1, 2] [] ∧ Runs s0 t0 ctx0 (1 :: src2Regs (.imm 63)) [] ∧
    (∀ v, Src2.imm 63 = Src2.imm v → v.toNat < 64) :=
  ⟨runs0 _ _, runs0 _ _, fun v h => by cases h; decide⟩

theorem test_wit_IntegerFrame : Runs s0 t0 ctx0 (1 :: src2Regs (.imm 63)) [] ∧ (∀ v, Src2.imm 63 = Src2.imm v → v.toNat < 64) :=
  ⟨runs0 _ _, fun v h => by cases h; decide⟩

theorem test_wit_CompareSelectResults : Runs s0 t0 ctx0 [1, 2] [] ∧ Runs s0 t0 ctx0 [1, 2] [1] ∧ Runs s0 t0 ctx0 [] [0, 1] :=
  ⟨runs0 _ _, runs0 _ _, runs0 _ _⟩

theorem test_wit_ScalarFpResults : (0 = (0 : BitVec 2) ∧ Rnd.rne = .rne) ∧ (1 = (1 : BitVec 2) ∧ Rnd.rtz = .rtz) ∧ Runs s0 t0 ctx0 [1, 2, 3] [] :=
  ⟨⟨rfl, rfl⟩, ⟨rfl, rfl⟩, runs0 _ _⟩

theorem test_wit_LoadsIssue : Runs s0 t0 ctx0 [2] [] ∧ ctx0.xing = none ∧ ctx0.wordIndex 2 0 = some 4096 ∧
    s0.posOf (4096 / 2 ^ 20) = s0.posOf 0 ∧ 4096 % 2 = 0 ∧ ctx0.byteAddr 0 0x10000 = 0x10000 ∧ reaches s0 t0 0x10000 false ∧
    walkable s0 t0 0x10000 :=
  ⟨runs0 _ _, rfl, by decide, by decide, by decide, by decide, ⟨0x100000, some (1, pte0), by decide⟩, by unfold walkable; decide +kernel⟩

theorem test_wit_StoresRetire : Runs s0 t0 ctx0 [2, 3] [] ∧ ctx0.xing = none ∧ ctx0.wordIndex 2 0 = some 4096 ∧
    s0.posOf (4096 / 2 ^ 20) = s0.posOf 0 ∧ ctx0.byteAddr 0 0x10008 = 0x10008 ∧ reaches s0 t0 0x10008 true ∧
    walkable s0 t0 0x10008 :=
  ⟨runs0 _ _, rfl, by decide, by decide, by decide, ⟨0x100008, some (1, pte0), by decide⟩, by unfold walkable; decide +kernel⟩

/-- A context with a value, a load and a token word on their way. -/
def ctxOut : Ctx :=
  { ctx0 with out := [{ dest := .reg 4, src := .value 9, pc := 4, inXing := false }, { dest := .reg 5, src := .load 0x10000 8 false, pc := 4, inXing := false },
                      { dest := .reg 6, src := .tok 4096 7, pc := 4, inXing := false }] }

def sOut : State := { s0 with cores := [(0, { core0 with berths := [(0, .resident ctxOut)] })] }

theorem test_wit_LoadReturns : sOut.ctxIn t0 = some ctxOut ∧ (ctxOut.out[0]?).map Outst.src = some (.value 9) ∧
    (ctxOut.out[1]?).map Outst.src = some (.load 0x10000 8 false) ∧ sOut.xlate (sOut.posOf 0) 0x10000 false = .phys 0x100000 (some (1, pte0)) ∧
    sOut.rangeLanding 0x100000 8 = false ∧ sOut.ms.poisoned 0x100000 8 = false ∧
    (let s : State := { sOut with ms := { sOut.ms with dramBad := [0x4000] } }
     s.ctxIn t0 = some ctxOut ∧ s.rangeLanding 0x100000 8 = false ∧ s.ms.poisoned 0x100000 8 = true ∧ s.covered ctxOut 0x10000 8 = false) ∧
    (ctxOut.out[2]?).map Outst.src = some (.tok 4096 7) := by decide +kernel

def store0 (k : StoreKind) : PStore :=
  { serial := 0, core := 0, tid := 0, pos := 0, pc := 4, va := 0x10000, size := 8, data := 5, kind := k, held := false }

def sStore (k : StoreKind) : State := { s0 with ms := { s0.ms with stores := [store0 k], serial := 1 } }

theorem test_wit_StoresPerform : ∀ k ∈ ([.store, .atomic 0 0] : List StoreKind), (sStore k).ms.stores[0]? = some (store0 k) ∧
    (sStore k).storeFirst 0 (store0 k) = true ∧ (sStore k).xlate 0 0x10000 true = .phys 0x100000 (some (1, pte0)) ∧
    (sStore k).needsCopy 0 (some (1, pte0)) = false ∧ (sStore k).rangeHeld 0x100000 8 = false ∧
    (sStore k).pageHeld 0 (some (1, pte0)) = false ∧ (sStore k).ms.poisoned 0x100000 8 = false ∧ ((store0 k).kind = .store ∨ (store0 k).kind = .atomic 0 0) := by decide

theorem test_wit_BranchesMovePc : Runs s0 t0 ctx0 [] [1] ∧ branchTarget ctx0.pc 10 (s0.codeWords (s0.posOf 0)) = some 15 ∧
    ctx0.prd 1 = true ∧ ctx0.prd 1 ≠ false ∧ (ctx0.reg 1).toNat < 2 ^ 32 ∧ (ctx0.reg 1).toNat < s0.codeWords (s0.posOf 0) :=
  ⟨runs0 _ _, by decide, by decide, by decide, by decide, by decide⟩

theorem test_wit_CounterInstructions : Runs s0 t0 ctx0 [1, 3] [] ∧ ctrOk (s0.posOf 0) (ctx0.ctrId 1 2) = true ∧ ctx0.xing = none ∧
    (ctx0.reg 0).toNat % 2 ^ 32 ≤ (s0.ctr 0 (ctx0.ctrId 1 2)).toNat ∧ (s0.ctr 0 (ctx0.ctrId 1 2)).toNat < (ctx0.reg 3).toNat % 2 ^ 32 ∧
    s0.storesDone ctx0.tid = true ∧ (s0.ctr 0 (ctx0.ctrId 1 2)).toNat + (ctx0.reg 3).toNat % 2 ^ 32 < 2 ^ 32 :=
  ⟨runs0 _ _, by decide, rfl, by decide, by decide, by decide, by decide⟩

/-- A ring of one slot of 16 words at word 4096 of core 0, its token as given. -/
def sTok (k : Tok) : State :=
  { s0 with cores := [(0, { core0 with tokens := [(4096, { k with words := 16 })] })]
            jobs := [(0, { job0 with man := { man0 with rings := [{ base := 4096, sizeLog2 := 4, core := 0, slots := 1, initFull := 0 }] } })] }

def tokOf (full : Bool) (holder : Option Nat) : Tok := { full := full, holder := holder, waiters := [], words := 16 }

theorem runsTok (k : Tok) (rs : List Reg) : Runs (sTok k) t0 ctx0 rs [] := ⟨rfl, rfl, show 6 < 100 by decide⟩

theorem test_wit_TakeAndGive : tokenAt (sTok (tokOf true none)) t0 ctx0 2 0 4096 { core := 0, first := 4096, words := 16, at_ := 0 } ∧
    ((sTok (tokOf true none)).tok { core := 0, first := 4096, words := 16, at_ := 0 }).holder = none ∧
    ((sTok (tokOf true none)).tok { core := 0, first := 4096, words := 16, at_ := 0 }).full = true ∧
    ((sTok (tokOf false none)).tok { core := 0, first := 4096, words := 16, at_ := 0 }).full = false ∧
    ((sTok (tokOf false (some 0))).tok { core := 0, first := 4096, words := 16, at_ := 0 }).holder = some ctx0.tid ∧
    (sTok (tokOf false (some 0))).storesDone ctx0.tid = true ∧ ctx0.xing = none :=
  ⟨⟨by decide, by decide, by decide⟩, by decide, by decide, by decide, by decide, by decide, rfl⟩

/-- The last word of the slot of `sTok` is word 4111. -/
theorem test_wit_TokenLoadStore : tokenAt (sTok (tokOf true none)) t0 ctx0 2 15 4111 { core := 0, first := 4096, words := 16, at_ := 15 } ∧
    tokenAt (sTok (tokOf true none)) t0 ctx0 2 0 4096 { core := 0, first := 4096, words := 16, at_ := 0 } ∧
    (∀ k ∈ [tokOf true none, tokOf false none, tokOf true (some 0), tokOf true (some 1)], (sTok k).storesDone ctx0.tid = true ∧
      (sTok k).ms.poisoned (wordAddr 4111) 4 = false ∧ (sTok k).storesTo ctx0.tid (wordAddr 4111) 4 = false ∧ (sTok k).rangeHeld (wordAddr 4111) 4 = false ∧
      ((sTok k).tok { core := 0, first := 4096, words := 16, at_ := 15 }).holder = k.holder) :=
  ⟨⟨by decide, by decide, by decide⟩, ⟨by decide, by decide, by decide⟩, by decide +kernel⟩

/-- A word in no ring, a word of a slot that is not its first, and a first word held by nobody and by the thread itself. -/
theorem test_wit_TokenFaults : (Runs s0 t0 ctx0 [2, 3] [] ∧ ctx0.wordIndex 2 0 = some 4096 ∧ s0.slotAt (s0.posOf 0) 4096 = none) ∧
    (ctx0.xing = none ∧ s0.posOf (4096 / 2 ^ 20) = s0.posOf 0) ∧
    tokenAt (sTok (tokOf true none)) t0 ctx0 2 15 4111 { core := 0, first := 4096, words := 16, at_ := 15 } ∧
    tokenAt (sTok (tokOf true none)) t0 ctx0 2 0 4096 { core := 0, first := 4096, words := 16, at_ := 0 } ∧
    ((sTok (tokOf true none)).tok { core := 0, first := 4096, words := 16, at_ := 0 }).holder ≠ some ctx0.tid ∧
    ((sTok (tokOf false (some 0))).tok { core := 0, first := 4096, words := 16, at_ := 0 }).holder = some ctx0.tid :=
  ⟨⟨runs0 _ _, by decide, by decide⟩, ⟨rfl, by decide⟩, ⟨by decide, by decide, by decide⟩, ⟨by decide, by decide, by decide⟩, by decide, by decide⟩

def atomF0 (wide rel : Bool) : AtomF := { wide := wide, acq := false, rel := rel, off := 0x10000 }

theorem test_wit_AtomicsIssue : Runs s0 t0 ctx0 [0, 3, 4] [] ∧ ctx0.atomAddr 0 (atomF0 true true) = 0x10000 ∧ 0x10000 % 8 = 0 ∧
    reaches s0 t0 0x10000 true ∧ walkable s0 t0 0x10000 ∧ s0.storesDone ctx0.tid = true ∧ (atomF0 false false).wide = false ∧
    (atomF0 true true).wide = true :=
  ⟨runs0 _ _, by decide, by decide, ⟨0x100000, some (1, pte0), by decide⟩, by unfold walkable; decide +kernel, by decide, rfl, rfl⟩

theorem test_wit_AtomicValues : (4 = 4 ∨ 4 = 8) ∧ 2 ^ 32 - 1 < 2 ^ (8 * 4) ∧ (8 = 4 ∨ 8 = 8) ∧ 2 ^ 64 - 1 < 2 ^ (8 * 8) := by decide

/-- As `s0`, with no other thread. -/
def sAlone : State := { s0 with cores := [(0, { core0 with berths := [(0, .resident ctx0)] })] }

theorem test_wit_SystemInstructions : Runs s0 t0 ctx0 [1] [] ∧ Runs s0 t0 ctx0 [] [0, 1, 2, 3] ∧ ctx0.xing = none ∧ s0.storesDone ctx0.tid = true ∧
    (s0.core 0).berth 4 = .resident { ctx0 with tid := 1 } ∧
    (sAlone.core 0).berths = [(0, .resident ctx0)] ∧ Runs sAlone t0 ctx0 [] [] :=
  ⟨runs0 _ _, runs0 _ _, rfl, by decide, by decide, by decide, by decide, rfl, by decide⟩

def ctxX : Ctx := { ctx0 with xing := some { entry := 0, rd := 4, target := 20 } }

def xing0 (op : XOpener) : XEntry :=
  { opener := op, pos := 0, st := .opened, reads := [.granule 0x4000], wset := [.granule 0x4000], writes := [(0x10000, [1, 2])], acts := 1
    openedAt := 0, attempt := 1, exclusive := false, timeout := 100 }

def sX : State := { s0 with cores := [(0, { core0 with berths := [(0, .resident ctxX)] })], xings := [(0, xing0 (.thread 0 0))] }

theorem test_wit_ThreadCrossings : Runs s0 t0 ctx0 [] [] ∧ ctx0.xing = none ∧ (s0.freeThreadEntry 0).isSome = true ∧
    ({ s0 with xings := (List.range 64).map fun k => (k, xing0 (.thread 0 k)) } : State).freeThreadEntry 0 = none ∧
    Runs sX t0 ctxX [] [] ∧ ctxX.xing = some { entry := 0, rd := 4, target := 20 } ∧
    sX.xings.find? (fun e => e.1 == 0) = some (0, xing0 (.thread 0 0)) ∧ sX.storesDone ctxX.tid = true ∧
    sX.entBad (.granule 0x4000) = false ∧ sX.aoc < 0 + 100 ∧ (match sX.spanOf (sX.posOf 0) 0x10000 2 true with
      | .runs rs => rs.all fun r => !sX.needsCopy (sX.posOf 0) r.page && !sX.pageHeld (sX.posOf 0) r.page
      | _ => false) = true :=
  ⟨runs0 _ _, rfl, by decide, by decide, ⟨by decide, rfl, by decide⟩, rfl, by decide, by decide, by decide, by decide, by decide⟩

/-- A RND_CTR_SET descriptor with no status record and no DONE counter. -/
def rndSet : List Byte := leBytes 8 0xFFFF000000000503 ++ List.replicate 56 0

def ctxI : Ctx := { ctx0 with group := 0, g := [(2, 4096), (8, 0xFFFF000000000503)] }

/-- The descriptor stands in g8 to g15 and at word 4096 of core 0. -/
def sI : State :=
  { s0 with cores := [(0, { core0 with berths := [(0, .resident ctxI)] })]
            jobs := [(0, { job0 with man := { man0 with groups := [1] }, pages := (0, { pte0 with frame := 0x200000 }) :: job0.pages
                                     counters := [(1, 1)] })]
            ms := { s0.ms with mem := wrBytes (wrBytes [] (wordAddr 4096) rndSet) 0x200000 rndSet } }

/-- The port accepted. -/
def taken (a : PortAns) : Bool := match a with
  | .ok _ => true
  | _ => false

theorem test_wit_IssueHandsOver : Runs sI t0 ctxI [8, 9, 10, 11, 12, 13, 14, 15] [] ∧ ctxI.xing = none ∧ sI.storesDone 0 = true ∧
    (8 : Reg).toNat % 8 = 0 ∧ (8 : Reg) ≠ 0 ∧ sI.portWinner 0 0 [] = 0 ∧ taken ((sI.noteIssue t0).offer 0 (.thread 0 0 5) 0 (patch rndSet 2 [0]) []) = true ∧
    (([8, 9, 10, 11, 12, 13, 14, 15] : List Reg).flatMap fun r => leBytes 8 (ctxI.reg r).toNat) = rndSet ∧
    ctxI.wordIndex 2 0 = some 4096 ∧ 4096 % 16 = 0 ∧ 4096 / 2 ^ 20 = t0.core ∧ ((sI.noteIssue t0).readSees 0 [(wordAddr 4096, 64)] []).1 = true ∧
    (let u := ((sI.noteIssue t0).readSees 0 [(wordAddr 4096, 64)] []).2
     u.storesDone 0 = true ∧ rdBytes u.ms.mem (wordAddr 4096) 64 = rndSet ∧ taken (u.offer 0 (.thread 0 0 5) 0 (patch rndSet 2 [0]) []) = true) :=
  ⟨⟨by decide +kernel, rfl, by decide +kernel⟩, by decide +kernel⟩

theorem test_wit_LaneIssues : (sI.job 0).st = .running ∧ (sI.core 0).power = .run ∧ sI.laneNext 0 = some (lane0, 0) ∧
    sI.posOf 0 = 0 ∧ sI.readJob 0 0 64 = rndSet ∧ (match sI.spanOf 0 0 64 false with | .runs _ => true | _ => false) = true ∧
    sI.laneHeld 0 rndSet = false ∧ sI.portWinner 0 4 [] = 4 ∧ (sI.readSees 0 [(0, 64)] []).1 = true ∧
    (let u := (sI.readSees 0 [(0, 64)] []).2
     taken (u.offer 0 (.lane 0) 0 (u.readJob 0 0 64) []) = true) := by decide +kernel

/-- After an acceptance of pipeline 3 the lane comes before pipeline 0, which keeps its ISSUE. -/
theorem test_wit_PortTakesTurns : (let s := sI.updCore 0 fun k => { k with portLast := 3 }
    (s.core 0).portLast < 5 ∧ s.mayPresent 0 4 = true ∧ s.portWinner 0 0 [4] = 4 ∧ Runs s t0 ctxI [8, 9, 10, 11, 12, 13, 14, 15] []) :=
  ⟨by decide +kernel, by decide +kernel, by decide +kernel, by decide +kernel, by decide +kernel, by decide +kernel⟩

theorem test_wit_IllegalWordFaults : Runs s0 t0 ctx0 [] [] ∧ legal 0xFF00000000000000 = false := ⟨runs0 _ _, by decide⟩

theorem test_wit_TillerWordsRoundTrip : (Instr.add t0 1 2 (.imm 7)).thr = some t0 ∧ (Instr.add t0 1 2 (.imm 7)).wordOk = true ∧
    (encodeTiller (.add t0 1 2 (.imm 7))).isSome = true ∧ legal 0x7000800000000000 = true ∧ legal 0 = true ∧
    legal (BitVec.allOnes 64) = false := by decide

/-! ### Engines -/

/-- `n` bytes with little-endian fields (offset, size, value); every other byte is 0. -/
def pack (n : Nat) (fs : List (Nat × Nat × Nat)) : List Byte :=
  (List.range n).map fun i => match fs.find? fun f => decide (f.1 ≤ i ∧ i < f.1 + f.2.1) with
    | some f => BitVec.ofNat 8 (f.2.2 / 256 ^ (i - f.1))
    | none => 0

/-- A descriptor that thread 0 of core 0 issued. -/
def dsc (op : Nat) (fs : List (Nat × Nat × Nat)) (aux : List (Nat × Nat × Nat) := []) : Desc :=
  { fwDesc (pack 64 ((0, 2, op) :: fs)) (pack 64 aux) with issuer := .thread 0 0 5, account := 0 }

/-- `s` with these descriptors in the queue of an engine, the first of them running. -/
def onEngine (s : State) (cls num : Nat) (ds : List Desc) (run : Bool := true) : State :=
  s.updEngine cls num fun e => { e with queue := ds, running := if run then some 0 else none, sliceAccount := if run then some 0 else none }

/-- Two accounts have a ready descriptor at an instance. -/
def sTwo : State := onEngine s0 5 0 [dsc 0x0503 [], { dsc 0x0503 [] with account := 3, serial := 1 }] false

/-- Its slice goes on. -/
def sKept : State := sTwo.updEngine 5 0 fun e => { e with sliceAccount := some 0, slice := 9 }

theorem test_wit_EnginesTakeTurns : sTwo.live = true ∧ instanceExists 5 0 = true ∧ (sTwo.refresh (sTwo.engine 5 0)).running = none ∧
    (let e := sTwo.refresh (sTwo.engine 5 0)
     e.sliceAccount = none ∧ (e.choose ((sTwo.readyAccounts e).filter fun a => !((sTwo.candidates e).filter fun d => d.account == a).isEmpty)).2.isSome = true) ∧
    (let e := s0.refresh (s0.engine 5 0)
     e.running = none ∧ e.sliceAccount = none ∧ (e.choose ((s0.readyAccounts e).filter fun a => !((s0.candidates e).filter fun d => d.account == a).isEmpty)).2 = none) ∧
    (let e := sKept.refresh (sKept.engine 5 0)
     e.running = none ∧ e.sliceAccount = some 0 ∧ 0 < e.slice ∧ ((sKept.candidates e).filter fun d => d.account == 0) ≠ []) ∧
    ((onEngine sTwo 5 0 [dsc 0x0503 []]).engine 5 0).running = some 0 ∧ ((onEngine sTwo 5 0 [dsc 0x0503 []]).engine 5 0).sliceAccount = some 0 ∧
    (s0.engine 10 0).busyWith = none ∧ instanceExists 10 0 = true := by decide +kernel

/-- Account 3 has the same toll as account 0, and the lower number is picked. -/
theorem test_wit_LowestTollIsPicked : isShared (sTwo.engine 5 0).cls = false ∧ [0, 3].Pairwise (· < ·) ∧ (sTwo.engine 5 0).pick [0, 3] = some 0 := by
  decide +kernel

/-- C = A S in FP32 from BF16 operands, M = N = K = 1, or a PAIR of two. -/
def mm (pair : Bool) : Desc :=
  dsc 0x0101 [(16, 1, 0x11), (18, 1, 1 + if pair then 16 else 0), (19, 1, 2), (20, 4, 1), (24, 4, 1), (28, 4, 1), (32, 8, spBase),
    (40, 8, spBase + 16), (48, 8, spBase + 32)]

def mm2 : Desc := { mm false with serial := 1 }

/-- Two operations wait, the first with or without PAIR. -/
def sSpan (pair : Bool) : State := onEngine s0 1 0 [{ mm pair with mate := if pair then some 1 else none }, { mm2 with mate := if pair then some 0 else none }] false

/-- The operation runs. -/
def sRow : State :=
  { onEngine s0 1 0 [mm false] true with spans := [{ Span.reset with plans := [s0.planOf (mm false)] }, Span.reset] }

def slot1 : RowSlot :=
  { d := mm false, p := s0.planOf (mm false), core := 0, chain := 0, q := 0, turn := 0, item := 0, round := 0, pass := 0, row := 0 }

theorem test_wit_SpanChoice : (sSpan false).chooseSpan 0 = some (mm false) ∧ (mm false).pair = false ∧
    ((sSpan true).chooseSpan 0).map Desc.serial = some 0 ∧ (mm true).pair = true ∧
    ((sSpan true).engine 1 0).partnerOf { mm true with mate := some 1 } = some { mm2 with mate := some 0 } ∧ ((sSpan true).span 0).plans = [] := by
  decide +kernel

theorem test_wit_SpanRow : sRow.rowSlot 0 0 = some slot1 ∧ sRow.rowStalls 0 slot1 = false ∧ slot1.reads = [(spBase, 2)] ∧
    ((sRow.accRead 0 slot1 0).beginPass 0 slot1 []).1 = true ∧
    (((sRow.accRead 0 slot1 0).beginPass 0 slot1 []).2.readSees 0 slot1.reads []).1 = true ∧ sRow.seedFrom 0 slot1 = .start := by decide +kernel

/-- 2 x 1.5 in BF16 gives 3 in FP32; the operation completes and leaves the Span. -/
theorem test_span_product :
    (match execSpanMm 0 0 { corrected := 0, bad := false, finds := [] } { sRow with ms := { sRow.ms with mem := [(spBase + 1, 0x40), (spBase + 16, 0xC0), (spBase + 17, 0x3F)] } } with
     | .next t => some (rdNat t.ms.mem (spBase + 32) 4, (t.engine 1 0).queue.length, (t.span 0).plans.length)
     | _ => none) = some (0x40400000, 0, 0) := by decide +kernel

/-- K = 128 in two passes of Deep, on a chain of two cores: core 8 takes the row of pass 1. -/
def mmK : Desc :=
  dsc 0x0101 [(16, 1, 0x11), (18, 1, 1), (20, 4, 1), (24, 4, 1), (28, 4, 128), (32, 8, spBase), (40, 8, spBase + 0x1000), (48, 8, spBase + 0x2000)]

/-- The beat of row 0 is on its way to core 8. -/
def sBeat : State :=
  { onEngine s0 1 0 [mmK] with spans := [{ Span.reset with plans := [planStart 0 1 2 64], flight := [(8, [{ serial := 0, item := 0, pass := 1, row := 0, recs := [] }])] }, Span.reset] }

theorem test_wit_TowlineBeat : (sBeat.rowSlot 0 8).map (fun x => (x.d.serial, x.pass, x.row)) = some (0, 1, 0) ∧
    sBeat.beatWanted 0 8 = some (0, 0, 1, 0) ∧ tget [] 8 (sBeat.span 0).flight = [{ serial := 0, item := 0, pass := 1, row := 0, recs := [] }] ∧
    sBeat.bridgeHop 0 8 = false := by decide +kernel

/-- The second element of a row of a Mid product stands in the second of two passes. -/
theorem test_wit_PassesFormTheChain : mmK.trans = false ∧ 0 < mmK.n ∧ mmK.passes 1 = 2 ∧ mmK.passes 3 = 8 := by decide +kernel

/-- One row of 32 FP32 elements in the scratchpad of core 0; OUT_ADDR apart from it. -/
def vec1 (op : Nat) : Desc :=
  dsc op [(20, 4, 1), (24, 4, 32), (32, 8, spBase), (40, 8, spBase + 0x1000), (48, 8, spBase + 0x2000)] [(8, 8, spBase + 0x3000)]

theorem test_wit_VectorAndKeelComplete :
    (∀ o ∈ vectorOps, (onEngine s0 2 0 [vec1 o.op]).runningOp 2 0 o.op = some (vec1 o.op) ∧
      (onEngine s0 2 0 [vec1 o.op]).writesHeld 0 (vec1 o.op).vecOuts = false ∧ (vec1 o.op).vRows = 1) ∧
    (∀ o ∈ keelOps, (onEngine s0 2 0 [vec1 o.op]).runningOp 2 0 o.op = some (vec1 o.op) ∧
      (onEngine s0 2 0 [vec1 o.op]).writesHeld 0 (vec1 o.op).keelOuts = false ∧ (vec1 o.op).keelBlocks = 1) ∧
    (let s := onEngine s0 2 0 [vec1 0x0201]
     (s.rows 0 0 0 (fun _ _ => []) (mapRow (vec1 0x0201)) (vec1 0x0201).part []).part.err = E.ok ∧
     (s.rows 0 0 1 (fun _ _ => []) (mapRow (vec1 0x0201)) (vec1 0x0201).part []).part.err = E.ok) := by decide +kernel

def kb (n : Nat) : KBlock := { exp := 112, mask := 0, lanes := List.replicate 32 n }

theorem test_wit_KeelSumOrderFree : KBlock.add 32 (kb 1) (kb 2) = .inr (kb 3) ∧ KBlock.add 32 (kb 2) (kb 4) = .inr (kb 6) ∧
    KBlock.add 32 (kb 3) (kb 4) = .inr (kb 7) ∧ KBlock.add 32 (kb 1) (kb 6) = .inr (kb 7) := by decide +kernel

/-- One row of 4 elements, in core 0's scratchpad. -/
def lay1 (op : Nat) : Desc := dsc op [(20, 4, 1), (24, 4, 4), (32, 8, spBase), (40, 8, spBase + 0x1000)]

/-- The run of a layout operation after `n` pieces, in a state whose page of the given address is resident or is not. -/
def layAfter (s : State) (d : Desc) (n : Nat) : LayRun :=
  (List.range n).foldl (fun (x : LayRun) _ => x.next d)
    ({ a := { s := s, part := d.part, finds := [] }, piece := d.progress, halt := false, bar := [] } : LayRun)

theorem test_wit_LayoutCompletes : ∀ op ∈ [0x0301, 0x0302], (let d := lay1 op
    let s := onEngine s0 3 0 [d]
    s.runningOp 3 0 op = some d ∧ d.layPieces = 1 ∧ (layAfter s d 1).a.part.err = E.ok ∧ (layAfter s d 1).piece = 1 ∧
    (layAfter s d 0).a.part.err = E.ok ∧ (layAfter s d 0).piece < d.layPieces ∧ s.statusWaits d = false ∧
    (((layAfter s d 1).a.s.flush 0 (layAfter s d 1).a.part.held).saveDesc 3 0 d.serial fun d => { d with progress := 1 }).statusWaits d = false) := by
  decide +kernel

/-! ### Lookups, random streams, firmware engines, Azlink operations -/

/-- A gather descriptor on one index, 0, with the table record at word 0x800 of core 0 and offsets [0, 1] at its data. -/
def gat (op : Nat) (fetch : Tbl Fetch) : Desc :=
  { dsc op [(20, 4, 1), (24, 8, spBase), (32, 8, spBase + 0x1000), (40, 8, spBase + 0x2000), (48, 8, spBase + 0x3000)] [(16, 8, spBase + 0x4000)] with
    fetch := fetch }

/-- Four rows of one FP32 element each, in one shard at job address 0x10000. -/
def sGat (d : Desc) : State :=
  let s := onEngine s0 4 0 [d]
  s.setMem (wrBytes (wrBytes [] (spBase + 0x1004) [1]) (spBase + 0x2000) (pack 64 [(0, 8, 0x10000), (8, 8, 4), (16, 4, 1), (22, 2, 1)]))

/-- What the lookup statement asks of an operation with that fetch, how far its positions are settled, and how the run ends. -/
def gatMeets (x : Nat × Instr × GOp) (fetch : Tbl Fetch) (settled : Nat) (c : Code) : Bool :=
  let d0 := gat x.1 fetch
  let s := sGat d0
  let t := s.gTab d0
  let y := (s.gLeft d0).foldl (Starts.next 0 d0.serial t (x.2.2.start 0 t)) { s := s, finds := [], waits := [], stop := false }
  s.runningOp 4 0 x.1 == some d0 && match y.s.runningOp 4 0 x.1 with
    | none => false
    | some d => d.gCount == 1 && y.s.gSettled d d.progress 1 == settled &&
      !y.s.writesHeld d.pos (((d.gExts t ++ d.statusExt).filter fun e => e.wr).map fun e => (e.addr, e.n)) &&
      (y.s.rows d.pos d.progress settled (x.2.2.reads d) (x.2.2.body d t) d.part y.finds).part.err == c

def run0 : EngRun := { num := 0, units := 1, finds := [], xing := .none }

theorem test_wit_LookupsComplete : (∀ x ∈ lookupOps run0, gatMeets x [] 1 E.ok = true) ∧
    (∀ x ∈ lookupOps run0, gatMeets x [(0, .flash [5])] 0 E.ok = true) ∧
    (let d := gat 0x0404 []
     (sGat d).runningOp 4 0 0x0404 = some d ∧ (sGat d).writesHeld 0 (combineDup.outs (sGat d) d) = false ∧ dupOp.rows d (sGat d) = 2) := by
  decide +kernel

def rnd1 (op : Nat) : Desc := dsc op [(20, 4, 40), (32, 8, spBase)]

theorem test_wit_RandomUnitCompletes : ∀ op ∈ [0x0501, 0x0502, 0x0503, 0x0504], (onEngine s0 5 0 [rnd1 op]).runningOp 5 0 op = some (rnd1 op) ∧
    (onEngine s0 5 0 [rnd1 op]).writesHeld (rnd1 op).pos (rnd1 op).rOuts = false ∧ 0 < (rnd1 op).rCount := by decide +kernel

/-- An instance stays in the list when its descriptor leaves. -/
theorem test_wit_CompletionReports : (((onEngine s0 5 0 [rnd1 0x0503]).freeEntry 5 0 0).engines.any fun q => q.cls == 5 && q.num == 0) = true := by
  decide +kernel

/-- A firmware-issued descriptor from DRAM 0x200000 to DRAM 0x400000: BYTES 64 KiB and DST_CAP 64 KiB, or COUNT pages of a mooring. -/
def fw1 (op : Nat) : List Byte :=
  pack 64 (if op < 0x0700 then [(0, 2, op), (6, 2, 0xFFFF), (16, 1, 0xFF), (20, 4, 0x10000), (24, 8, 0x200000), (32, 8, 0x400000), (40, 4, 0x10000)]
    else [(0, 2, op), (20, 4, 1), (24, 8, 0x200000), (32, 8, 0x400000), (40, 8, 0x500010)])

def region0 : Region :=
  { va := 0x10000, length := 0x10000, flash := false, large := false, writable := true, pin := false, stack := 0, load := false, flashBase := 0 }

/-- Page 1 of the main job is a versioned page of the mooring set with its live frame at 0x200000 and frame 0 at 0x400000. -/
def sVer : State :=
  let man : Manifest := { man0 with versioned := [(0x10000, 0x10000)], regions := [region0] }
  { s0 with jobs := [(0, { job0 with man := man, verBase := [0x400000, 0, 0, 0], pages := [(1, { pte0 with frame := 0x200000 })]
                                     tables := [{ stack := 0, level := 3, pre := 0, base := 0x500000 }] })] }

theorem test_wit_FirmwareEnginesComplete :
    (∀ x ∈ fwOps, let d := fwDesc (fw1 x.op) []
      let s := onEngine sVer x.cls 0 [d]
      s.live = true ∧ s.runningOp x.cls 0 x.op = some d ∧ s.xings = [] ∧ (x.run run0).units d = 1) ∧
    sVer.versionPage (fwDesc (fw1 0x0702) []) = some (0, 1, 0) ∧ (s0.ms.poisoned 0x200000 0x10000 = false ∧ implemented 0x200000 0x10000 = true) ∧
    (let s := onEngine s0 6 0 [fwDesc (fw1 0x0602) []]
     (s.engine 6 0).current = some (fwDesc (fw1 0x0602) []) ∧ (fwDesc (fw1 0x0602) []).opcode ≠ 0x0601 ∧ s.compBad 0x0601 (fwDesc (fw1 0x0601) []) = E.ok ∧
     s.compBad 0x0601 (fwDesc (fw1 0x0602) []) ≠ E.ok ∧ fld (fw1 0x0601) 16 1 = 0xFF ∧ (s.engine 6 0).queue.length < queueCap 6) := by decide +kernel

/-! ### The fabric -/

def peerM : Peer := { Peer.absent with st := .member, mac := 0x55, links := 1, allot := 64, tx := 64, vcs := [] }

/-- Module 1, coordinator of a fabric with member 2 on link 0. -/
def sAz : State :=
  { s0 with
    cfg := { s0.cfg with peerId := some 1 }
    az := { s0.az with started := true, coord := some 1, view := [1, 2], peers := [(2, peerM)]
                       links := [(0, { Link.down with up := true, partner := some 0x55 })] } }

def az1 (op : Nat) : Desc := dsc op [(18, 2, 2), (20, 2, 3), (40, 8, 0x10000), (48, 8, 0x1000)]

def ringCtx : RingCtx :=
  { rjob := 2, nGuard := 2, formEpoch := 1, aborts := 0, retries := 0, stray := 0, rgen := 1, job := 0, refuse := false, tol := false, mode := 0
    st := .ready, table := [1, 2], excluded := [], opened := true, openDesc := none, closing := none, held := [], accepts := [], asm := []
    outbox := [], buckets := [], ended := [], next := 0, mixed := [], serves := [], relayed := [] }

def sRing : State := { sAz with az := { sAz.az with rings := [(0, ringCtx)] } }

def winOpen : Win := { Win.closed with isOpen := true, base := 0x10000, length := 0x1000 }

theorem test_wit_AzlinkOperationsAct : sAz.ownId ≠ none ∧ (∀ op ∈ [0x0801, 0x0802, 0x0803, 0x0804], (onEngine sAz 8 0 [az1 op]).statusWaits (az1 op) = false ∧
      (onEngine sAz 8 0 [az1 op]).runningOp 8 0 op = some (az1 op)) ∧ (onEngine sAz 8 0 [az1 0x0801]).ownId = some 1 ∧
    (sAz.win 3).isOpen = false ∧ (sAz.win 3).adv + 1 ≤ 0x3FFFF ∧ sAz.heldByXing [.window 3] = false ∧ sAz.freeFwEntry = some 6 ∧ (az1 0x0801).azWin = 3 ∧
    ((onEngine (sAz.setWin 3 winOpen) 8 0 [az1 0x0802]).win 3).isOpen = true ∧ ((sAz.setWin 3 winOpen).win 3).job = (az1 0x0802).pos ∧
    (onEngine sAz 8 0 [az1 0x0803]).isMember (az1 0x0803).azPeer = true ∧
    (∀ op ∈ [0x0810, 0x0811, 0x0812], (onEngine sRing 8 0 [az1 op]).statusWaits (az1 op) = false ∧
      (onEngine sRing 8 0 [az1 op]).runningOp 8 0 op = some (az1 op) ∧ (onEngine sRing 8 0 [az1 op]).ringOf (az1 op).rgJob = some (0, ringCtx)) := by
  decide +kernel

/-! ### Berths, core power, flash -/

/-- `s0` with the core as given. -/
def onCore (k : Core) : State := { s0 with cores := [(0, k)] }

def queued : Core := { core0 with swapQueue := [(5, 0)] }

/-- Every berth but 0 holds BALLAST; every berth holds a context. -/
def fullCore (b : Berth) : Core := { queued with berths := (0, .resident ctx0) :: (List.range 767).map fun i => (i + 1, b) }

def ctxB : Ctx := { ctx0 with tid := 3, status := .blockedCounter, wait := { WaitRec.idle with blockedAt := 9 } }

/-- Thread 3's record stands in the swap area at job address 0x10000. -/
def sRec : State :=
  { onCore { core0 with berths := [(7, .swappingIn 3)] } with jobs := [(0, { job0 with swap := [(3, { valid := true, ctx := some ctxB })] })] }

theorem full_freeBerth (b : Berth) : (fullCore b).freeBerth = none := by
  simp only [Core.freeBerth, List.find?_eq_none, List.mem_range, Bool.not_eq_true, Bool.not_eq_false', List.any_eq_true, beq_iff_eq]
  intro x hx
  rcases x with _ | n
  · exact ⟨(0, .resident ctx0), by simp [fullCore], rfl⟩
  · exact ⟨(n + 1, b), by simp [fullCore]; omega, rfl⟩

theorem test_wit_ContextsSwap : swaps (onCore queued) 0 ∧ (queued.berths.all fun e => match e.2 with | .swappingIn _ => false | _ => true) = true ∧
    queued.swapQueue = [(5, 0)] ∧ queued.freeBerth = some 1 ∧
    (sRec.core 0).berth 7 = .swappingIn 3 ∧ (sRec.readRecord 3 .clean).1 = true ∧
    (sRec.readRecord 3 .clean).2.record 3 = some ctxB ∧ (sRec.readRecord 3 .double).1 = false := by
  unfold swaps; decide +kernel

/-- A swap-in that takes a BALLAST berth. -/
theorem test_wit_ContextsSwap_ballast : swaps (onCore (fullCore .ballast)) 0 ∧ (fullCore .ballast).freeBerth = none ∧ (fullCore .ballast).ballastBerth = some 1 ∧
    ((fullCore .ballast).berths.all fun e => match e.2 with | .swappingIn _ => false | _ => true) = true :=
  ⟨by unfold swaps; decide +kernel, full_freeBerth _, by decide +kernel, by decide +kernel⟩

theorem test_wit_ContextsSwap_eviction :
    (let k : Core := { core0 with berths := [(0, .resident ctx0), (7, .resident ctxB)], evictOwed := 1 }
     swaps (onCore k) 0 ∧ 0 < k.evictOwed ∧
     minBy (fun x : Nat × Ctx => x.2.wait.blockedAt) (k.residents fun c => c.status.blocked && c.movable) = some (7, ctxB)) ∧
    (let s := onCore { core0 with berths := [(7, .swappingOut ctxB)] }
     (s.core 0).berth 7 = .swappingOut ctxB ∧ ctxB.out = [] ∧ ctxB.status ≠ .runnable) := by
  unfold swaps; decide +kernel

def sFull : State := { onCore (fullCore (.resident ctxB)) with aoc := 20000 }

theorem test_wit_ContextsSwap_rotation : swaps sFull 0 ∧ (sFull.core 0).swapQueue = [(5, 0)] ∧
    (sFull.core 0).rotating.length < sFull.overdue 0 ∧ (sFull.core 0).freeBerth = none ∧ (sFull.core 0).ballastBerth = none ∧
    minBy (fun x : Nat × Ctx => x.2.since) ((sFull.core 0).residents fun c => sFull.ctxReady 0 c && c.movable) = some (0, ctx0) :=
  ⟨by unfold swaps; decide +kernel, by decide +kernel, by decide +kernel, full_freeBerth _, by decide +kernel, by decide +kernel⟩

/-- A core without contexts. -/
def quiet (p : CorePower) (idle : Nat) : Core := { core0 with power := p, berths := [], idle := idle }

theorem test_wit_CorePowerStates : s0.live = true ∧ (onCore (quiet .run 64)).jobRuns 0 = true ∧ (onCore (quiet .run 64)).maySleep 0 = true ∧
    (onCore (quiet .sleep 131072)).jobRuns 0 = true ∧ (onCore (quiet .sleep 131072)).wakeDue 0 = false ∧ (s0.job (s0.posOf 0)).man.deepLog2 ≠ 0xFF ∧
    2 ^ (s0.job (s0.posOf 0)).man.deepLog2 ≤ (quiet .sleep 131072).idle ∧ (s0.engine 1 (s0.posOf 0)).queue = [] ∧
    (onCore { quiet .sleep 0 with wakeHeld := true }).wakeDue 0 = true ∧ (onCore { quiet .deep 0 with wakeHeld := true }).wakeDue 0 = true := by
  decide +kernel

/-- Page 1 is a flash page of the tier's page 9. -/
def fpte (res : Bool) (dirty : BitVec 16) : Pte := { pte0 with flash := true, resident := res, dirty := dirty, flashPage := 9, frame := if res then 0x100000 else 0 }

def onPage (e : Pte) (m : MemSys → MemSys) : State :=
  { s0 with jobs := [(0, { job0 with pages := [(1, e)] })], ms := m { s0.ms with frames := [{ base := 0x100000, size := 0x20000, use := .pool 0 }] } }

def fi0 : FaultIn := { pos := 0, page := 1, stack := 0, acct := 0, serial := 0 }

/-- A NAND block that holds unit 36, in a tier with free space. -/
def spare (m : MemSys) : MemSys := { m with flash := { m.flash with map := [(36, 1)], blocks := [(0, { Blk.fresh with st := .valid })] } }

def wb0 : WriteBack := { pos := 0, page := 1, unit := 0, flashPage := 9, bytes := [7], serial := 0 }

theorem test_wit_PagesMove :
    (let s := onPage (fpte false 0) fun m => { m with faultIns := [fi0] }
     (s.job 0).pages.find? (fun x => x.1 == 1) = some (1, fpte false 0) ∧ s.ms.faultIns.find? (fun f => f.pos == 0 && f.page == 1) = some fi0 ∧
     (fpte false 0).resident = false ∧ s.frameFor 0 fi0.stack = some 0x100000 ∧ crosses s [.pte 0 1] [.pte 0 1, .tlb 0 1, .unitMap 9] ∧
     (s.readPage 9 { reads := [] }).1 = true ∧ crosses (s.readPage 9 { reads := [] }).2 [.pte 0 1] [.pte 0 1, .tlb 0 1, .unitMap 9] ∧
     ((onPage (fpte false 0) spare).readPage 9 { reads := [{ retries := 7, ok := false }] }).1 = false) ∧
    (let s := onPage (fpte true 0x00F0) spare
     s.live = true ∧ (s.job 0).pages.find? (fun x => x.1 == 1) = some (1, fpte true 0x00F0) ∧ (fpte true 0x00F0).flash = true ∧
     (fpte true 0x00F0).resident = true ∧ (fpte true 0x00F0).unitDirty 1 = true ∧ s.ms.flash.below 2 = false ∧ s.ms.writeBacks = [] ∧
     crosses s [.pte 0 1] [.pte 0 1, .tlb 0 1]) ∧
    (let s := onPage (fpte true 0) fun m => { spare m with writeBacks := [wb0] }
     s.ms.writeBacks.find? (fun w => w.pos == 0 && w.page == 1 && w.unit == 0) = some wb0 ∧ s.ms.flash.packed 9 = false ∧ s.ms.flash.room 1 = true) ∧
    (let s := onPage (fpte true 0) id
     s.live = true ∧ (s.job 0).st = .running ∧ s.poolFrames 0 0 = [0x100000, 0x110000] ∧ (s.freePool 0 0).length = 1 ∧
     s.freeFwEntry = some 6 ∧ (s.sweep 0 0 (s.poolFrames 0 0) (2 * (s.poolFrames 0 0).length)).1 = some 1) ∧
    (let d := gat 0x0402 [(0, .flash [36])]
     let s := sGat d
     (s.engine 4 0).current = some d ∧ d.fetch.filter (fun f => match f.2 with | .flash us => us.contains 36 | _ => false) = [(0, .flash [36])] ∧
     (s.readUnit 36 { retries := 0, ok := true }).1 = true ∧ (s.readUnit 36 { retries := 0, ok := true }).2.rowAt d (s.gTab d) 0 = .here 0x10000) := by
  unfold crosses; decide +kernel

/-- Page 9 is whole, mapped and cold. -/
def cold (m : MemSys) : MemSys :=
  { m with flash := { m.flash with fallback := true, ageTicks := 20, map := (List.range 4).map fun u => (36 + u, u + 1)
                                   blocks := [(0, { Blk.fresh with st := .valid, reads := 100000 }), (3, { Blk.fresh with st := .valid, erases := 201 }),
                                              (5, { Blk.fresh with st := .invalid })] } }

def sCold : State := { s0 with ms := cold s0.ms }

theorem test_wit_FlashBackground : sCold.live = true ∧ sCold.ms.flash.fallback = true ∧ sCold.packable 9 = true ∧
    (∀ e ∈ sCold.ms.flash.map, sCold.packable (e.1 / 4) = true → sCold.ms.flash.age (e.1 / 4) ≤ sCold.ms.flash.age 9) ∧
    (sCold.ms.flash.failing 3 1).room 3 = true ∧ (sCold.ms.flash.blk 6).erases ≤ sCold.ms.flash.leastFree ∧ 6 < 524288 ∧
    (sCold.ms.flash.blk 0).st = .valid ∧ 100000 ≤ (sCold.ms.flash.blk 0).reads ∧ (sCold.ms.flash.blk 6).st = .free ∧
    (3, { Blk.fresh with st := .valid, erases := 201 }) ∈ sCold.ms.flash.blocks ∧ (sCold.ms.flash.blk 0).erases + 200 < 201 ∧
    (sCold.ms.flash.blk 0).erases ≤ lowest ((sCold.ms.flash.blocks.filter fun e => e.2.st == .valid).map fun e => e.2.erases) ∧
    (sCold.ms.flash.blk 5).st = .invalid := by decide +kernel

def sMark : State := { s0 with jobs := [(0, { job0 with st := .loaded })], ms := { s0.ms with marked := [3], bridgeRetries := [15, 14] } }

theorem fusedSpares_le (c b : Nat) : fusedSpares c b ≤ 4 := by
  suffices h : ∀ l m : List Nat, m.length ≤ 4 → (l.foldl (fun l r => if l.contains r || 4 ≤ l.length then l else l ++ [r]) m).length ≤ 4 from h _ [] (by simp)
  intro l
  induction l with
  | nil => exact fun _ h => h
  | cons r l ih => exact fun m h => ih _ (by dsimp only; split <;> simp_all <;> omega)

/-- Spare 7 of a bank is never fused. -/
theorem spare_left : sMark.spareOf 3 [] ≠ [] :=
  List.ne_nil_of_mem (a := 7) (List.mem_filter.2 ⟨by decide, by
    have := fusedSpares_le (3 / bankRows / 64) (3 / bankRows % 64)
    simp [sMark, s0, State.reset, MemSys.reset, tget, bits]; omega⟩)

/-- A marked row whose first spare passes its test, and one all of whose spares fail. -/
theorem test_wit_ScrubbersAndMapOut : (sMark.live = true ∧ sMark.ms.remaps = [] ∧ sMark.pw.standby = false ∧ 64 * 5 + 64 ≤ dramEnd ∧ inTranslationMap 5 = false ∧
    (sMark.checkRead (64 * 5) 64 .clean).2.inSwapRecord 5 = none ∧ sMark.ms.bridgeRetries.getD 0 0 + 1 = 16 ∧ sMark.ms.bridgeRetries.getD 1 0 + 1 < 16 ∧
    (sMark.job 0).st = .loaded ∧ sMark.starting 0 = false ∧
    (sMark.ms.marked.filter fun r => sMark.posOf (r / 520 / 64) == 0) = [3] ∧ sMark.logBusy Rec.repairMap = false ∧ sMark.mapOutOpen 0 = false ∧
    sMark.freeFwEntry = some 6) ∧ (∃ spare, ((sMark.spareOf 3 []).find? fun i => !([] : List Nat).contains (3 / 520 * 8 + i)) = some spare) ∧
    (∀ i ∈ sMark.spareOf 3 [], (List.range 8).contains (3 / 520 * 8 + i) = true) := by
  refine ⟨?_, ?_, ?_⟩
  · decide +kernel
  · obtain ⟨a, l, h⟩ := List.exists_cons_of_ne_nil spare_left
    exact ⟨a, by simp [h]⟩
  · intro i h
    have := List.mem_range.1 (List.mem_filter.1 h).1
    simpa using this

/-! ### Crossings, epochs, moorings, jobs -/

def evict0 : XEntry := { xing0 (.evict 0 1) with writes := [] }

def sEvict (dirty : BitVec 16) : State := { onPage (fpte true dirty) id with xings := [(6, evict0)] }

def epochs0 : EpochDecl :=
  { viewVa := 0, slotCtr := [], stepCtr := 20, commitCtr := 21, replica := 0, stepReq := 0x10000, stepStatus := 0x10040, stepWord := 0x10080 }

/-- The main job declares epochs and has asked for one step; epoch 4 is current. -/
def sEp (xs : Tbl XEntry) (cursor : Byte) : State :=
  { s0 with
    jobs := [(0, { job0 with man := { man0 with epochs := some epochs0 }, counters := [(20, 1)], epochs := [{ EpEnt.free with epoch := 4, st := .current }] })]
    xings := xs, aoc := 1000, ms := { s0.ms with mem := wrBytes [] 0x100000 [cursor] } }

/-- A row that a map-out replaces by spare 7. -/
def sMapOut (st : XState) : State := { s0 with xings := [(6, { xing0 (.rowMapOut [31] [] []) with st := st })] }

theorem test_wit_CrossingsLand : s0.fwUp = true ∧ (sEvict 0).timedOut evict0 = false ∧ (sEvict 0).xingCode evict0 = E.ok ∧
    (sEvict 0).evictsClean 0 1 = true ∧ (sEvict 1).evictsClean 0 1 = false ∧
    (∀ st ∈ [XState.opened, .committing], let x := { xing0 (.rowMapOut [31] [] []) with st := st }
      (sMapOut st).xing 6 = some x ∧ (sMapOut st).fwUp = true ∧ x.st = st ∧ (sMapOut st).timedOut x = false ∧ (sMapOut st).xingCode x = E.ok ∧
      ((s0.logRec Rec.repairMap).store s0.aoc (repairBytes ([].map s0.remapOf))).1 = E.ok) ∧
    (∀ n ∈ [0, 1], let dirty := BitVec.ofNat 16 n; (sEvict dirty).xing 6 = some evict0 ∧ evict0.opener = .evict 0 1 ∧
      ((sEvict dirty).job 0).pages.find? (fun e => e.1 == 1) = some (1, fpte true dirty) ∧ (fpte true dirty).resident = true ∧
      (fpte true dirty).pin = false ∧ (fpte true dirty).dirty = dirty) ∧
    (∀ op ∈ ([.thread 0 0, .group 0 5, .stepCommit 0] : List XOpener), (sEp [(6, xing0 op)] 0).live = true ∧
      (sEp [(6, xing0 op)] 0).xing 6 = some (xing0 op) ∧ (xing0 op).st ≠ .committing ∧ (xing0 op).openedAt + (xing0 op).timeout ≤ (sEp [] 0).aoc ∧
      (sEp [(6, xing0 op)] 0).epochDecl = some epochs0) := by decide +kernel

theorem test_wit_StepCommit : ((∀ n ∈ [0, 1], let c := BitVec.ofNat 8 n; (sEp [] c).epochDecl = some epochs0 ∧ (sEp [] c).stepXing = none ∧
      ((sEp [] c).job 0).reqServed < ((sEp [] c).ctr 0 epochs0.stepCtr).toNat ∧ (sEp [] c).freeFwEntry = some 6 ∧
      (sEp [] c).badRange 0 epochs0.stepReq 64 = false ∧
      ((sEp [] c).job 0).refusesCursors (requestCursors ((sEp [] c).readJob 0 epochs0.stepReq 64)) = (c != 0)) ∧ (sEp [] 0).moor.st ≠ .due ∧
    (sEp [(6, xing0 (.stepCommit 0))] 0).epochDecl = some epochs0 ∧
    (sEp [(6, xing0 (.stepCommit 0))] 0).stepXing = some (6, xing0 (.stepCommit 0)) ∧ ((sEp [] 0).job 0).pinned = false ∧
    (sEp [(6, xing0 (.stepCommit 0))] 0).stepHeld epochs0 = false ∧
    (let s : State := { sEp [] 0 with moor := { Moor.closed with st := .due } }
     s.epochDecl = some epochs0 ∧ s.stepXing = none ∧ s.moor.st = .due)) ∧
    (∀ c : Nat, c = 0 ∨ c = 1 → let x := { xing0 (.stepCommit 0) with writes := [(0, List.replicate 64 (BitVec.ofNat 8 c))] }
      let s := { sEp [(6, x)] 0 with aoc := 10 }
      s.stepXing = some (6, x) ∧ x.st ≠ .committing ∧ s.timedOut x = false ∧ (x.reads ++ x.wset).any s.entBad = false ∧
      (s.job 0).refusesCursors (requestCursors x.record) = (c != 0)) ∧
    (let x := { xing0 (.stepCommit 0) with st := .committing }
     (sEp [(6, x)] 0).stepXing = some (6, x)) := by
  refine ⟨by decide +kernel, ?_, by decide +kernel⟩
  rintro c (rfl | rfl) <;> decide +kernel

def mpage (staged : Bool) : MoorPage :=
  { ordinal := 0, page := 1, large := false, versioned := false, stack := 0, frame := 0x100000, slot := 0x300000, staged := staged }

def sMoor (st : MoorState) (bad : List Nat) (ds : Option (List W64)) : State :=
  { s0 with moor := { Moor.closed with st := st, epoch := 4, gen := 1, pages := [mpage (st != .staging)], digests := ds }
            ms := { s0.ms with dramBad := bad, flash := { s0.ms.flash with powered := true } } }

theorem test_wit_TideAndMoorings : (sMoor .staging [] none).live = true ∧ (sMoor .staging [] none).drainEngine = true ∧ (∀ bad ∈ [[], [0x4000]], (sMoor .staging bad none).moor.st = .staging ∧
      (sMoor .staging bad none).moor.nextPage = some (mpage false) ∧
      ((sMoor .staging bad none).checkRead ((sMoor .staging bad none).moorSrc (mpage false)) (pageSize (mpage false).large) .clean).1 = (bad == [])) ∧
    (sMoor .writing [] none).moor.st = .writing ∧ (∀ p ∈ (sMoor .writing [] none).moor.pages, (sMoor .writing [] none).ms.poisoned p.slot (pageSize p.large) = false) ∧
    (sMoor .writing [] none).ms.flash.below 2 = false ∧ (sMoor .writing [] (some [7])).moor.digests = some [7] ∧
    (let u := ((sMoor .writing [] none).updFlash fun f => f.failing 1 1).spareCheck
     u.moor.units ≤ u.ms.flash.freePages) ∧
    (let u := sMoor .moored [] (some [7])
     u.logBusy Rec.moorCatalogue = false ∧ (u.logStore Rec.moorCatalogue (catalogueBytes u.moor.half u.moor.epoch)).1 = E.ok) ∧
    (let u := ((sMoor .moored [] (some [7])).logStore Rec.moorCatalogue (catalogueBytes 0 3)).2
     u.logBusy Rec.moorCatalogue = true) := by decide +kernel

def sRest (ph : RestPhase) : State := { s0 with jobs := [(0, { job0 with st := .loaded })], restore := { Restore.closed with phase := ph } }

theorem test_wit_RestoresAndJobEnds : (sRest .loading).live = true ∧ (sRest .loading).restore.half = 0 ∧
    ((sRest .loading).readPages ((((sRest .loading).stored 0).flashPages).map fun p => (p, p)) []).1 = true ∧
    ([] : List Byte) ≠ manifestDigest ((sRest .comparing).stored 0).record ∧
    (∀ p ∈ ((sRest .comparing).stored 0).pages, (sRest .comparing).ms.poisoned p.1.slot (pageSize p.1.large) = false) ∧
    (let s : State := { onCore { core0 with berths := [(0, .resident ctxB)] } with jobs := [(0, { job0 with man := { man0 with cores := [] }, stall := 2 ^ 24 })] }
     s.live = true ∧ s.stalled 0 = true ∧ 2 ^ (s.job 0).man.stallLog2 ≤ (s.job 0).stall) ∧
    (let s : State := { s0 with jobs := [(0, { job0 with st := .ending })] }
     s.live = true ∧ (s.job 0).st = .ending ∧ (s.job 0).cleared = false ∧ s.spanBusy 0 = false ∧ s.stepXing = none ∧ s.jobWindows 0 = [] ∧
     s.freeFwEntry = some 6) ∧
    (let s : State := { s0 with jobs := [(0, { job0 with st := .ending, cleared := true })] }
     (s.job 0).cleared = true ∧ s.ms.stores = [] ∧ s.ms.faultIns = [] ∧ s.ms.writeBacks = [] ∧ (s.job 0).pubs = [] ∧ (s.job 0).dirtyUnits = 0) := by
  decide +kernel

/-! ### Host ports and capsules -/

/-- Both ports are released, and port 0 is as given. -/
def onPort (s : State) (q : Port) : State := { s with ports := [(0, q)], pw := { s.pw with perst := [true, true] }, boot := { s.boot with done := true } }

def landed64 : List Byte := List.replicate 64 0

def event0 : Event := { event := 4, kind := 0, tag := 0, code := 0, time := 0, body := [] }

def evRing0 : EvRing := { addr := 0x1000, entries := 256, credits := 2, written := 1, vecResp := 1, vecAsync := 2, moderation := 0 }

def sEvent : State := onPort s0 { Port.reset with ring := some evRing0, queue := [event0], toAnnounce := [1], lastMsix := none }

theorem test_wit_LandingAndEvents : (onPort s0 Port.reset).portUp 0 = true ∧ landed64.length = 64 ∧ sEvent.portUp 0 = true ∧ sEvent.toBlock 0 = false ∧
    (sEvent.port 0).ring = some evRing0 ∧ (sEvent.port 0).queue = [event0] ∧ evRing0.credits ≠ 0 ∧ evRing0.credits ≠ 1 ∧
    (sEvent.port 0).toAnnounce ≠ [] ∧ (sEvent.port 0).lastMsix = none ∧
    (let s : State := { onPort s0 { Port.reset with lcredits := 1, takenAt := 0 } with aoc := 50 }
     s.portUp 0 = true ∧ (s.port 0).lcredits ≠ 0 ∧ (s.port 0).queue = [] ∧ (s.port 0).takenAt + 50 ≤ s.aoc) ∧
    (let s := onPort s0 { Port.reset with queue := [event0] }
     s.portUp 0 = true ∧ (s.port 0).queue = [event0] ∧ s.toBlock 0 = true ∧ (s.port 0).blockValid = false) := by decide +kernel

/-- A taken capsule. -/
def cap (op : Nat) (fs : List (Nat × Nat × Nat)) : Running := { bytes := pack 60 ((0, 2, op) :: fs), since := 0, data := [] }

/-- The capsule is its port's next. -/
def withCap (s : State) (r : Running) (f : Port → Port := id) : State := onPort s (f { Port.reset with taken := [r], reserved := 1 })

/-- The state in which an ordered capsule of port 0 runs. -/
def turned (s : State) (r : Running) : State := s.updPort 0 fun q => { (q.dropTaken r) with running := some { r with since := s.aoc } }

def isTurn (s : State) (op : Nat) (r : Running) : Bool :=
  s.fwUp && !s.iu.asleep && (s.port 0).nextOrdered == some r && r.opcode == op && (turned s r).commonCode r == E.ok

theorem turn_of {s : State} {op : Nat} {r : Running} (h : isTurn s op r = true) : turnOf s 0 op r (turned s r) := by
  simp only [isTurn, Bool.and_eq_true, Bool.not_eq_true', beq_iff_eq] at h
  exact ⟨⟨h.1.1.1.1, h.1.1.1.2, by decide⟩, h.1.1.2, h.1.2, rfl, h.2⟩

/-- The main job with a feed 2 of two-record blocks, a READY result 5 of 4 bytes, no owner. -/
def feedDecl0 : FeedDecl := { buf := 0x10000, recBytes := 8, blockRecs := 2, bufBlocks := 4, fillCtr := 30, freeCtr := 31, feed := 2 }

def feedOn : Feed := { Feed.closed with isOpen := true, opened := true, cursor := 4, prod := 6, records := 8 }

def jobF (f : Feed) : Job := { job0 with owner := none, man := { man0 with feeds := [feedDecl0] }, feeds := lset (List.replicate 8 Feed.closed) 2 f }

def sFeed (f : Feed) : State :=
  { s0 with jobs := [(0, jobF f)], results := [(5, { Result.empty with st := .ready, length := 4, data := [1, 2, 3, 4] })] }

def capOpen : Running := cap Cap.feedOpen [(12, 1, 0), (13, 1, 2), (16, 8, 0x40), (24, 4, 8), (28, 4, 8), (32, 8, 8), (40, 8, 16)]
def capClose : Running := cap Cap.feedClose [(13, 1, 2)]
def capRelease : Running := cap Cap.resultRelease [(12, 2, 5)]
def capRead : Running := cap Cap.resultRead [(12, 2, 5), (24, 8, 4), (32, 8, 0x80)]
def capSet : Running := cap Cap.settingsSet [(12, 2, 0x1201), (14, 1, 2), (16, 2, 60)]
def capStore : Running := cap Cap.settingsStore [(12, 2, 0x12)]
def capMoor : Running := cap Cap.moorNow []

/-- A setting of record 0x12 is staged. -/
def staged (q : Port) : Port := { q with staged := [(0x1201, [60, 0])] }

theorem test_wit_CapsulesAct_immediate :
    (let r := cap Cap.query [(12, 2, 5)]
     let s := withCap s0 r
     let u := s.updPort 0 fun q => q.dropTaken r
     s.fwUp = true ∧ s.iu.asleep = false ∧ (s.port 0).taken.find? (fun r => r.opcode == Cap.query) = some r ∧ u.commonCode r = E.ok ∧
     (match u.queryRecord 0 (r.arg 12 2) (r.arg 16 4) with | some b => decide (28 * r.arg 14 2 < b.length) | none => false) = true) ∧
    (let r := cap Cap.credit [(12, 4, 1)]
     let s := withCap s0 r fun q => { q with ring := some evRing0 }
     let u := s.updPort 0 fun q => q.dropTaken r
     s.fwUp = true ∧ (s.port 0).taken.find? (fun r => r.opcode == Cap.credit) = some r ∧ u.commonCode r = E.ok ∧ (u.port 0).ring = some evRing0 ∧
     r.arg 12 4 ≤ evRing0.written) := by decide +kernel

def capRing : Running := cap Cap.evqSetup [(12, 8, 0x1000), (20, 4, 256)]

/-- EVQ_SETUP; and each groupable capsule failing a check of its own. -/
theorem test_wit_CapsulesAct_refused : isTurn (withCap s0 capRing) Cap.evqSetup capRing = true ∧ capRing.ring.code = E.ok ∧
    (∀ o ∈ [Cap.feedOpen, Cap.feedClose, Cap.resultRelease, Cap.settingsSet, Cap.settingsStore], isTurn (withCap s0 (cap o [])) o (cap o []) = true ∧
      ((turned (withCap s0 (cap o [])) (cap o [])).port 0).group = none ∧
      ((turned (withCap s0 (cap o [])) (cap o [])).applyCap 0 (cap o [])).code ≠ E.ok) ∧
    (let s := withCap State.reset capMoor
     isTurn { s with dev := .idle } Cap.moorNow capMoor = true ∧ ((turned { s with dev := .idle } capMoor).applyCap 0 capMoor).code ≠ E.ok) := by
  decide +kernel

theorem test_wit_CapsulesAct_feeds :
    (let s := withCap (sFeed Feed.closed) capOpen
     let u := turned s capOpen
     isTurn s Cap.feedOpen capOpen = true ∧ (u.port 0).group = none ∧ capOpen.cargo = false ∧ capOpen.arg 12 1 = 0 ∧ capOpen.arg 13 1 = 2 ∧
     (u.job 0).present = true ∧ u.mayAct 0 0 = true ∧ ((u.job 0).feed 2).isOpen = false ∧
     (u.job 0).man.feeds.find? (fun d => d.feed == 2) = some feedDecl0 ∧ ringRecordsOk (capOpen.arg 24 4) = true ∧
     feedDecl0.blockRecs ≤ capOpen.arg 24 4 ∧ ((u.job 0).feed 2).opened = false ∧ capOpen.arg 28 4 = feedDecl0.recBytes ∧
     capOpen.feedAligned = true) ∧
    (let s := withCap (sFeed feedOn) capClose
     let u := turned s capClose
     isTurn s Cap.feedClose capClose = true ∧ (u.port 0).group = none ∧ capClose.cargo = false ∧ capClose.arg 12 1 = 0 ∧ capClose.arg 13 1 = 2 ∧
     (u.job 0).present = true ∧ u.mayAct 0 0 = true ∧ ((u.job 0).feed 2).isOpen = true ∧ ((u.job 0).feed 2).pulling = false ∧
     (u.job 0).feeds.length = 8) := by decide +kernel

theorem test_wit_CapsulesAct_results : ∀ r ∈ [capRelease, capRead],
    (let s := withCap (sFeed feedOn) r
     let u := turned s r
     isTurn s r.opcode r = true ∧ (u.port 0).group = none ∧ r.arg 12 2 = 5 ∧ u.mayAct (posOfHandle 5) 0 = true ∧ (u.result 5).st = .ready ∧
     capRead.arg 32 8 % 64 = 0 ∧ capRead.arg 24 8 ≠ 0 ∧ capRead.arg 16 8 + capRead.arg 24 8 ≤ (u.result 5).length) := by decide +kernel

theorem test_wit_CapsulesAct_settings :
    (let s := withCap s0 capSet
     isTurn s Cap.settingsSet capSet = true ∧ ((turned s capSet).port 0).group = none ∧
     settingDef (capSet.arg 12 2) = some { id := 0x1201, off := 0, len := 2, lo := 10, hi := 1000, dflt := 50 } ∧ capSet.arg 14 1 = 2 ∧
     (∀ i < 32, 2 ≤ i → capSet.arg (16 + i) 1 = 0) ∧ 10 ≤ capSet.arg 16 2 ∧ capSet.arg 16 2 ≤ 1000) ∧
    (let s := withCap s0 capStore staged
     let u := turned s capStore
     isTurn s Cap.settingsStore capStore = true ∧ (u.port 0).group = none ∧ capStore.arg 12 2 ∈ settingsRecords ∧
     u.hasStaged 0 (capStore.arg 12 2) = true ∧ u.logBusy (capStore.arg 12 2) = false ∧
     ((u.logRec (capStore.arg 12 2)).store u.aoc (u.settingsBytes 0 (capStore.arg 12 2))).1 = E.ok) ∧
    (let s := withCap (sFeed feedOn) capMoor
     let u := turned s capMoor
     isTurn s Cap.moorNow capMoor = true ∧ (u.port 0).group = none ∧ (u.job 0).st = .running ∧ u.mayAct 0 0 = true ∧ u.moor.st = .idle) := by
  decide +kernel

/-- A group of handle 7 that has recorded these capsules. -/
def sGroup (r : Running) (l : List (Nat × List Byte)) : State :=
  { withCap (sFeed feedOn) r (fun q => staged { q with group := some (7, l) }) with xings := [(14, xing0 (.group 0 7))] }

def capCommit : Running := cap Cap.xingCommit [(12, 4, 7)]
def capAbort : Running := cap Cap.xingAbort [(12, 4, 7)]

/-- Each groupable capsule, passing its checks; FEED_OPEN acts on a closed feed. -/
def goodCaps : List (Nat × Running × Feed) :=
  [(Cap.feedOpen, capOpen, Feed.closed), (Cap.feedClose, capClose, feedOn), (Cap.resultRelease, capRelease, feedOn), (Cap.settingsSet, capSet, feedOn),
   (Cap.settingsStore, capStore, feedOn), (Cap.moorNow, capMoor, feedOn)]

/-- A commit or abort of the group of handle 7, whose capsules all pass or do not. -/
def endMeets (r : Running) (l : List (Nat × List Byte)) (ok : Bool) : Bool :=
  let s := sGroup r l
  let u := turned s r
  isTurn s r.opcode r && u.openGroup 0 == some ((7, l), 14, xing0 (.group 0 7)) && !u.timedOut (xing0 (.group 0 7)) &&
    r.arg 12 4 == 7 && ((u.applyAll 0 l).code == E.ok) == ok

/-- A capsule that joins the group. -/
def joinMeets (x : Nat × Running × Feed) : Bool :=
  let s : State := { sGroup x.2.1 [] with jobs := [(0, jobF x.2.2)] }
  let u := turned s x.2.1
  isTurn s x.1 x.2.1 && u.openGroup 0 == some ((7, []), 14, xing0 (.group 0 7)) && !u.timedOut (xing0 (.group 0 7)) &&
    !s.heldByXing (s.capEntries 0 x.2.1) && (u.applyAll 0 []).code == E.ok &&
    (u.applyCap 0 x.2.1).code == E.ok

/-- Outside a group each acts in a crossing of its own. -/
theorem test_wit_CapsulesAct_alone : ∀ x ∈ goodCaps, (let s := withCap { sFeed x.2.2 with jobs := [(0, jobF x.2.2)] } x.2.1 staged
    isTurn s x.1 x.2.1 = true ∧ ((turned s x.2.1).port 0).group = none ∧ s.heldByXing (s.capEntries 0 x.2.1) = false ∧
    (turned s x.2.1).freeGroupEntry 0 = some 14 ∧ ((turned s x.2.1).applyCap 0 x.2.1).code = E.ok) := by decide +kernel

theorem test_wit_CapsuleGroups : goodCaps.map Prod.fst = (groupableCaps 0).map Prod.fst ∧
    (let r := cap Cap.xingBegin []
     let s := withCap s0 r
     isTurn s Cap.xingBegin r = true ∧ ((turned s r).port 0).group = none ∧ (turned s r).freeGroupEntry 0 = some 14) ∧
    endMeets capCommit [] true = true ∧ endMeets capCommit [(Cap.settingsSet, (cap Cap.settingsSet []).bytes)] false = true ∧
    endMeets capAbort [] true = true ∧ (∀ x ∈ goodCaps, joinMeets x = true) := by
  refine ⟨rfl, ?_⟩
  decide +kernel

def cargoOn : Cargo := { Cargo.reset with isOpen := true, records := 2, ring := 0x40, prod := 8, cons := 16 }

/-- LENGTH 8192, in two records, for position 0 or bank 1. -/
def capLoad : Running := cap Cap.jobLoad [(16, 8, 8192)]
def capImage : Running := cap Cap.imageStage [(12, 1, 1), (16, 8, 8192)]
def capStart : Running := cap Cap.jobStart []
def capStop : Running := cap Cap.jobStop []
def capRestore : Running := cap Cap.restore [(12, 2, 3)]

def sSt (st : JobState) (pages : Tbl Pte) : State := { s0 with jobs := [(0, { job0 with st := st, owner := none, pages := pages })] }

theorem test_wit_JobAndImageCapsules_cargo :
    (let s := withCap (sSt .none []) capLoad fun q => { q with cargo := cargoOn }
     isTurn s Cap.jobLoad capLoad = true ∧ (turned s capLoad).loadCode 0 capLoad = E.ok) ∧
    (let s := withCap s0 capImage fun q => { q with cargo := cargoOn }
     isTurn s Cap.imageStage capImage = true ∧ (turned s capImage).stageCode 0 capImage = E.ok) ∧
    (let s := onPort s0 { Port.reset with running := some { capImage with data := [1] } }
     s.fwUp = true ∧ (s.port 0).running = some { capImage with data := [1] } ∧ ({ capImage with data := [1] } : Running).opcode = Cap.imageStage ∧
     s.pw.bootWpN = true ∧ s.boot.holding = false) := by decide +kernel

theorem test_wit_JobAndImageCapsules_jobs :
    (∀ ps ∈ [[], [(1, { pte0 with pin := true })]], let s := withCap (sSt .loaded ps) capStart
     isTurn s Cap.jobStart capStart = true ∧ s.mapOutOpen (capStart.arg 12 1) = false ∧ (turned s capStart).startCode 0 (capStart.arg 12 1) = E.ok ∧
     (((turned s capStart).job (capStart.arg 12 1)).pinPages == []) = (ps == [])) ∧
    (let s := onPort (sSt .loaded []) { Port.reset with running := some capStart }
     s.live = true ∧ (s.job 0).st = .loaded ∧ s.starting 0 = true ∧ s.mapOutOpen 0 = false ∧ s.freeFwEntry = some 6 ∧ s.xings = [] ∧
     (s.readPins 0 []).1 = true ∧ (s.job 0).pages = []) ∧
    (let s := onPort (sSt .loaded [(1, { fpte false 0 with pin := true })]) { Port.reset with running := some capStart }
     let s := { s with ms := spare s.ms }
     s.starting 0 = true ∧ (s.readPins 0 [(1, { reads := [{ retries := 7, ok := false }] })]).1 = false) ∧
    (∀ st ∈ [JobState.loaded, JobState.running], let s := withCap (sSt st []) capStop
     isTurn s Cap.jobStop capStop = true ∧ (turned s capStop).stopCode 0 (capStop.arg 12 1) = E.ok ∧
     ((turned s capStop).job (capStop.arg 12 1)).st = st) ∧
    (let s := withCap { sSt .loaded [] with boot := { s0.boot with log := [(Rec.moorCatalogue, LogRec.holding (catalogueBytes 0 3))] } } capRestore
     let u := turned s capRestore
     isTurn s Cap.restore capRestore = true ∧ (u.job 0).st = .loaded ∧ u.mayAct 0 0 = true ∧ u.starting 0 = false ∧ u.restore.phase = .none ∧
     u.moor.st = .idle ∧ u.mooringFor = some 0 ∧ capRestore.arg 12 2 ≤ 32767) := by decide +kernel

/-- CAPACITY 0x1000 and CAPACITY 16. -/
def capAttest (n : Nat) : Running := cap Cap.attest [(52, 4, n)]

theorem test_wit_JobAndImageCapsules_attest : ∀ n ∈ [16, 0x1000], isTurn (withCap s0 (capAttest n)) Cap.attest (capAttest n) = true ∧ (capAttest n).arg 44 8 % 64 = 0 ∧
    decide (((turned (withCap s0 (capAttest n)) (capAttest n)).report (slice (capAttest n).bytes 12 32)).length ≤ (capAttest n).arg 52 4) = (n != 16) := by
  decide +kernel

theorem test_wit_CargoFeedsPublication_cargo :
    (∀ r ∈ [capLoad, capImage], let s := onPort s0 { Port.reset with running := some r, cargo := cargoOn }
     s.fwUp = true ∧ (s.port 0).running = some r ∧ r.awaitsCargo = true ∧ (s.port 0).cargo.isOpen = true ∧
     (s.port 0).cargo.cursor + cargoRecords (r.arg 16 8) ≤ (2 : W64).toNat ∧ 4096 * cargoRecords (r.arg 16 8) = 8192 ∧ s.aoc ≤ r.since + 25000000) ∧
    (let s : State := { onPort s0 { Port.reset with running := some capLoad } with aoc := 25000000 }
     s.fwUp = true ∧ (s.port 0).running = some capLoad ∧ capLoad.awaitsCargo = true ∧ capLoad.since + 25000000 ≤ s.aoc) ∧
    (∀ o ∈ [false, true], let s := onPort s0 { Port.reset with cargo := { cargoOn with isOpen := o } }
     s.portUp 0 = true ∧ (s.port 0).cargo.isOpen = o ∧ ringRecordsOk (s.port 0).cargo.records = true ∧ (s.port 0).cargo.ring % 64 = 0 ∧
     (s.port 0).cargo.prod % 8 = 0 ∧ (s.port 0).cargo.cons % 8 = 0) := by decide +kernel

def pubDecl0 : PubDecl := { recAddr := 0x10000, pubCtr := 40, ackCtr := 41 }

/-- A publish record at physical 0x100000: handle 5, 16 bytes at job address 0x10000, or a reserved byte set. -/
def sPub (plain : Bool) (copying : Option (Nat × Nat)) : State :=
  { s0 with
    jobs := [(0, { job0 with man := { man0 with publish := [pubDecl0], regions := [region0] }, counters := [(40, 1)]
                             pubs := [{ served := 0, copying := copying, marks := [] }] })]
    ms := { s0.ms with mem := wrBytes [] 0x100000 (pack 64 [(0, 2, 5), (2, 1, if plain then 0 else 1), (8, 8, 0x10000), (16, 8, 16)]) }
    results := [(5, { Result.empty with length := 16 })] }

theorem test_wit_CargoFeedsPublication_feeds :
    (let s := sFeed feedOn
     s.openFeed 0 2 = some (feedOn, feedDecl0) ∧ feedOn.closing = false ∧ feedOn.pulling = false ∧ s.feedRoom 0 feedDecl0 = true ∧
     feedOn.cursor + feedDecl0.blockRecs ≤ feedOn.prod) ∧
    (let f : Feed := { feedOn with prod := 5 }
     (sFeed f).openFeed 0 2 = some (f, feedDecl0) ∧ (sFeed f).feedRoom 0 feedDecl0 = true ∧ f.prod < f.cursor + feedDecl0.blockRecs) ∧
    (let f : Feed := { feedOn with pulling := true }
     (sFeed f).openFeed 0 2 = some (f, feedDecl0) ∧ f.pulling = true ∧ feedDecl0.blockRecs * feedDecl0.recBytes = 16 ∧
     (match (sFeed f).spanOf 0 (feedDecl0.blockAddr f.blocks) 16 true with | .runs _ => true | _ => false) = true ∧
     (sFeed f).mustHold 0 (feedDecl0.blockAddr f.blocks) 16 = false) := by decide +kernel

theorem test_wit_CargoFeedsPublication_publish :
    (∀ plain ∈ [false, true], let s := sPub plain none
     s.live = true ∧ (s.job 0).man.publish[0]? = some pubDecl0 ∧ (s.job 0).pubs[0]? = some { served := 0, copying := none, marks := [] } ∧
     (s.job 0).st = .running ∧ 0 < (s.ctr 0 pubDecl0.pubCtr).toNat ∧ s.badRange 0 pubDecl0.recAddr 64 = false ∧
     (s.pubCode 0 (pubRecOf (s.readJob 0 pubDecl0.recAddr 64)) == E.ok) = plain ∧ (s.result 5).st = .empty ∧ s.storeUsed + 16 ≤ 0x10000000) ∧
    (let s := sPub true (some (5, 0x10000))
     let t := ((s.sees 0 [(0x10000, 16)] []).2.1).updJob 0 fun j => j.updPub 0 fun c => { c with copying := none, marks := c.marks.filter fun m => decide (c.served < m.hi) }
     (s.job 0).pubs[0]? = some { served := 0, copying := some (5, 0x10000), marks := [] } ∧ (s.job 0).st = .running ∧ (s.result 5).length = 16 ∧
     s.absentPages 0 0x10000 16 = [] ∧ t.readsBad 0 [(0x10000, 16)] = false ∧ (t.readThrough 0 0x10000 16).isSome = true) := by decide +kernel

/-- A publication whose record was rewritten after its GIVE.C: each of the 16 bytes of the result is a free value. -/
theorem test_publication_rewritten :
    ((sPub true (some (5, 0x10000))).pubContent 0 pubDecl0.recAddr { served := 1, copying := none, marks := [{ lo := 0, hi := 1, record := [1], data := none }] }
      (List.replicate 16 7)).2.freeCount = (sPub true (some (5, 0x10000))).freeCount + 16 := by decide +kernel

/-! ### Azlink -/

/-- A packet of the type's virtual channel (0 for the types that name none). -/
def pkt0 (type flags : Byte) (src psn : Nat) (spec : List (Nat × Nat × Nat)) (payload : List Byte) : Pkt :=
  let vc := [0, 3, 1, 2, 4, 5, 6, 7, 0, 0].getD type.toNat 0
  { type := type, flags := flags, vcLen := BitVec.ofNat 16 (vc * 8192 + payload.length), src := BitVec.ofNat 16 src, dst := 1
    psn := BitVec.ofNat 32 psn, ackPsn := 0, mepoch := 0, spec := specOf spec, payload := payload }

def frameOf (k : Pkt) : Sys2Proof.Frame := { sa := 0x55, pkt := k, check := k.check, fcsOk := true }

/-- What R417 asks of a packet, but for the CHECK that `frameOf` computes. -/
def accepts (s : State) (k : Pkt) : Bool :=
  bits k.flags.toNat 6 2 == 1 && !reservedSet k && k.len == k.payload.length && decide (k.payload.length ≤ 4096) &&
    (k.dst.toNat == 0xFFFF || some k.dst.toNat == s.cfg.peerId)

theorem accepts_discards {s : State} {k : Pkt} (h : accepts s k = true) : s.discards (frameOf k) = false := by
  simp only [accepts, Bool.and_eq_true, beq_iff_eq, Bool.not_eq_true', decide_eq_true_eq, Bool.or_eq_true] at h
  obtain ⟨⟨⟨⟨h1, h2⟩, h3⟩, h4⟩, h5⟩ := h
  have h6 : ¬ 4096 < k.payload.length := by omega
  rcases h5 with h5 | h5 <;> simp [State.discards, frameOf, h1, h2, h3, h5, h6]

/-- The packets of `sequencedPackets` in its order, from member 2. -/
def seqPkt (psn i : Nat) : Pkt :=
  match i with
  | 0 => pkt0 Wire.winWrite 0x44 2 psn [] [1]
  | 1 => pkt0 Wire.winRead 0x44 2 psn [] (List.replicate 8 0)
  | 2 => pkt0 Wire.winReadResp 0x44 2 psn [] []
  | 3 => pkt0 Wire.keelExp 0x44 2 psn [] []
  | 4 => pkt0 Wire.keelLanes 0x44 2 psn [] []
  | 5 => pkt0 Wire.fpRing 0x44 2 psn [] []
  | n => pkt0 Wire.keelExp 0x44 2 psn [(25, 1, 16)] (pack 96 [(0, 1, n - 5)])

/-- `sAz` on a DIRECT link. -/
def sDir : State := { sAz with cfg := { sAz.cfg with portKind := 0 } }

/-- Frame `i` arrives, passes the checks, is what its command names, and stands `psn` from the expected PSN 0. -/
def seqMeets (psn i : Nat) : Bool :=
  let f := frameOf (seqPkt psn i)
  let u := received sDir 0 f
  sDir.live && sDir.ownId.isSome && (sDir.link 0).up && accepts sDir f.pkt && ((sequencedPackets 0 f).map fun o => o.2 f.pkt).getD i false &&
    u.isMember f.pkt.src.toNat && (u.vc 2 f.pkt.vc).rxExpected == 0 && !(u.vc 2 f.pkt.vc).nacked

theorem test_wit_SequencedPackets : (∀ psn ∈ [0, 2, 0xFFFFFFFF], ∀ i < 16, seqMeets psn i = true) ∧
    follows 2 0 = true ∧ follows 0 2 = false ∧ follows 0 0xFFFFFFFF = true ∧
    sDir.discards { frameOf (seqPkt 0 0) with fcsOk := false } = true := by decide +kernel

/-- A packet outside the sequences. -/
def plain (type : Byte) (sub src : Nat) (more : List (Nat × Nat × Nat) := []) (flags : Byte := 0x40) : Sys2Proof.Frame :=
  frameOf (pkt0 type flags src 0 ((20, 1, sub) :: more) [])

/-- Frame `f` arrives from its sender, and the packet is of this type and subtype. -/
def subMeets (s : State) (f : Sys2Proof.Frame) (type : Byte) (sub : Nat) : Bool :=
  s.live && s.ownId.isSome && (s.link 0).up && accepts s f.pkt && f.pkt.type == type && f.pkt.spec' 20 1 == sub

theorem test_wit_MembershipAndControl :
    (let f := plain Wire.member 1 3
     let u := received sDir 0 f
     subMeets sDir f Wire.member 1 = true ∧ u.isCoord = true ∧ some 3 ≠ u.cfg.peerId ∧ u.isMember 3 = false) ∧
    subMeets sDir (plain Wire.member 2 2 [(22, 2, 1)] 0x44) Wire.member 2 = true ∧
    (let f := plain Wire.member 3 2
     subMeets sDir f Wire.member 3 = true ∧ (received sDir 0 f).isMember 2 = true) ∧
    (let f := plain Wire.member 4 2 [(24, 4, 2)]
     subMeets sDir f Wire.member 4 = true ∧ (received sDir 0 f).isCoord = true ∧ (received sDir 0 f).isMember (f.pkt.spec' 24 4) = true) ∧
    (let f := plain Wire.member 5 2
     subMeets sDir f Wire.member 5 = true ∧ (received sDir 0 f).az.refused = false) ∧
    (let f := plain Wire.ctrl 1 2 [] 0x48
     subMeets sDir f Wire.ctrl 1 = true ∧ f.pkt.ackValid = true) ∧
    (let f := plain Wire.ctrl 2 2 [(22, 2, 1)]
     subMeets sDir f Wire.ctrl 2 = true ∧ (received sDir 0 f).switched 0 = false) ∧
    subMeets sDir (plain Wire.ctrl 3 2) Wire.ctrl 3 = true ∧
    (∀ n ∈ [0, 64], let s : State := { sDir with az := { sDir.az with reserve := n } }
     let f := plain Wire.ctrl 4 2
     subMeets s f Wire.ctrl 4 = true ∧ (received s 0 f).isMember 2 = true ∧ (received s 0 f).az.reserve = n ∧ ((received s 0 f).peer 2).allot < 1024) ∧
    subMeets sDir (plain Wire.nack 0 2) Wire.nack 0 = true ∧
    subMeets sAz (plain Wire.ctrl 3 2) Wire.ctrl 3 = true ∧ sAz.switched 0 = true := by decide +kernel

def txPkt : TxPkt := { pkt := seqPkt 0 0, owner := .none, cost := 65 }

/-- A channel to member 2 with a packet in flight, one that waits for credits, and an ACK owed. -/
def sVc : State :=
  { sAz with az := { sAz.az with peers := [(2, { peerM with vcs := [(0, { Vc.fresh with unacked := [txPkt], waiting := [txPkt], due := 9 })] })] } }

/-- As a member that is not the coordinator. -/
def sMem : State := { sAz with az := { sAz.az with coord := some 2 } }

def sAlone' : State := { sAz with az := { sAz.az with view := [], firstJoin := some 0, peers := [] } }

theorem test_wit_AzlinkTimers : sVc.azLive = true ∧ (sVc.vc 2 0).unacked ≠ [] ∧ sVc.isMember 2 = true ∧
    ((sVc.peer 2).vcs.any fun e => !e.2.unacked.isEmpty) = true ∧ (sVc.vc 2 0).due ≠ 0 ∧ (sVc.vc 2 0).waiting = [txPkt] ∧
    (sVc.peer 2).tx < txPkt.cost ∧ (sVc.link 0).up = true ∧ sVc.linkExists 4 = true ∧ (sVc.link 4).up = false ∧
    sAlone'.azLive = true ∧ sAlone'.az.refused = false ∧ sAlone'.upLinks ≠ [] ∧ sAlone'.az.view.contains (sAlone'.cfg.peerId.getD 0xFFFF) = false ∧
    sVc.isCoord = true ∧ sMem.azLive = true ∧ sMem.isCoord = false ∧ sMem.az.coord = some 2 ∧ sVc.az.losses.contains 2 = false ∧
    (({ sAz with az := { sAz.az with peers := [(2, { peerM with lossOpen := true })] } } : State).peer 2).lossOpen = true ∧
    ({ sAz with az := { sAz.az with losses := [2] } } : State).az.losses ≠ [] ∧
    sAlone'.cfg.peerId = some 1 ∧ sAlone'.az.view = [] ∧
    (let s : State := { sAlone' with aoc := 5000000 }
     s.azLive = true ∧ s.az.firstJoin = some 0 ∧ 0 + 5000000 ≤ s.aoc) ∧ sVc.az.lastView = none := by decide +kernel

def bucket0 : Bucket :=
  { desc := az1 0x0812, id := 0, started := false, attempt := 0, served := false, inbox := [], partials := [], subs := [], finals := [], resent := []
    verified := [], sentVerified := false }

theorem test_wit_AzlinkTimers_rings : ∀ x ∈ [{ ringCtx with st := .forming, openDesc := some (az1 0x0810) }, { ringCtx with st := .broken, buckets := [bucket0] }],
    ({ sAz with az := { sAz.az with rings := [(0, x)] } } : State).live = true ∧
    ({ sAz with az := { sAz.az with rings := [(0, x)] } } : State).ring 0 = some x ∧
    (x.st ≠ .ready ∧ x.openDesc ≠ none ∨ x.st = .broken ∧ x.openDesc = none ∧ x.bucket 0 ≠ none) := by decide +kernel

/-! ### Registers, boot, power, debug, interrupts -/

theorem test_wit_PortsAndRegisters : (onPort s0 Port.reset).fwUp = true ∧ (onPort s0 Port.reset).groupEntry 0 = none ∧ (sGroup capAbort []).groupEntry 0 = some 14 ∧
    (sGroup capAbort []).fwUp = true ∧
    (let s : State := { s0 with pw := { s0.pw with pwrGood := true }, aoc := 2500000 }
     s.pw.pwrGood = true ∧ s.pw.goodSince + 2500000 ≤ s.aoc) ∧
    (onPort s0 Port.reset).portUp 0 = true ∧ ({ onPort s0 Port.reset with snap := { Snapshot.reset with valid := true } } : State).portUp 0 = true ∧
    (∀ off ∈ [0x600, 0x608, 0x610, 0x618], off % 8 = 0 ∧ 0x600 ≤ off ∧ off < 0x620) ∧ (0x1F8 % 8 = 0 ∧ 0x1F8 < 0x200) ∧
    (∀ o ∈ [false, true], ((onPort s0 { Port.reset with cargo := { cargoOn with isOpen := o } }).port 0).cargo.isOpen = o) := by decide +kernel

/-- Power is on, in the device state given, and no bank is bootable. -/
def sBoot : State := { State.reset with dev := .idle, boot := { BootState.reset with booting := true } }

theorem test_wit_BootAndStandby : sBoot.dev = .idle ∧ sBoot.boot.booting = true ∧ sBoot.boot.holding = false ∧ sBoot.logBusy Rec.windowGen = false ∧ sBoot.oldRoots = [] ∧
    s0.live = true ∧
    (let s : State := { s0 with ms := { s0.ms with flash := { s0.ms.flash with powered := true } } }
     s.live = true ∧ s.ms.flash.powered = true ∧ s.ms.flash.lastCheckpoint = none ∧ s.logBusy Rec.flashRoot = false) ∧
    (let s : State := { State.reset with dev := .idle, boot := { BootState.reset with done := true } }
     s.mayStandby = true ∧ s.pw.standby = false) ∧
    ({ s0 with pw := { s0.pw with standby := true } } : State).pw.standby = true := by decide +kernel

/-- ALWAYS-ON. -/
def sOn (p : Power) : State := { State.reset with dev := .alwaysOn, pw := p }

theorem test_wit_PowerSequence : State.reset.dev = .off ∧ State.reset.pw.pwrEn = false ∧
    ((sOn Power.reset).dev = .alwaysOn ∧ (sOn Power.reset).pw.pwrEn = false ∧ (sOn Power.reset).pw.needEdge = false ∧ (sOn Power.reset).pw.tripHold = false) ∧
    ((sOn { Power.reset with railsStarting := true }).dev = .alwaysOn ∧ (sOn { Power.reset with railsStarting := true }).pw.railsStarting = true) ∧
    ((sOn { Power.reset with pwrEn := true }).pw.pwrEn = true ∧ (sOn { Power.reset with pwrEn := true }).dev = .alwaysOn) ∧
    (let s : State := { s0 with pw := { s0.pw with powerDown := true, lowSince := some 0 }, aoc := 1250000 }
     s.pw.powerDown = true ∧ s.fwUp = true ∧ s.pw.lowSince = some 0 ∧ 0 + 1250000 ≤ s.aoc) ∧
    (sOn Power.reset).dev ≠ .off ∧ s0.fwUp = true ∧ s0.pw.thermDrive = false ∧
    (let s := sOn { Power.reset with heldEdge := true, tripHold := true, pwrEn := true }
     s.dev = .alwaysOn ∧ s.pw.heldEdge = true ∧ s.pw.tripHold = true ∧ s.pw.pwrEn = true ∧ s.pw.cool = true) := by decide +kernel

/-- At 102 degrees, at 20 degrees and at 101 degrees. -/
theorem test_wit_ThrottlingAndFatalCauses : s0.fwUp = true ∧ s0.live = true ∧
    ({ s0.pw with tLogic := 1632 } : Power).hot = true ∧ ({ s0.pw with tLogic := 320 } : Power).belowThrottle = true ∧
    ({ s0.pw with tLogic := 1616 } : Power).hot = false ∧ ({ s0.pw with tLogic := 1616 } : Power).belowThrottle = false := by decide +kernel

theorem test_wit_ManagementInterface : s0.dev ≠ .off ∧ (400 ≤ (400 : W16).toNat ∧ (400 : W16).toNat ≤ 1500) ∧
    ({ s0 with pw := { s0.pw with statusUnread := true } } : State).pw.statusUnread = true := by decide +kernel

/-- An order's KIND. -/
def order0 (kind : Nat) : List Byte := pack 176 [(8, 1, kind)]

theorem test_wit_DebugPort : s0.fwUp = true ∧
    (let s : State := { s0 with boot := { s0.boot with challenge := some { value := [], issued := 0 } }, aoc := 1500000000 }
     s.boot.challenge = some { value := [], issued := 0 } ∧ 0 + 1500000000 ≤ s.aoc) ∧
    fld (order0 1) 8 1 = 1 ∧ fld (order0 3) 8 1 = 3 ∧ fld (order0 2) 8 1 = 2 ∧ s0.boot.order = none ∧ s0.orderCode (order0 1) ≠ E.ok := by decide +kernel

/-- Source 250 is PENDING for control core 2 at priority 5. -/
def src0 : IuSrc := { IuSrc.reset with targets := 4, pending := true, mask := false, prio := 5 }

def sIu (x : IuSrc) (k : IuCore) (asleep : Bool) : State :=
  { s0 with iu := { IntUnit.reset with srcs := [(250, x)], cores := [(2, k)], asleep := asleep, latches := if asleep then [250] else [] } }

theorem test_wit_InterruptUnit : s0.fwUp = true ∧ s0.iu.asleep = false ∧ (16 ≤ 250 ∧ 250 < 512) ∧ rsvOk 0x0000000400000505 0xFFFFFF00FFF802F0 = true ∧
    ((0x505 : W64).getLsbD 10 = true ∧ rsvOk 0x505 0xFFFFFF00FFF802F0 = true) ∧ (0x105 : W64).getLsbD 10 = false ∧ isLevel 250 = false ∧ (15 : W64).toNat < 16 ∧
    ((List.range 15).flatMap fun i => (sIu src0 IuCore.reset false).eligibleAt (15 - i)) = [250] ∧ (sIu src0 IuCore.reset false).targetOf 250 = some 2 ∧
    (let s := sIu { src0 with delivering := true, deliverTo := 2, deliverPrio := 5 } IuCore.reset false
     s.deliveryTo 2 = some 250 ∧ (s.iuCore 2).claim = none) ∧
    ((sIu src0 { IuCore.reset with claim := some (250, 5) } false).iuCore 2).claim = some (250, 5) ∧
    ((sIu src0 { IuCore.reset with stack := [(250, 5)] } false).iuCore 2).stack = [(250, 5)] ∧ (16 ≤ 250 ∧ 250 ≠ 247) ∧
    ((sIu src0 IuCore.reset false).iuCore 2).stack = [] ∧ (Memory.wf s0.ms.mem = true ∧ twf compareReset s0.iu.compare = true ∧ twf false s0.iu.fired = true) ∧
    s0.aoc < (7 : W64).toNat ∧ ({ State.reset with dev := .idle } : State).maySleepControl = true ∧
    (let s : State := { s0 with iu := { s0.iu with compare := [(3, 0)] } }
     tget false 3 s.iu.fired = false ∧ (s.compareOf 3).toNat ≤ s.aoc) ∧
    (sIu src0 IuCore.reset true).iu.asleep = true ∧ (sIu src0 IuCore.reset true).wakes 250 = true := by decide +kernel

/-- RING = 5 with source 250 under way: source 248 becomes PENDING and source 250 keeps its marks. -/
theorem test_wit_DoorbellFires : (sIu { src0 with delivering := true } IuCore.reset false).fwUp = true ∧
    (sIu { src0 with delivering := true } IuCore.reset false).iu.asleep = false ∧ 7 < 8 ∧ (5 : Byte).getLsbD 0 = true ∧
    (5 : Byte).getLsbD 2 = true ∧ ((sIu { src0 with delivering := true } IuCore.reset false).iuSrc 250).delivering = true := by decide

/-! ### The whole machine -/

theorem test_wit_StepTakesFront : ({ s0 with pending := [Instr.pageAgeTick] } : State).pending = [Instr.pageAgeTick] ∧ s0.pending = [] ∧ State.reset.dev = .off :=
  ⟨rfl, rfl, rfl⟩

/-- A step from a canonical state that answers a next state. -/
theorem test_wit_StepKeepsCanonical : canonical s0 ∧ ∃ t, step { s0 with pending := [Instr.pageAgeTick] } = .next t :=
  ⟨⟨by decide, by decide, by decide⟩, _, rfl⟩

/-! ### Ill-formed commands: one for each check of WellFormed -/

def cleanFrame : Sys2Proof.Frame := frameOf (pkt0 Wire.ctrl 0x40 2 0 [(20, 1, 3)] [])

theorem test_refuses_core_64 : (Instr.coreSleep 64).unitsOk = false := by decide
theorem test_refuses_berth_768 : (Instr.nop { core := 0, berth := 768 }).unitsOk = false := by decide
theorem test_refuses_absent_engine : (Instr.sliceEnd 6 8 0).unitsOk = false ∧ (Instr.engineClockGate 11 0).unitsOk = false := by decide +kernel
theorem test_refuses_short_spec : (Instr.hello 0 { cleanFrame with pkt := { cleanFrame.pkt with spec := [] } }).unitsOk = false ∧ (Instr.hello 0 cleanFrame).unitsOk = true := by
  decide
theorem test_refuses_long_payload (bs : List Byte) (h : 8192 ≤ bs.length) :
    Sys2Proof.Frame.wf { cleanFrame with pkt := { cleanFrame.pkt with payload := bs } } = false := by
  simp [Sys2Proof.Frame.wf]; omega
theorem test_refuses_eight_retries : (Instr.faultInComplete 0 1 { reads := [{ retries := 8, ok := true }] }).unitsOk = false := by decide
theorem test_refuses_source_512 : (Instr.iuSrcWrite (.src 512) 0).unitsOk = false ∧ (Instr.iuSrcWrite (.threshold 8) 0).unitsOk = false := by decide
theorem test_refuses_boot_of_core_64 : (Instr.boot true true { fail := .pll 64, zeroing := [] }).unitsOk = false ∧
    (Instr.boot true true { fail := .dram 2, zeroing := [] }).unitsOk = false := by decide
theorem test_refuses_legal_word_as_illegal : (Instr.illegalInstruction t0 0).unitsOk = false := by decide
theorem test_refuses_unaligned_register : (Instr.registerWrite 0 0x602 4 0).unitsOk = false := by decide
theorem test_refuses_long_landing : (Instr.landingSealWrite 0 262144 [0] false).unitsOk = false := by decide
/-- ISSUE.R of a register that is no multiple of 8 has no word that executes (R187, R246). -/
theorem test_refuses_issue_of_g9 : (Instr.issueR t0 { ra := 9, port := { rivals := [], finds := [] } }).wordOk = false ∧
    (Instr.issueR t0 { ra := 8, port := { rivals := [], finds := [] } }).wordOk = true := by decide

/-! ### Words of chapter 7's worked example -/

theorem test_word_issue : decodeTiller t0 0x7000_8000_0000_0000 = .issueR t0 { ra := 8, port := { rivals := [], finds := [] } } := by decide
theorem test_word_wait : encodeTiller (decodeTiller t0 0x8000_0080_0000_0122) = some 0x8000_0080_0000_0122 ∧
    (match decodeTiller t0 0x8000_0080_0000_0122 with | .wait _ ra rb imm => (ra, rb, imm.toNat) | _ => (0, 0, 0)) = (0, 2, 0x122) := by decide
theorem test_word_ld64 : decodeTiller t0 0x5351_0000_0000_0000 = .ld64 t0 20 16 0 := by decide
theorem test_word_shr : decodeTiller t0 0x1855_4000_0000_0030 = .shr t0 21 20 (.imm 48) := by decide
theorem test_word_cmp : decodeTiller t0 0x2101_5000_0000_0000 = .cmpNe t0 0 21 0 := by decide
theorem test_word_brp : decodeTiller t0 0x6110_0000_0000_0028 = .brp t0 0 true 40 := by decide
theorem test_word_give : (match decodeTiller t0 0x8200_0080_0000_0140 with | .giveC _ ra rb imm => (ra, rb, imm.toNat) | _ => (0, 0, 0)) = (0, 2, 0x140) := by decide

/-! ### Worked examples of the spec -/

/-- Chapter 4: three sections of one element, from products 2^16 and fifteen of 2^-10, 2^30 with -2^-32, and -2^30. -/
def sections : List (List Val) :=
  [.fin false 1 16 :: List.replicate 15 (.fin false 1 (-10)), [.fin false 1 30, .fin true 1 (-32)], [.fin true 1 30]]

theorem test_example_section_sums : (sections.foldl (fun p x => p.combine (sectionSum x)) PairRec.seed) = { sum := 0x4780_0000, err := 0x3C80_0000 } ∧
    ((sections.take 2).foldl (fun p x => p.combine (sectionSum x)) PairRec.seed) = { sum := 0x4E80_0200, err := 0x3C80_0000 } ∧
    (({ sum := 0x4780_0000, err := 0x3C80_0000 } : PairRec).output fp32 .rne 0).code = 0x4780_0002 := by decide +kernel

/-- Chapter 8: row 300 of bank 37 of core 21. -/
theorem test_example_row_word : wordOfRow 21 37 300 0 = 0x159_6025 ∧ wordAddr 0x159_6025 = 0x0001_0000_0565_8094 := by decide

/-- Chapter 15: the checksums of the three members' blocks, and of a sum of two. -/
def keelBlk (mask a b c : Nat) : KBlock := { exp := 0x74, mask := mask, lanes := [a, b, c] ++ List.replicate 29 0 }

theorem test_example_checksums : (keelBlk 0 0x0600_0000 0xFF00_0000 0).checksum 32 = 0x0000_0000_0500_0000 ∧
    (keelBlk 4 0xF800_0000 0x0300_0000 1).checksum 32 = 0xFFFF_FFFF_FB00_0000 ∧
    KBlock.add 32 (keelBlk 0 0x0600_0000 0xFF00_0000 0) (keelBlk 4 0xF800_0000 0x0300_0000 1) = .inr (keelBlk 4 0xFE00_0000 0x0200_0000 1) ∧
    ((keelBlk 4 0 0xFE00_0000 1).decode 32 1).code = 0xBF00_0000 ∧ ((keelBlk 4 0 0xFE00_0000 1).decode 32 2).code = 0x7F80_0000 := by decide +kernel

/-- FIPS 197, example C.3. -/
theorem test_example_aes : Aes.encrypt (Aes.roundKeys ((List.range 32).map fun i => BitVec.ofNat 8 i)) ((List.range 16).map fun i => BitVec.ofNat 8 (17 * i)) =
    [0x8E, 0xA2, 0xB7, 0xCA, 0x51, 0x67, 0x45, 0xBF, 0xEA, 0xFC, 0x49, 0x90, 0x4B, 0x49, 0x60, 0x89] := by decide +kernel

/-- A frame of R281 by hand from RFC 8878: "abc" in one raw block, its XXH64 being 44BC2CF5AD770999; with one bit of the checksum flipped. -/
theorem test_example_frame :
    zstdPage [0x28, 0xB5, 0x2F, 0xFD, 0x24, 3, 0x19, 0, 0, 0x61, 0x62, 0x63, 0x99, 0x09, 0x77, 0xAD] = some [0x61, 0x62, 0x63] ∧
    zstdPage [0x28, 0xB5, 0x2F, 0xFD, 0x24, 3, 0x19, 0, 0, 0x61, 0x62, 0x63, 0x98, 0x09, 0x77, 0xAD] = none := by decide +kernel

/-! ### Single steps -/

/-- ADD with destination and source g1: 64 + 64, and the PC moves on. -/
theorem test_step_add : ((match exec (.add t0 1 1 (.reg 1)) s0 with
    | .next s => (s.ctxAt t0).map fun c => ((c.reg 1).toNat, c.pc.toNat)
    | _ => none) = some (128, 6)) := by decide +kernel

/-- A subtraction that wraps; g0 discards what is written to it (R152). -/
theorem test_step_sub_wraps : ((match exec (.sub t0 4 0 (.reg 3)) s0 with
    | .next s => (s.ctxAt t0).map fun c => c.reg 4
    | _ => none) = some (-3)) ∧
    ((match exec (.sub t0 0 0 (.reg 3)) s0 with
    | .next s => (s.ctxAt t0).map fun c => c.reg 0
    | _ => none) = some 0) := by decide +kernel

/-- A misaligned load faults its thread (R196). -/
theorem test_step_misaligned : ((match exec (.ld64 t0 4 0 0x10004) s0 with
    | .next s => (s.ctxAt t0).map Ctx.status
    | _ => none) = some .faulted) := by decide +kernel

/-- An empty queue: one AOC cycle passes, and none in OFF. -/
theorem test_step_idle : (match step s0 with | .next s => s.aoc | _ => 0) = 1 ∧ (match step State.reset with | .next s => s.aoc | _ => 9) = 0 := by decide +kernel

end Sys2Proof.Tests
end

section
/-! SUPPORT. Only a step on an empty queue moves the AOC count: what an AOC cycle lets go on leaves the count alone, operation by operation
(R35, R37). Settles O56. -/

set_option Elab.async false

namespace Sys2Proof.Machine

variable (s : State)

theorem State.aoc_foldl {β : Type} {f : State → β → State} (hf : ∀ s b, (f s b).aoc = s.aoc) (l : List β) :
    (l.foldl f s).aoc = s.aoc := by
  induction l generalizing s with
  | nil => rfl
  | cons b r ih => rw [List.foldl_cons, ih, hf]

/-! ### Sources, threads, crossings -/

@[simp] theorem State.count_aoc (o : Nat) : (s.count o).aoc = s.aoc := rfl
@[simp] theorem State.setInput_aoc (n : Nat) (b : Bool) : (s.setInput n b).aoc = s.aoc := rfl
@[simp] theorem State.fire_aoc (n : Nat) : (s.fire n).aoc = s.aoc := by
  simp only [State.fire, apply_ite State.aoc, ite_self]

@[simp] theorem State.updThread_aoc (t : Nat) (f : Ctx → Ctx) : (s.updThread t f).aoc = s.aoc := by
  unfold State.updThread; dsimp only
  split
  · split <;> rfl
  · rfl

@[simp] theorem State.abortXing_aoc (k : Nat) (c : Code) : (s.abortXing k c).aoc = s.aoc := by
  unfold State.abortXing
  split
  · rfl
  · dsimp only
    split <;> simp [apply_ite State.aoc]

@[simp] theorem State.abortWhere_aoc (p : XEntry → Bool) (c : Code) : (s.abortWhere p c).aoc = s.aoc :=
  s.aoc_foldl (fun s k => s.abortXing_aoc k c) _
@[simp] theorem State.beats_aoc (reads wset : List XEnt) : (s.beats reads wset).aoc = s.aoc := s.abortWhere_aoc _ _

/-! ### Stores of the logbook and an order's stages (R518, R533, R575) -/

@[simp] theorem State.setLog_aoc (id : Nat) (r : LogRec) : (s.setLog id r).aoc = s.aoc := State.fire_aoc _ _

@[simp] theorem State.logStore_aoc (id : Nat) (bs : List Byte) : (s.logStore id bs).2.aoc = s.aoc := by
  unfold State.logStore
  split
  · rfl
  · dsimp only
    split <;> simp

@[simp] theorem State.logFirmware_aoc (id : Nat) (bs : List Byte) : (s.logFirmware id bs).aoc = s.aoc := by
  simp [State.logFirmware, apply_ite State.aoc]

@[simp] theorem State.raiseRollback_aoc (floor : Nat) : (s.raiseRollback floor).aoc = s.aoc := by
  simp [State.raiseRollback, apply_ite State.aoc]

@[simp] theorem State.startOrder_aoc (o : OrderRun) : (s.startOrder o).aoc = s.aoc := rfl
@[simp] theorem State.orderDone_aoc (c : Code) : (s.orderDone c).aoc = s.aoc := rfl
@[simp] theorem State.eraseTier_aoc : s.eraseTier.aoc = s.aoc := rfl
@[simp] theorem State.freshKey_aoc : s.freshKey.2.aoc = s.aoc := rfl
@[simp] theorem State.updFlash_aoc (g : Flash → Flash) : (s.updFlash g).aoc = s.aoc := rfl

@[simp] theorem State.eraseFirst_aoc (o : OrderRun) : (s.eraseFirst o).aoc = s.aoc := by
  simp [State.eraseFirst]

@[simp] theorem State.eraseNext_aoc (o : OrderRun) : (s.eraseNext o).aoc = s.aoc := by
  unfold State.eraseNext; dsimp only
  split
  · simp
  · split <;> simp

@[simp] theorem State.orderStep_aoc : s.orderStep.aoc = s.aoc := by
  unfold State.orderStep
  split
  · rfl
  · split
    · split
      · rfl
      · split <;> simp [apply_ite State.aoc]
    · simp

/-! ### Engines, jobs, cores, links -/

@[simp] theorem State.passEngine_aoc (e : Engine) : (s.passEngine e).aoc = s.aoc := by
  unfold State.passEngine
  split <;> rfl

@[simp] theorem State.passStall_aoc (pos : Nat) : (s.passStall pos).aoc = s.aoc := by
  simp [State.passStall, apply_ite State.aoc]

@[simp] theorem State.passCore_aoc (core : Nat) : (s.passCore core).aoc = s.aoc := by
  simp [State.passCore, apply_ite State.aoc]

@[simp] theorem State.updLink_aoc (l : Nat) (f : Link → Link) : (s.updLink l f).aoc = s.aoc := rfl
@[simp] theorem State.emit_aoc (l : Nat) (da : BitVec 48) (p : Pkt) : (s.emit l da p).aoc = s.aoc := rfl

@[simp] theorem State.linkTx_aoc (l : Nat) (da : BitVec 48) (p : Pkt) : (s.linkTx l da p).aoc = s.aoc := by
  simp [State.linkTx, apply_ite State.aoc]

@[simp] theorem State.drainLink_aoc (l : Nat) : (s.drainLink l).aoc = s.aoc := by
  unfold State.drainLink
  exact (State.aoc_foldl _ (fun s _ => s.linkTx_aoc l _ _) _).trans (s.updLink_aoc l _)

/-! ### One AOC cycle -/

/-- In OFF nothing passes. -/
theorem tick_off (h : s.dev = .off) : tick s = s := if_pos h

/-- Outside OFF the count rises by one, modulo 2^64 (R35, R37): neither firmware's stores nor the fabric's cycles touch it. -/
theorem tick_aoc (h : s.dev ≠ .off) : (tick s).aoc = (s.aoc + 1) % 2 ^ 64 := by
  have offer (s : State) (l : Nat) : (if (s.link l).txq.isEmpty then s else s.drainLink l).aoc = s.aoc := by
    simp [apply_ite State.aoc]
  unfold tick
  rw [if_neg h]
  extract_lets counted ordered raised begun worked stalls cores
  have hordered : ordered.aoc = counted.aoc := by simp [ordered, apply_ite State.aoc]
  have hraised : raised.aoc = ordered.aoc := by
    unfold raised
    split <;> simp
  have hworked : worked.aoc = begun.aoc := begun.aoc_foldl State.passEngine_aoc _
  have hstalls : stalls.aoc = worked.aoc := by simp [stalls]
  have hcores : cores.aoc = stalls.aoc := stalls.aoc_foldl State.passCore_aoc _
  have hfirmware : raised.aoc = (s.aoc + 1) % 2 ^ 64 := hraised.trans hordered
  split
  · exact hordered
  · split
    · exact hfirmware
    · calc _ = cores.aoc := cores.aoc_foldl offer _
        _ = begun.aoc := hcores.trans (hstalls.trans hworked)
        _ = _ := hfirmware

/-! ### The step -/

/-- Settles O56: `step` takes the front command, and on an empty queue it is `tick` (log 3). -/
theorem stepTakesFront : Obligations.StepTakesFront := by
  refine fun s c rest => ⟨fun h => by rw [step, h], fun h => ⟨tick s, by rw [step, h], ?_, tick_off s⟩⟩
  split
  next off => rw [tick_off s off]
  next on => exact tick_aoc s on

end Sys2Proof.Machine
end

section
/-! SUPPORT. The power states of a core: each of its commands, under the conditions of its rule, is the update that the rule gives
(R38, R546, R547, R586). Settles O33. -/

set_option Elab.async false

namespace Sys2Proof.Machine

variable {s : State} {core : Nat}

/-- CORE_SLEEP takes effect on a running core of a running job that has been idle for 64 fabric cycles (R546). -/
theorem exec_coreSleep (hlive : s.live = true) (hrun : s.jobRuns core = true) (hpower : (s.core core).power = .run)
    (hmay : s.maySleep core = true) (hidle : 64 ≤ (s.core core).idle) :
    exec (.coreSleep core) s = .next (s.updCore core fun k => { k with power := .sleep, idle := 0 }) := by
  show execCoreSleep core s = _
  simp [execCoreSleep, *]

/-- CORE_DEEP takes effect after DEEP_DELAY in SLEEP, with nothing that wakes the core and an empty Span queue; the TLB and the walk cache
are lost (R546, R548). -/
theorem exec_coreDeep (hlive : s.live = true) (hrun : s.jobRuns core = true) (hpower : (s.core core).power = .sleep)
    (hquiet : s.wakeDue core = false) (hdelay : (s.job (s.posOf core)).man.deepLog2 ≠ 0xFF)
    (hidle : 2 ^ (s.job (s.posOf core)).man.deepLog2 ≤ (s.core core).idle) (hspan : (s.engine 1 (s.posOf core)).queue = []) :
    exec (.coreDeep core) s =
      .next (s.updCore core fun k => { k with power := .deep, idle := 0, tlb := [], tlbLarge := [], walks := [] }) := by
  show execCoreDeep core s = _
  simp [execCoreDeep, *]

/-- CORE_WAKE takes effect in SLEEP and DEEP when something wakes the core (R547). -/
theorem exec_coreWake (hlive : s.live = true) (hpower : (s.core core).power ≠ .run) (hwake : s.wakeDue core = true) :
    exec (.coreWake core) s = .next (s.updCore core fun k => { k with power := .run, wakeHeld := false, idle := 0 }) := by
  show execCoreWake core s = _
  simp [execCoreWake, *]

/-- A PLL that does not lock at a wake from DEEP is a fatal error of its core (R38, R586). -/
theorem exec_pllLockTimeout (hlive : s.live = true) (hpower : (s.core core).power = .deep) (hwake : s.wakeDue core = true) :
    exec (.pllLockTimeout core) s =
      .next ((s.updCore core fun k => { k with pllFailed := true }).enterFaulted 7 E.uncorrectable 0 0xFFFFFFFF core) := by
  show execPllLockTimeout core s = _
  simp [execPllLockTimeout, *]

/-- Settles O33, command by command. -/
theorem corePowerStates : Obligations.CorePowerStates :=
  fun _ _ hlive => ⟨exec_coreSleep hlive, exec_coreDeep hlive, exec_coreWake hlive, exec_pllLockTimeout hlive⟩

end Sys2Proof.Machine
end

section
/-! SUPPORT. Scrubbers, the bridge and map-out: what each command reads, counts or plans (R23, R238 to R244, R320). Settles O36. -/

set_option Elab.async false

open Sys2Proof.Claim

namespace Sys2Proof.Machine

variable {s : State}

/-! ### SCRUB_WORD (R238, R239) -/

/-- A bank's scrubber moves on to the next of the bank's 16,640 words. -/
def State.scrubbed (s : State) (bank idx : Nat) : State :=
  s.updMs fun m => { m with scrubAt := tset 0 bank ((idx + 1) % 16640) m.scrubAt }

/-- What an error in a row out of use does: it enters the counters of its core, and no row's tally. -/
def State.countOutOfUse (s : State) (core : Nat) : Ecc → State
  | .clean => s
  | .single => (s.count (0x1300 + 8 * core)).fire 246
  | .double => s.count (0x1500 + 8 * core)

section
variable {core bank idx : Nat} {ecc : Ecc} (hlive : s.live = true) (hcore : core < 64) (hbank : bank < 64)
  (hat : tget 0 (core * 64 + bank) s.ms.scrubAt = idx)
include hlive hcore hbank hat

/-- The word of a row that answers for a ROW is read. -/
theorem exec_scrubWord_inUse {r : Nat} (hr : (s.scrubbed (core * 64 + bank) idx).answers (core * 64 + bank) (idx / 32) = some r) :
    exec (.scrubWord core bank idx ecc) s =
      .next ((s.scrubbed (core * 64 + bank) idx).checkRead (spBase + 4 * wordOfRow core bank r (idx % 32)) 4 ecc).2 := by
  show execScrubWord core bank idx ecc s = _
  unfold State.scrubbed at *
  simp [execScrubWord, hlive, Nat.not_le.2 hcore, Nat.not_le.2 hbank, hat, hr]

/-- The word of a row out of use is only counted. -/
theorem exec_scrubWord_outOfUse (hr : (s.scrubbed (core * 64 + bank) idx).answers (core * 64 + bank) (idx / 32) = none) :
    exec (.scrubWord core bank idx ecc) s = .next ((s.scrubbed (core * 64 + bank) idx).countOutOfUse core ecc) := by
  show execScrubWord core bank idx ecc s = _
  unfold State.scrubbed at *
  cases ecc <;> simp [execScrubWord, State.countOutOfUse, hlive, Nat.not_le.2 hcore, Nat.not_le.2 hbank, hat, hr]
end

/-! ### The patrol scrub and the bridge (R23, R320) -/

/-- A granule outside the translation map and the swap records is read. -/
theorem exec_dramPatrolScrub {granule : Nat} {ecc : Ecc} (hlive : s.live = true) (hstandby : s.pw.standby = false)
    (hin : 64 * granule + 64 ≤ dramEnd) (hmap : inTranslationMap granule = false)
    (hswap : (s.checkRead (64 * granule) 64 ecc).2.inSwapRecord granule = none) :
    exec (.dramPatrolScrub granule ecc) s = .next (s.checkRead (64 * granule) 64 ecc).2 := by
  have hlt : ¬ dramEnd / 64 ≤ granule := by omega
  show execDramPatrolScrub granule ecc s = _
  simp [execDramPatrolScrub, hlive, hstandby, hlt, hmap, hswap]

/-- The failures in a row of a direction's units are set. -/
def State.bridgeRun (s : State) (dir n : Nat) : State := s.updMs fun m => { m with bridgeRetries := lset m.bridgeRetries dir n }

theorem exec_bridgeUnitReceive_ok {dir : Nat} (hlive : s.live = true) :
    exec (.bridgeUnitReceive dir true) s = .next (s.bridgeRun dir 0) := by
  show execBridgeUnitReceive dir true s = _
  simp [execBridgeUnitReceive, State.bridgeRun, hlive]

/-- A unit that fails its CRC is counted, and the sixteenth in a row is a bridge fault. -/
theorem exec_bridgeUnitReceive_bad {dir n : Nat} (hlive : s.live = true) (hn : n = s.ms.bridgeRetries.getD dir 0) :
    exec (.bridgeUnitReceive dir false) s = .next (if 16 ≤ n + 1
      then (s.bridgeRun dir (n + 1)).enterFaulted 5 E.uncorrectable 0 0xFFFFFFFF 0xFFFF
      else (s.bridgeRun dir (n + 1)).count 0x1000) := by
  show execBridgeUnitReceive dir false s = _
  subst hn
  simp [execBridgeUnitReceive, State.bridgeRun, hlive]

theorem scrubbers_hold : scrubbers := by
  refine fun s hlive => ⟨fun core bank idx ecc hcore hbank hat => ⟨fun r => exec_scrubWord_inUse hlive hcore hbank hat, fun hr => ?_⟩,
    fun granule ecc => exec_dramPatrolScrub hlive, fun dir n hn => ⟨exec_bridgeUnitReceive_ok hlive, fun h => ?_, fun h => ?_⟩⟩
  · exact ⟨exec_scrubWord_outOfUse hlive hcore hbank hat hr, exec_scrubWord_outOfUse hlive hcore hbank hat hr,
      exec_scrubWord_outOfUse hlive hcore hbank hat hr⟩
  · rw [exec_bridgeUnitReceive_bad hlive hn, if_neg (by omega)]; rfl
  · rw [exec_bridgeUnitReceive_bad hlive hn, if_pos h]; rfl

/-! ### ROW_MAP_OUT (R241 to R244) -/

/-- The bank's spares that fail their test before one that passes, as 8 times the bank's number plus the spare. -/
def State.sparesSkipped (s : State) (failing : List Nat) (row : Nat) : List Nat :=
  ((s.spareOf row []).takeWhile fun i => failing.contains (row / bankRows * 8 + i)).map fun i => row / bankRows * 8 + i

/-- The lowest free spare of a row's bank that passes its test. -/
def State.sparePassing (s : State) (failing : List Nat) (row : Nat) : Option Nat :=
  (s.spareOf row []).find? fun i => !failing.contains (row / bankRows * 8 + i)

/-- The plan for one row alone, while the field map has room: it takes the lowest spare that passes, or stays in use for want of one. -/
theorem State.planRow_first {failing : List Nat} {row : Nat} (hmap : s.ms.remaps.length < 1024) :
    s.planRow failing { rows := [], failed := [], unrepaired := [] } row = match s.sparePassing failing row with
      | some spare => { rows := [rowSpare row spare], failed := s.sparesSkipped failing row, unrepaired := [] }
      | none => { rows := [], failed := s.sparesSkipped failing row, unrepaired := [row] } := by
  have hroom : ¬ 1024 ≤ s.ms.remaps.length + 0 := by omega
  have hall : (s.spareOf row []).filter (fun _ => true) = s.spareOf row [] := List.filter_eq_self.2 fun _ _ => rfl
  unfold State.planRow
  simp only [List.length_nil, if_neg hroom, List.contains_nil, Bool.not_false, hall]
  rfl

/-- A plan that uses a spare opens its crossing; one that uses none is noted at once. -/
def State.openMapOut (s : State) (pos : Nat) (m : MapOut) : State :=
  if m.rows.isEmpty then s.noteRows m.failed m.unrepaired
  else match s.freeFwEntry with
    | none => s.xingFull
    | some k => s.openXing k (s.newXing (.rowMapOut m.rows m.failed m.unrepaired) pos [] (mapOutSet m.rows) m.rows.length)

/-- At a job boundary the one marked row of a position is planned. -/
theorem exec_rowMapOut_one {pos row : Nat} {failing : List Nat} (hlive : s.live = true)
    (hjob : (s.job pos).st = .none ∨ (s.job pos).st = .loaded) (hstart : s.starting pos = false)
    (hmarked : (s.ms.marked.filter fun r => s.posOf (r / bankRows / 64) == pos) = [row]) (hlog : s.logBusy Rec.repairMap = false)
    (hopen0 : s.mapOutOpen 0 = false) (hopen1 : s.mapOutOpen 1 = false) :
    exec (.rowMapOut pos failing) s =
      .next (s.openMapOut pos (s.planRow failing { rows := [], failed := [], unrepaired := [] } row)) := by
  have hst : ((s.job pos).st == .none || (s.job pos).st == .loaded) = true := by simpa using hjob
  show execRowMapOut pos failing s = _
  simp only [execRowMapOut, hlive, hst, hstart, hmarked, hlog, hopen0, hopen1, List.take_succ_cons, List.take_nil, List.foldl_cons,
    List.foldl_nil, List.isEmpty_cons, Bool.not_true, Bool.or_false, Bool.false_eq_true, if_false]
  rfl

theorem rowsMapOut_holds : rowsMapOut := by
  intro s pos row k spare failing hlive hjob hstart hmarked hlog hopen0 hopen1 hentry hmap
  have hrun := exec_rowMapOut_one (failing := failing) hlive hjob hstart hmarked hlog hopen0 hopen1
  rw [State.planRow_first hmap] at hrun
  refine ⟨fun hspare => ?_, fun hnone => ?_⟩
  · have hpass : s.sparePassing failing row = some spare := hspare
    rw [hrun, hpass, State.openMapOut, hentry]
    rfl
  · have hpass : s.sparePassing failing row = none := by simpa [State.sparePassing, bankRows] using hnone
    rw [hrun, hpass]
    rfl

/-- Settles O36: the scrubbers and the bridge by their commands, map-out by the plan of the one marked row. -/
theorem scrubbersAndMapOut : Obligations.ScrubbersAndMapOut := ⟨scrubbers_hold, rowsMapOut_holds⟩

end Sys2Proof.Machine
end

section
/-! SUPPORT. The sum of Keel blocks: what a lane of it is, and why neither order nor bracketing shows in it (R66, R264). Settles O25. -/

set_option Elab.async false

namespace Sys2Proof.Machine

variable {w j : Nat} {a b c ab bc : KBlock}

/-! ### Special bits, class codes and lanes -/

theorem KBlock.special_eq_testBit (b : KBlock) (j : Nat) : b.special j = b.mask.testBit j := by
  rw [Nat.testBit_eq_decide_div_mod_eq]
  rfl

/-- The class code of an element, 0 where it is not special. -/
def KBlock.classCode (b : KBlock) (j : Nat) : Nat := if b.special j then b.lane j else 0

/-- A lane reads back every integer below 2^(w - 2) in magnitude, and so every sum that KEEL_ADD accepts. -/
theorem laneInt_laneOf (hw : 2 ≤ w) {z : Int} (hz : z.natAbs < 2 ^ (w - 2)) : laneInt w (laneOf w z) = z := by
  obtain ⟨n, rfl⟩ := Nat.exists_eq_add_of_le' hw
  have hhalf : 2 ^ (n + 2 - 1) = 2 * 2 ^ n := Nat.pow_succ'
  have hfull : (2 : Int) ^ (n + 2) = 4 * (2 ^ n : Nat) := by rw [Int.pow_add, Int.natCast_pow, Int.mul_comm]; rfl
  rw [Nat.add_sub_cancel] at hz
  unfold laneInt laneOf
  rw [hhalf, hfull]
  generalize 2 ^ n = m at hz ⊢
  rcases Int.lt_or_le z 0 with hneg | hpos
  · rw [← Int.add_emod_right, Int.emod_eq_of_lt (by omega) (by omega), if_pos (by omega)]
    omega
  · rw [Int.emod_eq_of_lt hpos (by omega), if_neg (by omega)]
    omega

/-! ### One lane of KEEL_ADD -/

/-- Where a lane is special the sum is special, and the class codes are ORed. -/
theorem addLane_of_special (h : (a.special j || b.special j) = true) :
    addLane w a b j = some (true, a.classCode j ||| b.classCode j) := by
  unfold addLane KBlock.classCode
  cases ha : a.special j <;> cases hb : b.special j
  case false.false => simp [ha, hb] at h
  all_goals simp

/-- Where no lane is special the integers are added, and the sum stays below 2^(w - 2). -/
theorem addLane_of_not_special (ha : a.special j = false) (hb : b.special j = false) : addLane w a b j =
    if 2 ^ (w - 2) ≤ (laneInt w (a.lane j) + laneInt w (b.lane j)).natAbs then none
    else some (false, laneOf w (laneInt w (a.lane j) + laneInt w (b.lane j))) := by
  simp [addLane, ha, hb]

theorem addLane_not_special_inv (ha : a.special j = false) (hb : b.special j = false) {p : Bool × Nat}
    (h : addLane w a b j = some p) : (laneInt w (a.lane j) + laneInt w (b.lane j)).natAbs < 2 ^ (w - 2) ∧
      p = (false, laneOf w (laneInt w (a.lane j) + laneInt w (b.lane j))) := by
  rw [addLane_of_not_special ha hb] at h
  split at h
  · contradiction
  next hlt => exact ⟨Nat.lt_of_not_le hlt, (Option.some.inj h).symm⟩

theorem addLane_fst {p : Bool × Nat} (h : addLane w a b j = some p) : p.1 = (a.special j || b.special j) := by
  cases hs : a.special j || b.special j
  case true =>
    rw [addLane_of_special hs] at h
    cases h
    rfl
  case false =>
    obtain ⟨ha, hb⟩ := Bool.or_eq_false_iff.1 hs
    obtain ⟨-, rfl⟩ := addLane_not_special_inv ha hb h
    rfl

theorem addLane_comm : addLane w a b j = addLane w b a j := by
  unfold addLane
  rw [Int.add_comm (laneInt w (a.lane j)), Nat.or_comm (a.lane j)]
  cases a.special j <;> cases b.special j <;> rfl

section
variable (hab : addLane w a b j = some (ab.special j, ab.lane j))
include hab

theorem laneInt_of_addLane (hw : 2 ≤ w) (ha : a.special j = false) (hb : b.special j = false) :
    laneInt w (ab.lane j) = laneInt w (a.lane j) + laneInt w (b.lane j) := by
  obtain ⟨hlt, hp⟩ := addLane_not_special_inv ha hb hab
  rw [(Prod.mk.inj hp).2, laneInt_laneOf hw hlt]

theorem classCode_of_addLane : ab.classCode j = a.classCode j ||| b.classCode j := by
  have hsp : ab.special j = (a.special j || b.special j) := addLane_fst hab
  cases hs : a.special j || b.special j
  case true =>
    rw [addLane_of_special hs] at hab
    simpa [KBlock.classCode, hsp, hs] using (Prod.mk.inj (Option.some.inj hab)).2.symm
  case false =>
    obtain ⟨ha, hb⟩ := Bool.or_eq_false_iff.1 hs
    simp [KBlock.classCode, hsp, ha, hb]

/-- Where no lane is special both bracketings add the same three integers; elsewhere both OR the same three class codes. -/
theorem addLane_assoc (hw : 2 ≤ w) (hbc : addLane w b c j = some (bc.special j, bc.lane j)) :
    addLane w ab c j = addLane w a bc j := by
  have habs : ab.special j = (a.special j || b.special j) := addLane_fst hab
  have hbcs : bc.special j = (b.special j || c.special j) := addLane_fst hbc
  cases hs : a.special j || b.special j || c.special j
  case true =>
    rw [addLane_of_special (by rw [habs, hs]), addLane_of_special (by rw [hbcs, ← Bool.or_assoc, hs]),
      classCode_of_addLane hab, classCode_of_addLane hbc, Nat.or_assoc]
  case false =>
    simp only [Bool.or_eq_false_iff] at hs
    obtain ⟨⟨ha, hb⟩, hc⟩ := hs
    rw [addLane_of_not_special (by simp [habs, ha, hb]) hc, addLane_of_not_special ha (by simp [hbcs, hb, hc]),
      laneInt_of_addLane hab hw ha hb, laneInt_of_addLane hbc hw hb hc, Int.add_assoc]
end

/-! ### Blocks -/

/-- The block that KEEL_ADD makes of two blocks where it accepts them. -/
def KBlock.sum (w : Nat) (a b : KBlock) : KBlock :=
  { exp := a.exp, mask := a.mask ||| b.mask, lanes := (List.range 32).map fun j => ((addLane w a b j).map Prod.snd).getD 0 }

theorem KBlock.add_eq_inr (h : KBlock.add w a b = .inr c) :
    a.exp = b.exp ∧ (∀ j < 32, (addLane w a b j).isSome) ∧ c = KBlock.sum w a b := by
  unfold KBlock.add at h
  split at h
  · contradiction
  next hok =>
    dsimp only at h
    split at h
    · contradiction
    next hsome =>
      cases h
      refine ⟨Decidable.not_not.1 fun hne => hok (.inl hne), ?_, ?_⟩
      · simpa [Option.isSome_iff_ne_none] using hsome
      · simp [KBlock.sum]

/-- Every lane of a sum is the sum of the lanes, with its special bit. -/
theorem addLane_of_add (h : KBlock.add w a b = .inr c) (hj : j < 32) : addLane w a b j = some (c.special j, c.lane j) := by
  obtain ⟨-, hsome, rfl⟩ := KBlock.add_eq_inr h
  obtain ⟨p, hp⟩ := Option.isSome_iff_exists.1 (hsome j hj)
  have hspecial : (KBlock.sum w a b).special j = p.1 := by
    simp [addLane_fst hp, KBlock.special_eq_testBit, KBlock.sum]
  have hlane : (KBlock.sum w a b).lane j = p.2 := by simp [KBlock.lane, KBlock.sum, hj, hp]
  rw [hp, hspecial, hlane]

theorem KBlock.add_comm (w : Nat) (a b : KBlock) : KBlock.add w a b = KBlock.add w b a := by
  have hlanes : addLane w a b = addLane w b a := funext fun _ => addLane_comm
  by_cases hexp : a.exp = b.exp
  · simp only [KBlock.add, hlanes, hexp, Nat.or_comm a.mask, or_comm (a := a.bad = true)]
  · simp [KBlock.add, hexp, Ne.symm hexp]

/-- The two bracketings of three blocks have the same block as their sum. -/
theorem KBlock.add_assoc (hw : 2 ≤ w) {x y : KBlock} (hab : KBlock.add w a b = .inr ab) (hbc : KBlock.add w b c = .inr bc)
    (hx : KBlock.add w ab c = .inr x) (hy : KBlock.add w a bc = .inr y) : x = y := by
  have hlanes : ∀ j ∈ List.range 32, addLane w ab c j = addLane w a bc j := fun j hj =>
    have hlt := List.mem_range.1 hj
    addLane_assoc (addLane_of_add hab hlt) hw (addLane_of_add hbc hlt)
  obtain ⟨-, -, rfl⟩ := KBlock.add_eq_inr hx
  obtain ⟨-, -, rfl⟩ := KBlock.add_eq_inr hy
  have hlist := List.map_congr_left fun j hj => congrArg (fun l => (l.map Prod.snd).getD 0) (hlanes j hj)
  obtain ⟨-, -, rfl⟩ := KBlock.add_eq_inr hab
  obtain ⟨-, -, rfl⟩ := KBlock.add_eq_inr hbc
  unfold KBlock.sum at hlist ⊢
  simp only [hlist, Nat.or_assoc]

/-- Settles O25: the lanes of a sum are sums of integers and ORs of class codes, which commute and associate. -/
theorem keelSumOrderFree : Obligations.KeelSumOrderFree := by
  intro w a b c ab bc x y hw
  have htwo : 2 ≤ w := by omega
  exact ⟨KBlock.add_comm w a b, KBlock.add_assoc htwo⟩

end Sys2Proof.Machine
end

section
/-! SUPPORT. The passes of a product: the weight registers that a tile loads, the products of a pass, and the sections of the passes as the
sections of K (R72, R74, R75, R81, R96, R103, R120). Settles O23. -/

set_option Elab.async false

namespace Sys2Proof.Machine

variable {s : State} {d : Desc} {g i j n t : Nat}

/-! ### Weight registers (R71, R72, R75, R81) -/

/-- Of writes under different keys each reads back. -/
theorem tget_foldl_tset {α : Type} [DecidableEq α] {e : α} {key : Nat → Nat} {val : Nat → α} {total x : Nat} (tbl : Tbl α)
    (hx : x < total) (hkey : ∀ y < total, key y = key x → y = x) :
    tget e (key x) ((List.range total).foldl (fun c y => tset e (key y) (val y) c) tbl) = val x := by
  induction total with
  | zero => exact absurd hx (Nat.not_lt_zero x)
  | succ y ih =>
    simp only [List.range_succ, List.foldl_append, List.foldl_cons, List.foldl_nil]
    rw [tget_tset]
    split
    next hxy => rw [hkey y (Nat.lt_succ_self y) hxy.symm]
    next hxy =>
      have hne : x ≠ y := fun h => hxy (congrArg key h)
      exact ih (by omega) fun z hz => hkey z (by omega)

theorem Desc.per_eq_one_or_two (d : Desc) : d.per = 1 ∨ d.per = 2 := by
  cases h : d.two <;> simp [Desc.per, h]

theorem geomW_pos (g : Nat) : 0 < geomW g := by
  unfold geomW
  split
  · decide
  · split <;> decide

theorem geomR_cases (g : Nat) : geomR g = 64 ∨ geomR g = 32 ∨ geomR g = 16 := by
  unfold geomR
  split
  · exact .inl rfl
  · split
    · exact .inr (.inl rfl)
    · exact .inr (.inr rfl)

theorem Desc.kPer_eq (d : Desc) (g : Nat) : d.kPer g = geomR g * d.per := rfl

/-- Two weights of a pass stand in different registers. Along rows this needs the 64 cells of a row to hold the pass, as Mid does. -/
theorem cellReg_inj {trans : Bool} {per t' c c' : Nat} (hper : per = 1 ∨ per = 2) (htrans : trans = true → g = 1)
    (ht : t < geomR g * per) (ht' : t' < geomR g * per) (h : cellReg g trans per t c = cellReg g trans per t' c') : t = t' ∧ c = c' := by
  cases trans with
  | true =>
    have hR : geomR g = 64 := by rw [htrans rfl]; rfl
    rw [hR] at ht ht'
    simp only [cellReg, if_true] at h
    rcases hper with rfl | rfl <;> omega
  | false =>
    simp only [cellReg, Bool.false_eq_true, if_false] at h
    rcases geomR_cases g with hR | hR | hR
    all_goals
      rw [hR] at ht ht' h
      rcases hper with rfl | rfl <;> omega

/-- The position of a row and a column in a table of `rows` rows of `w`. -/
theorem exists_pos_of_row_of_col {rows w c : Nat} (ht : t < rows) (hc : c < w) : ∃ x < rows * w, x / w = t ∧ x % w = c := by
  have hw : 0 < w := by omega
  have hle : w * t + w ≤ w * rows := Nat.mul_le_mul_left w ht
  exact ⟨c + w * t, by rw [Nat.mul_comm rows]; omega, (Nat.div_mod_unique hw).2 ⟨rfl, hc⟩⟩

/-- A weight register of a loaded tile holds the element of S that stands at its K index and column. -/
theorem State.loadCells_reg {c : Nat} (htrans : d.trans = true → g = 1) (ht : t < d.passK g n) (hc : c < d.tileCols g i) :
    tget 0 (cellReg g d.trans d.per t c) (s.loadCells d g n i) =
      s.rawElem d d.sFmt d.sAddr d.sScale (d.sPos (n * d.kPer g + t) (i * geomW g + c)) := by
  obtain ⟨x, hx, rfl, rfl⟩ := exists_pos_of_row_of_col ht hc
  refine tget_foldl_tset (key := fun x => cellReg g d.trans d.per (x / d.tileCols g i) (x % d.tileCols g i))
    (val := fun x => s.rawElem d d.sFmt d.sAddr d.sScale (d.sPos (n * d.kPer g + x / d.tileCols g i) (i * geomW g + x % d.tileCols g i)))
    [] hx fun y hy hreg => ?_
  have hinPass : ∀ r < d.passK g n, r < geomR g * d.per := fun r hr => (Nat.lt_min.1 hr).1
  have hrow : y / d.tileCols g i < d.passK g n := Nat.div_lt_of_lt_mul (by rw [Nat.mul_comm]; exact hy)
  obtain ⟨hdiv, hmod⟩ := cellReg_inj d.per_eq_one_or_two htrans (hinPass _ hrow) (hinPass _ ht) hreg
  rw [← Nat.div_add_mod y (d.tileCols g i), hdiv, hmod, Nat.div_add_mod]

/-! ### The products of a pass (R74, R85, R104) -/

theorem State.streamed_getD (ht : t < d.passK g n) :
    (s.streamed d g n i).getD t plusZero = elemVal d.aFmt (s.rawElem d d.aFmt d.aAddr d.aScale (i * d.aLd + (n * d.kPer g + t))) := by
  have hlt : t < d.kPer g := (Nat.lt_min.1 ht).1
  simp only [State.streamed, List.getD_eq_getElem?_getD, List.getElem?_map, List.getElem?_range hlt, Option.map_some,
    Option.getD_some, if_neg (Nat.not_le.2 ht), Nat.add_assoc]

theorem Desc.passK_eq (d : Desc) (g n : Nat) : d.passK g n = min (d.kPer g) (d.k - n * d.kPer g) := rfl

/-- A column stands in its tile. -/
theorem Desc.mod_lt_tileCols (hj : j < d.n) : j % geomW g < d.tileCols g (j / geomW g) := by
  have := Nat.div_add_mod' j (geomW g)
  exact Nat.lt_min.2 ⟨Nat.mod_lt _ (geomW_pos g), by omega⟩

/-- A K index of a pass that the tile and the row hold gives the product of that index of K, and +0 beyond K. -/
theorem State.passProduct_eq_product (htrans : d.trans = true → g = 1) (hj : j < d.n) (ht : t < d.kPer g) :
    passProduct d g n (s.streamed d g n i) (s.loadCells d g n (j / geomW g)) (j % geomW g) t = s.product d i j (n * d.kPer g + t) := by
  have hin : d.passK g n ≤ t ↔ d.k ≤ n * d.kPer g + t := by
    rw [Desc.passK_eq]
    omega
  unfold passProduct State.product
  simp only [hin]
  split
  · rfl
  next h =>
    have hK : t < d.passK g n := by omega
    rw [State.streamed_getD hK, State.loadCells_reg htrans hK (Desc.mod_lt_tileCols hj), Nat.div_add_mod']

/-! ### The sections of the passes (R96, R103) -/

/-- A run of `total` steps in blocks of `m`, the last one cut off, is the run. -/
theorem foldl_range_blocks {β : Type} (f : β → Nat → β) (m total n : Nat) (b : β) :
    (List.range n).foldl (fun b k => (List.range (min m (total - k * m))).foldl (fun b q => f b (k * m + q)) b) b =
      (List.range (min (n * m) total)).foldl f b := by
  induction n with
  | zero => simp
  | succ n ih =>
    have hsplit : min ((n + 1) * m) total = min (n * m) total + min m (total - n * m) := by
      rw [Nat.succ_mul]
      omega
    rw [List.range_succ, List.foldl_append, ih, hsplit, List.range_add, List.foldl_append, List.foldl_map]
    simp only [List.foldl_cons, List.foldl_nil]
    rcases Nat.le_total total (n * m) with hle | hle
    · simp only [Nat.sub_eq_zero_of_le hle, Nat.min_zero, List.range_zero, List.foldl_nil]
    · rw [Nat.min_eq_left hle]

theorem le_ceilDiv_mul (k : Nat) {m : Nat} (hm : 0 < m) : k ≤ ceilDiv k m * m := by
  have := Nat.lt_mul_div_succ (k + m - 1) hm
  rw [Nat.mul_succ, Nat.mul_comm] at this
  unfold ceilDiv
  omega

/-- A pass of every geometry is made of whole sections. -/
theorem Desc.kPer_eq_sections (d : Desc) (g : Nat) : ∃ m, 0 < m ∧ d.kPer g = m * 16 := by
  have hR : ∃ r, 0 < r ∧ geomR g = r * 16 := by
    rcases geomR_cases g with h | h | h
    · exact ⟨4, by decide, h⟩
    · exact ⟨2, by decide, h⟩
    · exact ⟨1, by decide, h⟩
  obtain ⟨r, hr, hrg⟩ := hR
  have hper : 0 < d.per := by have := d.per_eq_one_or_two; omega
  exact ⟨r * d.per, Nat.mul_pos hr hper, by rw [Desc.kPer_eq, hrg, Nat.mul_right_comm]⟩

/-- The passes have room for all sections of K. -/
theorem Desc.sections_le_passes {m : Nat} (hpos : 0 < m) (hm : d.kPer g = m * 16) : ceilDiv d.k 16 ≤ d.passes g * m := by
  have hK := le_ceilDiv_mul d.k (m := m * 16) (by omega)
  rw [← Nat.mul_assoc, ← hm] at hK
  unfold Desc.passes
  rw [ceilDiv, Nat.div_le_iff_le_mul_add_pred (by decide)]
  omega

/-- A pass forms m sections, or those that the passes before it leave of K. -/
theorem Desc.passSections_eq {m : Nat} (hm : d.kPer g = m * 16) : d.passSections g n = min m (ceilDiv d.k 16 - n * m) := by
  rw [Desc.passSections, Desc.passK_eq, hm, ← Nat.mul_assoc]
  unfold ceilDiv
  omega

/-- One step of the chain of an element: the section q of K is added to its pair (R103). -/
def State.chainStep (s : State) (d : Desc) (i j : Nat) (p : PairRec) (q : Nat) : PairRec :=
  p.combine (sectionSum ((List.range 16).map fun t => s.product d i j (16 * q + t)))

theorem State.chain_eq (p : PairRec) : s.chain d i j p = (List.range (ceilDiv d.k 16)).foldl (s.chainStep d i j) p := rfl

/-- Two folds whose steps agree on the elements of the list agree. -/
theorem foldl_congr_mem {β : Type} {f f' : β → Nat → β} {l : List Nat} (h : ∀ b, ∀ q ∈ l, f b q = f' b q) (b : β) :
    l.foldl f b = l.foldl f' b := by
  induction l generalizing b with
  | nil => rfl
  | cons q r ih =>
    rw [List.foldl_cons, List.foldl_cons, h b q List.mem_cons_self]
    exact ih (fun b x hx => h b x (List.mem_cons_of_mem q hx)) _

/-- A pass adds to the pair of an element the sections of K that follow those of the passes before it. -/
theorem State.passPair_eq_chainSteps {m : Nat} (hm : d.kPer g = m * 16) (htrans : d.trans = true → g = 1) (hj : j < d.n) (p : PairRec) :
    passPair d g n (s.streamed d g n i) (s.loadCells d g n (j / geomW g)) (j % geomW g) p =
      (List.range (min m (ceilDiv d.k 16 - n * m))).foldl (fun p q => s.chainStep d i j p (n * m + q)) p := by
  unfold passPair
  rw [Desc.passSections_eq hm]
  refine foldl_congr_mem (fun p q hq => ?_) p
  have hqm : q < m := (Nat.lt_min.1 (List.mem_range.1 hq)).1
  unfold State.chainStep
  congr 2
  refine List.map_congr_left fun t ht => ?_
  have ht16 := List.mem_range.1 ht
  rw [State.passProduct_eq_product htrans hj (by omega), hm]
  congr 1
  rw [← Nat.mul_assoc]
  omega

/-- Settles O23: each pass adds its own sections of K in order, and the passes together form all of them. -/
theorem passesFormTheChain : Obligations.PassesFormTheChain := by
  intro s d g i j p _ htrans hj
  obtain ⟨m, hpos, hm⟩ := d.kPer_eq_sections g
  simp only [State.passPair_eq_chainSteps hm htrans hj]
  rw [foldl_range_blocks, Nat.min_eq_right (Desc.sections_le_passes hpos hm), State.chain_eq]

end Sys2Proof.Machine
end

section
/-! SUPPORT. The end of an engine operation: waking the contexts that wait for the engine leaves every engine alone (R249, R251).
Settles O29. -/

set_option Elab.async false

namespace Sys2Proof.Machine

variable {s : State}

@[simp] theorem State.updThread_engines (tid : Nat) (f : Ctx → Ctx) : (s.updThread tid f).engines = s.engines := by
  unfold State.updThread
  dsimp only
  split
  · split <;> rfl
  · rfl

@[simp] theorem State.wakeCore_engines (k : Nat) : (s.wakeCore k).engines = s.engines := rfl

@[simp] theorem State.wake_engines (tid : Nat) (f : Ctx → Ctx) : (s.wake tid f).engines = s.engines := by
  simp [State.wake, apply_ite State.engines]

@[simp] theorem State.wakeEngine_engines (cls num : Nat) : (s.wakeEngine cls num).engines = s.engines :=
  List.foldlRecOn (motive := fun (t : State) => t.engines = s.engines) _ _ rfl fun _ ht _ _ => (State.wake_engines _ _).trans ht

/-- An engine whose entry has freed neither queues nor runs the descriptor (R249). -/
theorem State.freeEntry_forgets {cls num serial : Nat} {q : Engine} (hq : q ∈ (s.freeEntry cls num serial).engines) (hcls : q.cls = cls)
    (hnum : q.num = num) : (∀ x ∈ q.queue, x.serial ≠ serial) ∧ q.running ≠ some serial := by
  simp only [State.freeEntry, State.wakeEngine_engines, State.updEngine_engines, updWhere, List.mem_map] at hq
  obtain ⟨e, -, rfl⟩ := hq
  by_cases h : (e.cls == cls && e.num == num) = true
  · simp only [h, if_true]
    refine ⟨fun x hx => by simpa using (List.mem_filter.1 hx).2, ?_⟩
    split
    · nofun
    next hother => exact hother
  · simp only [h, Bool.false_eq_true, if_false] at hcls hnum
    simp [hcls, hnum] at h

/-- Settles O29: the record, the freed entry, the count and the fault are the steps of an operation's completion. -/
theorem completionReports : Obligations.CompletionReports := fun _ _ _ _ _ => ⟨rfl, fun _ => State.freeEntry_forgets⟩

end Sys2Proof.Machine
end

section
/-! SUPPORT. What `Runs` gives to a Tiller instruction: it issues whatever sources of it are named, and retires inside the code region
(R154 to R157, R189). -/

set_option Elab.async false

open Sys2Proof.Claim

namespace Sys2Proof.Machine

variable {s : State} {t : Thr} {c c' : Ctx} {rs rs' : List Reg} {ps : List Prd} {inX : Bool}

/-- Fewer sources await no more. -/
theorem Ctx.awaits_of_subset (hsub : rs' ⊆ rs) (h : c.awaits rs ps = false) : c.awaits rs' ps = false := by
  simp only [Ctx.awaits, List.any_eq_false] at h ⊢
  intro o ho
  specialize h o ho
  split at h
  case h_3 => exact h
  all_goals
    simp only [Bool.and_eq_true, List.contains_iff_mem] at h ⊢
    exact fun hr => h ⟨hr.1, hsub hr.2⟩

/-- An instruction whose sources are among those that have arrived issues (R154 to R157, R303). -/
theorem State.issue_of_runs {body : Ctx → State → State} (h : Runs s t c rs ps) (hsub : rs' ⊆ rs) (hx : inX = true ∨ c.xing = none) :
    s.issue t rs' ps inX body = body c (s.noteIssue t) := by
  obtain ⟨hready, harrived, hpc⟩ := h
  exact State.issue_runs hready (Ctx.awaits_of_subset hsub harrived) (by omega) hx

/-- Inside the code region it retires with its PC advanced (R189). -/
theorem State.retire_of_runs (h : Runs s t c rs ps) (hpc : c'.pc = c.pc) : (s.noteIssue t).retire t c' = retired s t c' :=
  State.retire_inside (by rw [hpc]; exact h.2.2)

end Sys2Proof.Machine
end

section
/-! SUPPORT. The counter instructions: each meets the counter that its registers name, and adds or compares (R159 to R162, R206). Settles
O9. -/

set_option Elab.async false

open Sys2Proof.Claim

namespace Sys2Proof.Machine

/-! ### Counters -/

@[simp] theorem State.ctr_noteIssue {s : State} {t : Thr} {pos id : Nat} : (s.noteIssue t).ctr pos id = s.ctr pos id := rfl
@[simp] theorem State.ctr_retired {s : State} {t : Thr} {c : Ctx} {pos id : Nat} : (retired s t c).ctr pos id = s.ctr pos id := rfl

/-- An addition without a carry is accepted (R160). -/
theorem State.addCtr_accepts {s : State} {pos id amt : Nat} (h : (s.ctr pos id).toNat + amt < 2 ^ 32) :
    s.addCtr pos id amt = (true, (s.addCtr pos id amt).2) := by
  refine Prod.ext ?_ rfl
  unfold State.addCtr
  rw [if_neg (Nat.not_le.2 h)]
  split <;> rfl

variable {s : State} {t : Thr} {c : Ctx} {ra rb : Reg} {imm : W16} {rs srcs : List Reg} {inX : Bool}

/-- A counter instruction runs with the id of a counter in the job's space (R206). -/
theorem ctrOp_of_runs {body : Ctx → Nat → State → State} (h : Runs s t c rs []) (hsub : ra :: srcs ⊆ rs)
    (hx : inX = true ∨ c.xing = none) (hid : ctrOk (s.posOf t.core) (c.ctrId ra imm) = true) :
    ctrOp t ra imm srcs inX body s = body c (c.ctrId ra imm) (s.noteIssue t) := by
  unfold ctrOp
  rw [State.issue_of_runs h hsub hx]
  exact if_pos hid

/-! ### WAIT, WAIT.TEST, READC, GIVE.C -/

section
variable (h : Runs s t c [ra, rb] []) (hid : ctrOk (s.posOf t.core) (c.ctrId ra imm) = true)
include h hid

theorem exec_waitTest (pd : Prd) : exec (.waitTest t pd ra rb imm) s =
    .next (retired s t (c.writePrd pd (decide (low32 (c.reg rb) ≤ (s.ctr (s.posOf t.core) (c.ctrId ra imm)).toNat)))) := by
  show execWaitTest t pd ra rb imm s = _
  rw [execWaitTest, ctrOp_of_runs h (List.Subset.refl _) (.inl rfl) hid]
  exact congrArg _ (State.retire_of_runs h rfl)

theorem exec_readc (rd : Reg) : exec (.readc t rd ra imm) s =
    .next (retired s t (later c (.reg rd) ((s.ctr (s.posOf t.core) (c.ctrId ra imm)).setWidth 64))) := by
  show execReadc t rd ra imm s = _
  rw [execReadc, ctrOp_of_runs h (by simp) (.inl rfl) hid]
  exact congrArg _ (State.retire_of_runs h rfl)

variable (hx : c.xing = none)
include hx

/-- A WAIT retires on a counter that has reached its threshold, and blocks on one that has not (R162). -/
theorem exec_wait : exec (.wait t ra rb imm) s =
    .next (if low32 (c.reg rb) ≤ (s.ctr (s.posOf t.core) (c.ctrId ra imm)).toNat then retired s t c
      else (s.noteIssue t).block t c .blockedCounter
        { WaitRec.idle with counter := c.ctrId ra imm, threshold := low32 (c.reg rb) }) := by
  show execWait t ra rb imm s = _
  rw [execWait, ctrOp_of_runs h (List.Subset.refl _) (.inr hx) hid, State.retire_of_runs h rfl]
  rfl

/-- A GIVE.C without a carry adds once the thread's stores are performed, and then asks for publications (R160, R205, R508). -/
theorem exec_giveC (hdone : s.storesDone c.tid = true)
    (hcarry : (s.ctr (s.posOf t.core) (c.ctrId ra imm)).toNat + low32 (c.reg rb) < 2 ^ 32) :
    exec (.giveC t ra rb imm) s =
      .next (((retired s t c).addCtr (s.posOf t.core) (c.ctrId ra imm) (low32 (c.reg rb))).2.markPub (s.posOf t.core) (c.ctrId ra imm)
        (s.ctr (s.posOf t.core) (c.ctrId ra imm)).toNat (low32 (c.reg rb))) := by
  have hdone' : (s.noteIssue t).storesDone c.tid = true := hdone
  show execGiveC t ra rb imm s = _
  rw [execGiveC, ctrOp_of_runs h (List.Subset.refl _) (.inr hx) hid]
  simp only [hdone', Bool.not_true, Bool.false_eq_true, if_false, State.retire_of_runs h, State.posOf_noteIssue]
  rw [State.addCtr_accepts (s := retired s t c) hcarry]
  rfl

end

/-- Settles O9, instruction by instruction. -/
theorem counterInstructions : Obligations.CounterInstructions := by
  intro s t c ra rb imm h pos id now low hid
  refine ⟨exec_waitTest h hid, exec_readc h hid, fun hx => ⟨fun hreached => ?_, fun hbelow => ?_, exec_giveC h hid hx⟩⟩
  · rw [exec_wait h hid hx]
    exact congrArg _ (if_pos hreached)
  · rw [exec_wait h hid hx]
    exact congrArg _ (if_neg (Nat.not_le.2 hbelow))

end Sys2Proof.Machine
end

section
/-! SUPPORT. The engine port: its arbitration, ISSUE and the prefetch lane (R158, R174 to R177, R203 to R205). Settles O15 and O16. -/

set_option Elab.async false

open Sys2Proof.Claim

namespace Sys2Proof.Machine

/-! ### The order of the requesters (R158) -/

/-- The requester that comes `i` places behind the first in turn, after an acceptance of `last`. -/
def portAt (last i : Nat) : Nat := (last + 1 + i) % 5

/-- The places between a requester and the first in turn. -/
def portTurn (last q : Nat) : Nat := (q + 4 - last) % 5

section
variable {last i q : Nat} (hlast : last < 5)
include hlast

theorem portTurn_portAt (hi : i < 5) : portTurn last (portAt last i) = i := by
  unfold portTurn portAt
  omega

theorem portAt_portTurn (hq : q < 5) : portAt last (portTurn last q) = q := by
  unfold portTurn portAt
  omega

end

theorem portTurn_lt (last q : Nat) : portTurn last q < 5 := Nat.mod_lt _ (by decide)

/-- A requester reaches the port in this cycle: it asks, or it is a rival with a descriptor to present. -/
def State.reachesPort (s : State) (core me : Nat) (rivals : List Nat) (q : Nat) : Bool :=
  q == me || (rivals.contains q && s.mayPresent core q)

section
variable {s : State} {core me : Nat} {rivals : List Nat}

theorem State.reachesPort_iff {q : Nat} :
    s.reachesPort core me rivals q = true ↔ q = me ∨ q ∈ rivals ∧ s.mayPresent core q = true := by
  simp [State.reachesPort]

/-- The winner stands at the first place in turn whose requester reaches the port. -/
theorem State.portWinner_place (hme : me < 5) (hlast : (s.core core).portLast < 5) :
    ∃ i < 5, s.portWinner core me rivals = portAt (s.core core).portLast i ∧
      s.reachesPort core me rivals (portAt (s.core core).portLast i) = true ∧
      ∀ j < i, s.reachesPort core me rivals (portAt (s.core core).portLast j) = false := by
  have hwin : s.portWinner core me rivals =
      (((List.range 5).find? (s.reachesPort core me rivals ∘ portAt (s.core core).portLast)).map (portAt (s.core core).portLast)).getD me :=
    congrArg (·.getD me) List.find?_map
  cases hfind : (List.range 5).find? (s.reachesPort core me rivals ∘ portAt (s.core core).portLast) with
  | none =>
    have hmine := List.find?_eq_none.1 hfind _ (List.mem_range.2 (portTurn_lt (s.core core).portLast me))
    simp [portAt_portTurn hlast hme, State.reachesPort] at hmine
  | some i =>
    obtain ⟨hreach, hi, hbefore⟩ := List.find?_range_eq_some.1 hfind
    rw [hfind] at hwin
    exact ⟨i, List.mem_range.1 hi, hwin, hreach, fun j hj => by simpa using hbefore j hj⟩

/-- The winner reaches the port. -/
theorem State.portWinner_reaches (hme : me < 5) (hlast : (s.core core).portLast < 5) :
    s.reachesPort core me rivals (s.portWinner core me rivals) = true := by
  obtain ⟨i, -, hwin, hreach, -⟩ := s.portWinner_place hme hlast
  rwa [hwin]

/-- No requester that reaches the port comes before the winner. -/
theorem State.portWinner_first (hme : me < 5) (hlast : (s.core core).portLast < 5) {q : Nat} (hq : q < 5)
    (hreach : s.reachesPort core me rivals q = true) :
    portTurn (s.core core).portLast (s.portWinner core me rivals) ≤ portTurn (s.core core).portLast q := by
  obtain ⟨i, hi, hwin, -, hbefore⟩ := s.portWinner_place (rivals := rivals) hme hlast
  rw [hwin, portTurn_portAt hlast hi]
  refine Nat.not_lt.1 fun hlt => ?_
  have hnot := hbefore _ hlt
  rw [portAt_portTurn hlast hq, hreach] at hnot
  contradiction

end

/-! ### ISSUE -/

section
variable {s v : State} {t : Thr} {c : Ctx} {rs : List Reg} {p : PortIn} {ra : IssueRa} {imm : Imm}

/-- An ISSUE that wins the arbitration runs. -/
theorem State.issueAt_wins {body : Ctx → State → State} (h : Runs s t c rs []) (hx : c.xing = none)
    (hwin : s.portWinner t.core (t.berth % 4) p.rivals = t.berth % 4) : s.issueAt t rs p body = body c (s.noteIssue t) := by
  unfold State.issueAt
  simp only [h.1, hwin, bne_self_eq_false, Bool.and_false, Bool.false_eq_true, if_false]
  exact State.issue_of_runs h (List.Subset.refl _) (.inr hx)

/-- The berth's ISSUE is kept for its pipeline to present again. -/
def State.keptAtPort (s : State) (t : Thr) : State :=
  s.updCore t.core fun k => { k with atPort := tset 0 (t.berth % 4) (t.berth + 1) k.atPort }

/-- An ISSUE that loses the arbitration is kept. -/
theorem State.issueAt_loses {body : Ctx → State → State} (h : Runs s t c rs [])
    (hlose : s.portWinner t.core (t.berth % 4) p.rivals ≠ t.berth % 4) : s.issueAt t rs p body = s.keptAtPort t := by
  unfold State.issueAt
  simp [h.1, h.2.1, hlose, State.keptAtPort]

/-- A descriptor that the port accepts retires its ISSUE (R158, R205). -/
theorem State.issueDesc_accepted {raw : List Byte} {fs : Finds} (hdone : s.storesDone c.tid = true)
    (hok : s.offer t.core (.thread c.tid t.berth c.pc) c.stream.toNat (patch raw 2 [c.group]) fs = .ok v) :
    s.issueDesc t c raw fs = (v.updCore t.core fun k => { k with portLast := t.berth % 4 }).retire t c := by
  simp [State.issueDesc, hdone, hok]

/-- The eight registers of ISSUE.R. -/
def issueRegs (ra : Reg) : List Reg := (List.range 8).map fun i => ra + BitVec.ofNat 6 i

/-- A group of eight registers starts at a multiple of 8 other than g0 (R203). -/
theorem execIssueR_of_aligned (ha : ra.ra.toNat % 8 = 0) (hnz : ra.ra ≠ 0) :
    execIssueR t ra s = .next (s.issueAt t (issueRegs ra.ra) ra.port fun c s =>
      s.issueDesc t c ((issueRegs ra.ra).flatMap fun r => leBytes 8 (c.reg r).toNat) ra.port.finds) := by
  have hpos : ra.ra.toNat ≠ 0 := fun h0 => hnz (BitVec.eq_of_toNat_eq h0)
  have hge : 8 ≤ ra.ra.toNat := by omega
  simp [execIssueR, ha, hge, issueRegs]

/-- The word index of a class 0x4 address is the address itself, where it is one (R195, R203). -/
theorem Ctx.byteAddr_of_wordIndex {r : Reg} {i : Nat} (h : c.wordIndex r imm = some i) : c.byteAddr r imm = i := by
  unfold Ctx.wordIndex at h
  unfold Ctx.byteAddr
  generalize c.reg r + imm.signExtend 64 = a at h
  dsimp only at h
  split at h
  next hin =>
    cases h
    have := a.isLt
    rw [BitVec.toInt_eq_toNat_cond] at hin ⊢
    split at hin <;> omega
  · contradiction

section
variable (hlose : s.portWinner t.core (t.berth % 4) ra.port.rivals ≠ t.berth % 4)
include hlose

theorem exec_issueR_kept (ha : ra.ra.toNat % 8 = 0) (hnz : ra.ra ≠ 0) (h : Runs s t c (issueRegs ra.ra) []) :
    exec (.issueR t ra) s = .next (s.keptAtPort t) := by
  show execIssueR t ra s = _
  rw [execIssueR_of_aligned ha hnz, State.issueAt_loses h hlose]

theorem exec_issueM_kept (h : Runs s t c [ra.ra] []) : exec (.issueM t ra imm) s = .next (s.keptAtPort t) := by
  show execIssueM t ra imm s = _
  rw [execIssueM, State.issueAt_loses h hlose]

end

variable (hx : c.xing = none) (hdone : s.storesDone c.tid = true)
  (hwin : s.portWinner t.core (t.berth % 4) ra.port.rivals = t.berth % 4)
include hx hwin hdone

theorem exec_issueR_accepted (ha : ra.ra.toNat % 8 = 0) (hnz : ra.ra ≠ 0) (h : Runs s t c (issueRegs ra.ra) [])
    (hok : (s.noteIssue t).offer t.core (.thread c.tid t.berth c.pc) c.stream.toNat
      (patch ((issueRegs ra.ra).flatMap fun r => leBytes 8 (c.reg r).toNat) 2 [c.group]) ra.port.finds = .ok v) :
    exec (.issueR t ra) s = .next ((v.updCore t.core fun k => { k with portLast := t.berth % 4 }).retire t c) := by
  show execIssueR t ra s = _
  have hdone' : (s.noteIssue t).storesDone c.tid = true := hdone
  rw [execIssueR_of_aligned ha hnz, State.issueAt_wins h hx hwin, State.issueDesc_accepted hdone' hok]

theorem exec_issueM_accepted {i : Nat} {u : State} (h : Runs s t c [ra.ra] []) (hi : c.wordIndex ra.ra imm = some i) (halign : i % 16 = 0)
    (hown : i / 2 ^ 20 = t.core)
    (hread : (s.noteIssue t).readSees (s.posOf t.core) [(wordAddr i, 64)] ra.port.finds = (true, u)) (hdone' : u.storesDone c.tid = true)
    (hok : u.offer t.core (.thread c.tid t.berth c.pc) c.stream.toNat (patch (rdBytes u.ms.mem (wordAddr i) 64) 2 [c.group])
      ra.port.finds = .ok v) :
    exec (.issueM t ra imm) s = .next ((v.updCore t.core fun k => { k with portLast := t.berth % 4 }).retire t c) := by
  have hissue : (s.noteIssue t).storesDone c.tid = true := hdone
  show execIssueM t ra imm s = _
  rw [execIssueM, State.issueAt_wins h hx hwin]
  simp only [Ctx.byteAddr_of_wordIndex hi, halign, hi, hown, hissue, State.posOf_noteIssue, hread, State.issueDesc_accepted hdone' hok,
    ne_eq, not_true_eq_false, if_false, Bool.not_true, Bool.false_eq_true]

end

/-- Settles O15: the descriptor of either form reaches the port with the thread's GROUP in byte 2. -/
theorem issueHandsOver : Obligations.IssueHandsOver := by
  intro s v t c ra hx hdone hwin given done
  refine ⟨fun h ha hnz hok => exec_issueR_accepted hx hdone hwin ha hnz h hok, ?_⟩
  intro imm i h hi halign hown read hread hdone' hok
  exact exec_issueM_accepted hx hdone hwin h hi halign hown (Prod.ext hread rfl) hdone' hok

/-! ### The lane (R174 to R177) -/

/-- A lane descriptor that is not held, wins the port and is accepted advances HEAD_CTR. -/
theorem exec_prefetchLaneIssue_accepted {s u v : State} {lane : LaneAt} {l : CoreDecl} {pos a : Nat} {rs : List Run}
    (hpos : s.posOf lane.core = pos) (hjob : (s.job pos).st = .running) (hpower : (s.core lane.core).power = .run)
    (hnext : s.laneNext lane.core = some (l, a)) (hspan : s.spanOf pos a 64 false = .runs rs)
    (hheld : s.laneHeld lane.core (s.readJob pos a 64) = false) (hwin : s.portWinner lane.core 4 lane.port.rivals = 4)
    (hread : s.readSees pos [(a, 64)] lane.port.finds = (true, u))
    (hok : u.offer lane.core (.lane (s.ctr pos l.headCtr).toNat) l.laneStream.toNat (u.readJob pos a 64) lane.port.finds = .ok v) :
    exec (.prefetchLaneIssue lane) s =
      .next ((v.updCore lane.core fun k => { k with portLast := 4, idle := 0 }).bumpCtr pos l.headCtr) := by
  show execPrefetchLaneIssue lane s = _
  simp [execPrefetchLaneIssue, hpos, hjob, hpower, hnext, hspan, hheld, hwin, hread, hok]

theorem laneHandsOver_holds : laneHandsOver := by
  intro s v lane l a rs core pos raw hjob hpower hnext hspan hheld hwin read hread hok
  exact exec_prefetchLaneIssue_accepted rfl hjob hpower hnext hspan hheld hwin (Prod.ext hread rfl) hok

theorem portTakesTurns_holds : portTakesTurns := by
  refine ⟨fun s core me rivals hme hlast => ⟨State.reachesPort_iff.1 (State.portWinner_reaches hme hlast), fun q hq hreach => ?_⟩,
    fun s t c ra hlose => ⟨fun ha hnz h => exec_issueR_kept hlose ha hnz h, fun imm h => exec_issueM_kept hlose h⟩⟩
  exact State.portWinner_first hme hlast hq (State.reachesPort_iff.2 hreach)

/-- Settles O16: the lane by its command, the port's turns by the place of its winner. -/
theorem laneIssues : Obligations.LaneIssues := ⟨laneHandsOver_holds, portTakesTurns_holds⟩

end Sys2Proof.Machine
end

section
/-! SUPPORT. LOAD_RETURN: what comes on the load return path, by what the result is made of (R157, R197, R199, R209, R218, R296). Settles
O6. -/

set_option Elab.async false

namespace Sys2Proof.Machine

variable {s : State} {t : Thr} {c : Ctx} {n va size pa : Nat} {signed : Bool} {o : Outst} {pg : Option (Nat × Pte)}

/-! ### A pool frame's reference bit (R334) -/

/-- A touch sets reference bits and nothing else. -/
theorem State.touch_eq_updMs (s : State) (pg : Option (Nat × Pte)) : ∃ l, s.touch pg = s.updMs fun m => { m with refBits := l } := by
  unfold State.touch
  split
  · split
    · exact ⟨_, rfl⟩
    · exact ⟨s.ms.refBits, rfl⟩
  · exact ⟨s.ms.refBits, rfl⟩

@[simp] theorem State.touch_mem : (s.touch pg).ms.mem = s.ms.mem := by
  obtain ⟨l, h⟩ := s.touch_eq_updMs pg
  rw [h]
  rfl

@[simp] theorem State.touch_poisoned : (s.touch pg).ms.poisoned pa n = s.ms.poisoned pa n := by
  obtain ⟨l, h⟩ := s.touch_eq_updMs pg
  rw [h]
  rfl

@[simp] theorem State.touch_covered : (s.touch pg).covered c va n = s.covered c va n := by
  obtain ⟨l, h⟩ := s.touch_eq_updMs pg
  rw [h]
  rfl

@[simp] theorem State.touch_overlay {inX : Bool} {bs : List Byte} : (s.touch pg).overlay c inX va bs = s.overlay c inX va bs := by
  obtain ⟨l, h⟩ := s.touch_eq_updMs pg
  rw [h]
  rfl

/-- A read that finds no error answers whether the bytes were poisoned before, and changes nothing (R236, R319). -/
theorem State.checkRead_clean (s : State) (pa n : Nat) : s.checkRead pa n .clean = (!s.ms.poisoned pa n, s) := rfl

/-! ### LOAD_RETURN -/

section
variable (hctx : s.ctxIn t = some c) (ho : c.out[n]? = some o)
include hctx ho

theorem exec_loadReturn_value {v : W64} {ecc : Ecc} (hsrc : o.src = .value v) :
    exec (.loadReturn t n ecc) s = .next (s.setCtxIn t (c.deliver o v)) := by
  show execLoadReturn t n ecc s = _
  simp only [execLoadReturn, hctx, ho, hsrc]

theorem exec_loadReturn_tok {i : Nat} {v : W32} (hsrc : o.src = .tok i v) :
    exec (.loadReturn t n .clean) s = .next (s.setCtxIn t (c.deliver o (v.setWidth 64))) := by
  show execLoadReturn t n .clean s = _
  simp only [execLoadReturn, hctx, ho, hsrc, State.checkRead_clean, reduceCtorEq, if_false]

variable (hsrc : o.src = .load va size signed) (hxlate : s.xlate (s.posOf t.core) va false = .phys pa pg)
  (hland : s.rangeLanding pa size = false)
include hsrc hxlate hland

/-- A load is performed when it returns: over poisoned bytes only where the thread's own stores cover all of them. -/
theorem exec_loadReturn_load : exec (.loadReturn t n .clean) s = .next (
    if s.ms.poisoned pa size = true ∧ s.covered c va size = false then (s.touch pg).threadFault c.tid o.pc E.uncorrectable
    else (s.touch pg).setCtxIn t (c.deliver o (extend size signed (leNat (s.overlay c o.inXing va (rdBytes s.ms.mem pa size)))))) := by
  show execLoadReturn t n .clean s = _
  simp [execLoadReturn, hctx, ho, hsrc, hxlate, hland, State.checkRead_clean]

end

/-- Settles O6, by what the result is made of. -/
theorem loadReturns : Obligations.LoadReturns := by
  intro s t c n o hctx ho
  refine ⟨fun v ecc => exec_loadReturn_value hctx ho, fun va size signed pa pg hsrc hxlate hland => ⟨fun hclean => ?_, fun hbad hcov => ?_⟩,
    fun i v => exec_loadReturn_tok hctx ho⟩
  · rw [exec_loadReturn_load hctx ho hsrc hxlate hland, if_neg (by simp [hclean])]
  · rw [exec_loadReturn_load hctx ho hsrc hxlate hland, if_pos ⟨hbad, hcov⟩]

end Sys2Proof.Machine
end

section
/-! SUPPORT. Swapping contexts: swap records are read and written without touching the configuration, and each command under the conditions
of its rule (R166 to R173, R585). Settles O32. -/

set_option Elab.async false

open Sys2Proof.Claim

namespace Sys2Proof.Machine

/-! ### Swap records leave the configuration alone (R168) -/

section
variable (s : State)

theorem State.cfg_foldl {β : Type} {f : State → β → State} (hf : ∀ s b, (f s b).cfg = s.cfg) (l : List β) :
    (l.foldl f s).cfg = s.cfg :=
  List.foldlRecOn (motive := fun (t : State) => t.cfg = s.cfg) l f rfl fun t ht b _ => (hf t b).trans ht

@[simp] theorem State.count_cfg (o : Nat) : (s.count o).cfg = s.cfg := rfl
@[simp] theorem State.setInput_cfg (n : Nat) (b : Bool) : (s.setInput n b).cfg = s.cfg := rfl
@[simp] theorem State.fire_cfg (n : Nat) : (s.fire n).cfg = s.cfg := by
  simp only [State.fire, apply_ite State.cfg, ite_self]

@[simp] theorem State.updThread_cfg (tid : Nat) (f : Ctx → Ctx) : (s.updThread tid f).cfg = s.cfg := by
  unfold State.updThread
  dsimp only
  split
  · split <;> rfl
  · rfl

@[simp] theorem State.abortXing_cfg (k : Nat) (c : Code) : (s.abortXing k c).cfg = s.cfg := by
  unfold State.abortXing
  split
  · rfl
  · dsimp only
    split <;> simp [apply_ite State.cfg]

@[simp] theorem State.conflictRange_cfg (pa n : Nat) : (s.conflictRange pa n).cfg = s.cfg :=
  s.cfg_foldl (fun s k => s.abortXing_cfg k _) _

@[simp] theorem State.spanGuard_cfg (pa n : Nat) : (s.spanGuard pa n).cfg = s.cfg := by
  unfold State.spanGuard
  split
  · rfl
  · exact s.cfg_foldl (fun s p => s.updEngine_cfg 1 p _) _

@[simp] theorem State.poke_cfg (pa : Nat) (bs : List Byte) : (s.poke pa bs).cfg = s.cfg := by simp [State.poke]

@[simp] theorem State.putRecord_cfg (tid off : Nat) (bs : List Byte) : (s.putRecord tid off bs).cfg = s.cfg := by
  unfold State.putRecord
  split
  · rfl
  · exact s.cfg_foldl (fun s r => s.poke_cfg _ _) _

@[simp] theorem State.markRow_cfg (row : Nat) : (s.markRow row).cfg = s.cfg := by
  simp only [State.markRow, apply_ite State.cfg, ite_self]

@[simp] theorem State.tallyRow_cfg (row word : Nat) : (s.tallyRow row word).cfg = s.cfg := by
  simp [State.tallyRow, apply_ite State.cfg]

@[simp] theorem State.checkRead_cfg (pa n : Nat) (ecc : Ecc) : (s.checkRead pa n ecc).2.cfg = s.cfg := by
  cases ecc
  case clean => rfl
  all_goals simp [State.checkRead, apply_ite State.cfg]

@[simp] theorem State.readRecord_cfg (tid : Nat) (ecc : Ecc) : (s.readRecord tid ecc).2.cfg = s.cfg := by
  unfold State.readRecord
  split
  · rfl
  next r rs _ => exact s.checkRead_cfg r.pa r.n ecc

end

/-! ### Swap-in (R170, R171, R173) -/

section
variable {s u : State} {core b tid since : Nat} {rest : List (Nat × Nat)} {c : Ctx} {ecc : Ecc}

/-- A context is on its way into the berth. -/
def Berth.filling : Berth → Bool
  | .swappingIn _ => true
  | _ => false

theorem Core.not_any_filling {k : Core} (h : ∀ e ∈ k.berths, ∀ t, e.2 ≠ .swappingIn t) :
    (k.berths.any fun e => e.2.filling) = false := by
  rw [List.any_eq_false]
  rintro ⟨a, x⟩ he
  cases x
  case swappingIn tid => exact absurd rfl (h _ he tid)
  all_goals exact Bool.false_ne_true

/-- The front of the swap queue takes a FREE berth, or a BALLAST berth for which an eviction is owed. -/
def State.beginSwapIn (s : State) (core : Nat) : State :=
  let k := s.core core
  match k.swapQueue with
  | [] => s
  | (tid, _) :: rest => match k.freeBerth with
    | some b => s.setCore core { k.setBerth b (.swappingIn tid) with swapQueue := rest }
    | none => match k.ballastBerth with
      | some b => s.setCore core { k.setBerth b (.swappingIn tid) with swapQueue := rest, evictOwed := k.evictOwed + 1 }
      | none => s

section
variable (hswaps : swaps s core) (hnone : ∀ e ∈ (s.core core).berths, ∀ t, e.2 ≠ .swappingIn t)
include hswaps hnone

/-- Where the core may swap and no swap-in is under way, the next begins (R171). -/
theorem exec_swapIn : exec (.swapIn core) s = .next (s.beginSwapIn core) := by
  show execSwapIn core s = _
  unfold execSwapIn State.beginSwapIn
  dsimp only
  refine congrArg Host.Outcome.next ((if_neg ?_).trans ?_)
  · rw [hswaps.1, hswaps.2]
    exact ne_true_of_eq_false (Core.not_any_filling hnone)
  · generalize (s.core core).freeBerth = free, (s.core core).ballastBerth = ballast
    rfl

variable (hqueue : (s.core core).swapQueue = (tid, since) :: rest)
include hqueue

theorem exec_swapIn_free (hfree : (s.core core).freeBerth = some b) :
    exec (.swapIn core) s = .next (s.setCore core { (s.core core).setBerth b (.swappingIn tid) with swapQueue := rest }) := by
  simp only [exec_swapIn hswaps hnone, State.beginSwapIn, hqueue, hfree]

theorem exec_swapIn_ballast (hfree : (s.core core).freeBerth = none) (hballast : (s.core core).ballastBerth = some b) :
    exec (.swapIn core) s = .next (s.setCore core
      { (s.core core).setBerth b (.swappingIn tid) with swapQueue := rest, evictOwed := (s.core core).evictOwed + 1 }) := by
  simp only [exec_swapIn hswaps hnone, State.beginSwapIn, hqueue, hfree, hballast]

end

section
variable (hberth : (s.core core).berth b = .swappingIn tid)
include hberth

/-- The context whose record has been read stands in its berth, and the record is invalid (R167, R173). -/
theorem exec_swapInComplete (hread : s.readRecord tid ecc = (true, u)) (hrecord : u.record tid = some c) :
    exec (.swapInComplete core b ecc) s = .next (((u.updCore core fun k =>
      { k.setBerth b (.resident { c with since := u.aoc }) with idle := 0 }).updJob (s.posOf core) fun j =>
        { j with swap := tset SwapRec.empty tid SwapRec.empty j.swap }).putRecord tid 516 [0]) := by
  have hpos : u.posOf core = s.posOf core := State.posOf_congr (by simpa [hread] using s.readRecord_cfg tid ecc)
  show execSwapInComplete core b ecc s = _
  simp only [execSwapInComplete, hberth, hread, hrecord]
  rw [← hpos]
  rfl

/-- A record with an uncorrectable granule loses law 5 (R585). -/
theorem exec_swapInComplete_lost (hread : s.readRecord tid ecc = (false, u)) :
    exec (.swapInComplete core b ecc) s = .next (u.lostLaw 5 core core) := by
  show execSwapInComplete core b ecc s = _
  simp only [execSwapInComplete, hberth, hread]
  rfl

end

/-! ### Eviction and rotation (R167, R169, R170, R172) -/

theorem exec_eviction (hswaps : swaps s core) (howed : 0 < (s.core core).evictOwed)
    (hlongest : minBy (fun x : Nat × Ctx => x.2.wait.blockedAt) ((s.core core).residents fun c => c.status.blocked && c.movable) =
      some (b, c)) :
    exec (.eviction core) s = .next (s.setCore core ((s.core core).swapOut b c)) := by
  have howes : ((s.core core).evictOwed == 0) = false := beq_eq_false_iff_ne.2 (by omega)
  show execEviction core s = _
  simp only [execEviction, hswaps.1, hswaps.2, howes, hlongest]
  rfl

/-- A context to which nothing is on its way stands in its record; one that has not woken does not join the swap queue. -/
theorem exec_evictionComplete (hberth : (s.core core).berth b = .swappingOut c) (hout : c.out = []) (hstatus : c.status ≠ .runnable) :
    exec (.evictionComplete core b) s = .next (((s.putRecord c.tid 0 c.recordBytes).updCore core fun k =>
      { k.setBerth b (if k.ballastCount < 16 then .ballast else .free) with rotating := k.rotating.filter fun x => x != b }).updJob
        (s.posOf core) fun j => { j with swap := tset SwapRec.empty c.tid { valid := true, ctx := some c } j.swap }) := by
  have hpos : (s.putRecord c.tid 0 c.recordBytes).posOf core = s.posOf core := State.posOf_congr (State.putRecord_cfg ..)
  show execEvictionComplete core b s = _
  simp only [execEvictionComplete, hberth, hout, hstatus]
  rw [← hpos]
  rfl

theorem exec_rotation (hswaps : swaps s core) (hdue : (s.core core).rotating.length < s.overdue core)
    (hfree : (s.core core).freeBerth = none) (hballast : (s.core core).ballastBerth = none)
    (hlongest : minBy (fun x : Nat × Ctx => x.2.since) ((s.core core).residents fun c => s.ctxReady core c && c.movable) =
      some (b, c)) :
    exec (.rotation core) s =
      .next (s.setCore core { (s.core core).swapOut b c with rotating := (s.core core).rotating ++ [b] }) := by
  show execRotation core s = _
  simp [execRotation, hswaps.1, hswaps.2, Nat.not_le.2 hdue, hfree, hballast, hlongest]

end

/-- Settles O32, command by command. -/
theorem contextsSwap : Obligations.ContextsSwap :=
  fun _ _ _ _ => ⟨fun _ _ _ hswaps hnone hqueue => ⟨exec_swapIn_free hswaps hnone hqueue, exec_swapIn_ballast hswaps hnone hqueue⟩,
    fun _ _ _ => exec_swapInComplete, fun _ _ _ => exec_swapInComplete_lost, exec_eviction, exec_evictionComplete, exec_rotation⟩

end Sys2Proof.Machine
end

section
/-! SUPPORT. The phases of a restore, the stall limit, and the two commands that end a job (R182, R286, R373 to R375, R382). Settles O39. -/

set_option Elab.async false

namespace Sys2Proof.Machine

variable {s u : State} {pos : Nat}

/-! ### Restore (R374, R375) -/

section
variable {reads : List (Nat × PageRead)} {x : Stored} (hlive : s.live = true) (hx : s.stored s.restore.half = x)
include hlive hx

section
variable (hphase : s.restore.phase = .loading)
include hphase

/-- The pages of a stored mooring go to the staging slots. -/
def State.stagePages (s : State) (x : Stored) : State :=
  x.pages.foldl (fun (s : State) p => s.copyPage (x.base + p.2) p.1.slot (pageSize p.1.large)) s

/-- Pages that all came are staged, and their digests decide. -/
theorem exec_restoreLoadVerify_read {v : State} (hread : s.readPages (x.flashPages.map fun p => (p, p)) reads = (true, u))
    (hstaged : u.stagePages x = v) :
    exec (.restoreLoadVerify reads) s = .next (if x.verified v.ms.mem then { v with restore := { v.restore with phase := .comparing } }
      else v.restoreFails E.uncorrectable) := by
  show execRestoreLoadVerify reads s = _
  have hrun : (!s.live || s.restore.phase != .loading) = false := by simp [hlive, hphase]
  unfold State.stagePages at hstaged
  simp only [execRestoreLoadVerify, hrun, hx, hread, hstaged, Bool.false_eq_true, if_false]

/-- A page that does not come ends the restore. -/
theorem exec_restoreLoadVerify_lost (hread : s.readPages (x.flashPages.map fun p => (p, p)) reads = (false, u)) :
    exec (.restoreLoadVerify reads) s = .next (u.restoreFails E.uncorrectable) := by
  show execRestoreLoadVerify reads s = _
  simp [execRestoreLoadVerify, hlive, hphase, hx, hread]

end

section
variable {ecc : Ecc} (hphase : s.restore.phase = .comparing)
include hphase

theorem exec_restoreCompare_differs {d : List Byte} (hd : d ≠ manifestDigest x.record) :
    exec (.restoreCompare (.digest d) ecc) s = .next (s.restoreFails E.digestMismatch) := by
  show execRestoreCompare (.digest d) ecc s = _
  simp [execRestoreCompare, hlive, hphase, hx, hd]

/-- The restore is applied where the replica agrees and no staged page is poisoned. -/
theorem exec_restoreCompare_agrees (hclean : ∀ p ∈ x.pages, s.ms.poisoned p.1.slot (pageSize p.1.large) = false) :
    exec (.restoreCompare (.digest (manifestDigest x.record)) .clean) s = .next (s.applyRestore x) := by
  have hnone : (x.pages.any fun p => s.ms.poisoned p.1.slot (pageSize p.1.large)) = false :=
    List.any_eq_false.2 fun p hp => ne_true_of_eq_false (hclean p hp)
  show execRestoreCompare (.digest (manifestDigest x.record)) .clean s = _
  simp [execRestoreCompare, hlive, hphase, hx, hnone]

/-- An uncorrectable error in Apply leaves the job unstartable, with a free number of its pages written (log 64). -/
theorem exec_restoreCompare_double : exec (.restoreCompare (.digest (manifestDigest x.record)) .double) s =
    .next (((s.applyPart x).updJob 0 fun j => { j with unstartable := true }).restoreFails E.uncorrectable) := by
  show execRestoreCompare (.digest (manifestDigest x.record)) .double s = _
  simp [execRestoreCompare, hlive, hphase, hx]

end
end

/-! ### The stall limit (R182) -/

theorem exec_stallLimit (hstalled : s.stalled pos = true) (hlimit : 2 ^ (s.job pos).man.stallLog2 ≤ (s.job pos).stall) :
    exec (.stallLimit pos) s = .next ((s.evStall pos).endJob pos .faulted E.stall) := by
  show execStallLimit pos s = _
  simp [execStallLimit, hstalled, Nat.not_lt.2 hlimit]

/-! ### ENDING (R286, R382) -/

/-- A crossing that ends with the job of a position: a thread's or a step commit's, not committing. -/
def State.endsWith (s : State) (pos : Nat) (x : XEntry) : Bool :=
  x.st != .committing && match x.opener with
    | .thread core _ => s.posOf core == pos
    | .stepCommit p => p == pos
    | _ => false

/-- What ENDING clears of a job whose crossings are gone. -/
def State.clearJob (s : State) (pos : Nat) : State :=
  ((((((s.discardDescs pos).leaveRings pos).closeWindows pos).clearCores pos).updSpan pos fun _ => Span.reset).closeFeeds pos).updJob pos
    fun j => { j.unbind with swap := [], cleared := true }

/-- Only the main job waits for a step commit, and only for one that is COMMITTING (R296). -/
theorem State.not_stepCommitting (h : pos = 0 → ∀ e, s.stepXing = some e → e.2.st ≠ .committing) :
    (pos == 0 && s.stepXing.elim false fun x => x.2.st == .committing) = false := by
  by_cases hpos : pos = 0
  · cases hstep : s.stepXing with
    | none => simp
    | some e => simp [h hpos e hstep]
  · simp [hpos]

/-- The windows of the job can close: there are none, or a crossing has room and no other holds one. -/
theorem State.windowsMayClose (h : s.jobWindows pos = [] ∨ (s.freeFwEntry ≠ none ∧ s.heldByXing ((s.jobWindows pos).map .window) = false)) :
    (!(s.jobWindows pos).isEmpty && (s.freeFwEntry.isNone || s.heldByXing ((s.jobWindows pos).map .window))) = false := by
  rcases h with hempty | ⟨hroom, hheld⟩
  · simp [hempty]
  · simp [Option.isNone_eq_false_iff.2 (Option.isSome_iff_ne_none.2 hroom), hheld]

/-- An ending job with no pass and no step commit in progress is cleared. -/
theorem exec_jobEnding (hst : (s.job pos).st = .ending) (hcleared : (s.job pos).cleared = false) (hspan : s.spanBusy pos = false)
    (hstep : pos = 0 → ∀ e, s.stepXing = some e → e.2.st ≠ .committing)
    (hwins : s.jobWindows pos = [] ∨ (s.freeFwEntry ≠ none ∧ s.heldByXing ((s.jobWindows pos).map .window) = false)) :
    exec (.jobEnding pos) s = .next ((s.abortWhere (s.endsWith pos) E.noJob).clearJob pos) := by
  show execJobEnding pos s = _
  simp only [execJobEnding, hst, hcleared, hspan, State.not_stepCommitting hstep, State.windowsMayClose hwins]
  rfl

/-- A cleared job leaves once nothing of it is outstanding and no dirty unit waits to be written (R382). -/
theorem exec_jobEndDone (hst : (s.job pos).st = .ending) (hcleared : (s.job pos).cleared = true) (hstores : ∀ p ∈ s.ms.stores, p.pos ≠ pos)
    (hfaults : ∀ f ∈ s.ms.faultIns, f.pos ≠ pos) (hbacks : ∀ w ∈ s.ms.writeBacks, w.pos ≠ pos)
    (hpubs : ∀ c ∈ (s.job pos).pubs, c.copying = none) (hdirty : (s.job pos).dirtyUnits = 0) :
    exec (.jobEndDone pos) s = .next (s.leaveJob pos) := by
  have hstores' : (s.ms.stores.any fun p => p.pos == pos) = false := by simpa using hstores
  have hfaults' : (s.ms.faultIns.any fun f => f.pos == pos) = false := by simpa using hfaults
  have hbacks' : (s.ms.writeBacks.any fun w => w.pos == pos) = false := by simpa using hbacks
  have hpubs' : ((s.job pos).pubs.any fun c => c.copying.isSome) = false := by simpa using hpubs
  show execJobEndDone pos s = _
  simp only [execJobEndDone, hst, hcleared, hstores', hfaults', hbacks', hpubs', hdirty]
  rfl

/-- Settles O39, command by command. -/
theorem restoresAndJobEnds : Obligations.RestoresAndJobEnds := by
  intro s pos hlive
  refine ⟨fun reads => ?_, ?_, exec_stallLimit, exec_jobEnding, exec_jobEndDone⟩
  · intro x read hphase
    have hx : s.stored s.restore.half = x := rfl
    have hread : s.readPages (x.flashPages.map fun p => (p, p)) reads = read := rfl
    -- The read stays opaque: evaluating it would run through every flash page of the mooring.
    clear_value read x
    obtain ⟨ok, u⟩ := read
    refine ⟨?_, ?_⟩
    · rintro rfl
      exact exec_restoreLoadVerify_read hlive hx hphase hread rfl
    · rintro rfl
      exact exec_restoreLoadVerify_lost hlive hx hphase hread
  · intro x hphase
    exact ⟨fun d => exec_restoreCompare_differs hlive rfl hphase, exec_restoreCompare_agrees hlive rfl hphase,
      exec_restoreCompare_double hlive rfl hphase⟩

end Sys2Proof.Machine
end

section
/-! SUPPORT. The word of a Tiller command holds its fields and nothing that meets it at the engine port (R158, R186, R203). Refutes O19. -/

set_option Elab.async false

namespace Sys2Proof.Machine

/-- Whatever met an ISSUE.R at the port, its word decodes to one that nothing meets. -/
theorem decodeFields_issueR (t : Thr) {ra : Reg} (ha : ra.toNat % 8 = 0) (hnz : (ra == 0) = false) :
    decodeFields t (mk 7 0 0 ra 0 0) = .issueR t { ra := ra, port := { rivals := [], finds := [] } } :=
  if_pos (by simp only [legalFields, mk, ha, hnz]; rfl)

/-- ISSUE.R of g8 to g15, which meets pipeline 1 at the port. -/
def metIssue : Instr := .issueR { core := 0, berth := 0 } { ra := 8, port := { rivals := [1], finds := [] } }

/-- Refutes O19: the word of ISSUE.R does not say which rivals meet its descriptor at the port. -/
theorem not_tillerWordsRoundTrip : ¬ Obligations.TillerWordsRoundTrip := by
  rintro ⟨hround, -, -⟩
  have hdecode := hround metIssue { core := 0, berth := 0 } (wordOf (mk 7 0 0 8 0 0)) rfl (by decide) rfl
  have hfields : fieldsOf (wordOf (mk 7 0 0 8 0 0)) = mk 7 0 0 8 0 0 := by decide
  rw [decodeTiller, hfields, decodeFields_issueR _ (by decide) (by decide)] at hdecode
  simp [metIssue, Sys2Proof.Claim.cleanEntry] at hdecode

end Sys2Proof.Machine
end

section
/-! SUPPORT. Tiller classes 0x0 to 0x3: each shared operation retires with the value of its function, at once or through the load return
path, and the values are those of R192 to R194; what an integer instruction leaves alone. Settles O1, O2, O3 and O60. -/

set_option Elab.async false

open Sys2Proof.Claim

namespace Sys2Proof.Machine

/-! ### Values (R192, R193) -/

theorem smin64_eq (x y : W64) : smin64 x y = if x.toInt < y.toInt then x else y := by simp [smin64, BitVec.slt]
theorem smax64_eq (x y : W64) : smax64 x y = if x.toInt < y.toInt then y else x := by simp [smax64, BitVec.slt]
theorem umin64_eq (x y : W64) : umin64 x y = if x.toNat < y.toNat then x else y := by simp [umin64, BitVec.ult]
theorem umax64_eq (x y : W64) : umax64 x y = if x.toNat < y.toNat then y else x := by simp [umax64, BitVec.ult]

theorem divu64_eq (x y : W64) : divu64 x y = if y = 0 then BitVec.allOnes 64 else BitVec.ofNat 64 (x.toNat / y.toNat) := by
  rw [divu64, ← BitVec.toNat_udiv, BitVec.ofNat_toNat, BitVec.setWidth_eq]

theorem remu64_eq (x y : W64) : remu64 x y = if y = 0 then x else BitVec.ofNat 64 (x.toNat % y.toNat) := by
  rw [remu64, ← BitVec.toNat_umod, BitVec.ofNat_toNat, BitVec.setWidth_eq]

/-- A word below IMM is a sum (R193). -/
theorem append_setWidth_eq (imm : W32) (x : W64) :
    imm ++ x.setWidth 32 = BitVec.ofNat 64 (x.toNat % 2 ^ 32 + imm.toNat * 2 ^ 32) := by
  apply BitVec.eq_of_toNat_eq
  have := imm.isLt
  rw [BitVec.toNat_append, BitVec.toNat_setWidth, Nat.shiftLeft_eq, Nat.mul_comm, ← Nat.two_pow_add_eq_or_of_lt (by omega), BitVec.toNat_ofNat]
  omega

theorem not_slt_eq (x y : W64) : (!x.slt y) = decide (y.toInt ≤ x.toInt) := by
  simp only [BitVec.slt, ← decide_not, Int.not_lt]
theorem not_ult_eq (x y : W64) : (!x.ult y) = decide (y.toNat ≤ x.toNat) := by
  simp only [BitVec.ult, ← decide_not, Nat.not_lt]

/-! ### The shared operations (R192 to R194, R218)

Each answers the retired context with the value of its function, under whatever name the rule gives that value. -/

section
variable {s : State} {t : Thr} {c : Ctx} {rd ra rb : Reg} {b : Src2} {v : W64}

/-- An immediate shift amount below 64 is defined (R192). -/
theorem src2ShiftOk_of_lt (hb : ∀ v, b = .imm v → v.toNat < 64) : src2ShiftOk b = true := by
  cases b with
  | reg rb => rfl
  | imm v => exact decide_eq_true (hb v rfl)

section
variable (h : Runs s t c (ra :: src2Regs b) [])
include h

theorem next_intOp {f : W64 → W64 → W64} (hv : f (c.reg ra) (c.src2 b) = v) :
    (.next (intOp f t rd ra b s) : Outc) = .next (retired s t (c.write rd v)) := by
  rw [intOp, State.issue_of_runs h (List.Subset.refl _) (.inl rfl), State.retire_of_runs h Ctx.write_pc, hv]

theorem next_longOp {f : W64 → W64 → W64} (hv : f (c.reg ra) (c.src2 b) = v) :
    (.next (longOp f t rd ra b s) : Outc) = .next (retired s t (later c (.reg rd) v)) := by
  rw [longOp, State.issue_of_runs h (List.Subset.refl _) (.inl rfl), State.retire_of_runs h Ctx.await_pc, hv, later]

theorem next_shiftOp {f : W64 → Nat → W64} (hb : ∀ v, b = .imm v → v.toNat < 64) :
    (.next (shiftOp f t rd ra b s) : Outc) = .next (retired s t (c.write rd (f (c.reg ra) ((c.src2 b).toNat % 64)))) := by
  rw [shiftOp, State.issue_of_runs h (List.Subset.refl _) (.inl rfl), if_pos (src2ShiftOk_of_lt hb), State.retire_of_runs h Ctx.write_pc]

end

theorem next_cmpOp {f : W64 → W64 → Bool} {pd : Prd} {p : Bool} (h : Runs s t c [ra, rb] []) (hp : f (c.reg ra) (c.reg rb) = p) :
    (.next (cmpOp f t pd ra rb s) : Outc) = .next (retired s t (c.writePrd pd p)) := by
  rw [cmpOp, State.issue_of_runs h (List.Subset.refl _) (.inl rfl), State.retire_of_runs h Ctx.writePrd_pc, hp]

theorem next_prdOp {f : Bool → Bool → Bool} {pd pa pb : Prd} (h : Runs s t c [] [pa, pb]) :
    (.next (prdOp f t pd pa pb s) : Outc) = .next (retired s t (c.writePrd pd (f (c.prd pa) (c.prd pb)))) := by
  rw [prdOp, State.issue_of_runs h (List.Subset.refl _) (.inl rfl), State.retire_of_runs h Ctx.writePrd_pc]

theorem next_fpOp {rs srcs : List Reg} {rnd : BitVec 2} {m : Rnd} {f : Rnd → Ctx → W64} (h : Runs s t c rs []) (hsub : srcs ⊆ rs)
    (hm : scalarRnd rnd = some m) : (.next (fpOp srcs f t rd rnd s) : Outc) = .next (retired s t (later c (.reg rd) (f m c))) := by
  rw [fpOp, State.issue_of_runs h hsub (.inl rfl), hm]
  exact congrArg _ (State.retire_of_runs h Ctx.await_pc)

theorem next_fcmpOp {rs : List Reg} {pd : Prd} {f : Val → Val → Bool} (h : Runs s t c rs []) (hsub : [ra, rb] ⊆ rs) :
    (.next (fcmpOp f t pd ra rb s) : Outc) =
      .next (retired s t (later c (.prd pd) (if f (f32 (c.reg ra)) (f32 (c.reg rb)) then 1 else 0))) := by
  rw [fcmpOp, State.issue_of_runs h hsub (.inl rfl), State.retire_of_runs h Ctx.await_pc, later]

end

/-- Settles O1, instruction by instruction. -/
theorem integerResults : Obligations.IntegerResults := fun _ _ _ _ _ _ h =>
  ⟨next_intOp h rfl, next_intOp h rfl, next_longOp h rfl, next_longOp h rfl, next_intOp h rfl, next_intOp h rfl, next_intOp h rfl,
    next_intOp h (smin64_eq _ _), next_intOp h (smax64_eq _ _), next_intOp h (umin64_eq _ _), next_intOp h (umax64_eq _ _),
    next_longOp h (divu64_eq _ _), next_longOp h (remu64_eq _ _),
    fun hb => ⟨next_shiftOp h hb, next_shiftOp h hb, next_shiftOp h hb⟩⟩

/-- Settles O2, instruction by instruction. -/
theorem compareSelectResults : Obligations.CompareSelectResults := by
  refine fun s t c => ⟨fun pd ra rb h => ?_, fun rd ra rb p h => ?_, fun rd ra imm h => ?_, fun pd pa pb h => ?_, fun pd pa h => next_prdOp h⟩
  · exact ⟨next_cmpOp h (Bool.beq_eq_decide_eq _ _), next_cmpOp h (by simp [bne, Bool.beq_eq_decide_eq]), next_cmpOp h rfl, next_cmpOp h rfl,
      next_cmpOp h (not_slt_eq _ _), next_cmpOp h (not_ult_eq _ _)⟩
  · show execSel t rd ra rb p s = _
    rw [execSel, State.issue_of_runs h (List.Subset.refl _) (.inl rfl), State.retire_of_runs h Ctx.write_pc]
  · show execLih t rd ra imm s = _
    rw [execLih, State.issue_of_runs h (List.Subset.refl _) (.inl rfl), State.retire_of_runs h Ctx.write_pc, append_setWidth_eq]
  · exact ⟨next_prdOp h, next_prdOp h⟩

/-- The two rounding modes of a scalar instruction (R194). -/
theorem scalarRnd_eq_some {rnd : BitVec 2} {m : Rnd} (h : rnd = 0 ∧ m = .rne ∨ rnd = 1 ∧ m = .rtz) : scalarRnd rnd = some m := by
  rcases h with ⟨rfl, rfl⟩ | ⟨rfl, rfl⟩ <;> rfl

/-- Settles O3, instruction by instruction. -/
theorem scalarFpResults : Obligations.ScalarFpResults := by
  intro s t c rd ra rb rnd m hrnd h x y res
  have hm := scalarRnd_eq_some hrnd
  have hone : [ra] ⊆ [ra, rb, rd] := by simp
  have htwo : [ra, rb] ⊆ [ra, rb, rd] := by simp
  exact ⟨next_fpOp h htwo hm, next_fpOp h htwo hm, next_fpOp h htwo hm, next_fpOp h (List.Subset.refl _) hm, next_fpOp h htwo hm,
    next_fpOp h hone hm, next_fpOp h htwo hm, next_fpOp h htwo hm, next_fpOp h hone hm, next_fpOp h hone hm,
    fun pd => ⟨next_fcmpOp h htwo, next_fcmpOp h htwo, next_fcmpOp h htwo⟩⟩

/-! ### The frame of the integer instructions (R188, R189) -/

/-- A context after an integer instruction: its destination is written, or awaits its value. -/
def Ctx.Integer (c : Ctx) (rd : Reg) (c' : Ctx) : Prop := ∃ v, c' = c.write rd v ∨ c' = later c (.reg rd) v

/-- Only the destination and the results on their way differ. -/
theorem Ctx.Integer.frame {c c' : Ctx} {rd : Reg} (h : c.Integer rd c') :
    c'.pc = c.pc ∧ c'.pred = c.pred ∧ c'.status = c.status ∧ c'.xing = c.xing ∧ ∀ r, r ≠ rd → c'.reg r = c.reg r := by
  obtain ⟨v, rfl | rfl⟩ := h
  · exact ⟨Ctx.write_pc, Ctx.write_pred, Ctx.write_status, Ctx.write_xing, fun r hr => Ctx.reg_setReg_ne hr⟩
  · exact ⟨rfl, rfl, rfl, rfl, fun _ _ => rfl⟩

/-- Every integer instruction retires in one of the two ways. -/
theorem integers_retire {s : State} {t : Thr} {c : Ctx} {rd ra : Reg} {b : Src2} (h : Runs s t c (ra :: src2Regs b) [])
    (hb : ∀ v, b = .imm v → v.toNat < 64) : ∀ i ∈ integers, ∃ c', c.Integer rd c' ∧ exec (i t rd ra b) s = .next (retired s t c') := by
  have now {v : W64} {o : Outc} (ho : o = .next (retired s t (c.write rd v))) : ∃ c', c.Integer rd c' ∧ o = .next (retired s t c') :=
    ⟨_, ⟨v, .inl rfl⟩, ho⟩
  have late {v : W64} {o : Outc} (ho : o = .next (retired s t (later c (.reg rd) v))) :
      ∃ c', c.Integer rd c' ∧ o = .next (retired s t c') := ⟨_, ⟨v, .inr rfl⟩, ho⟩
  obtain ⟨add, sub, mul, mulhu, and, or, xor, min, max, minu, maxu, divu, remu, shifts⟩ := integerResults s t c rd ra b h
  obtain ⟨shl, shr, sar⟩ := shifts hb
  simp only [integers, List.forall_mem_cons]
  exact ⟨now add, now sub, late mul, late mulhu, now and, now or, now xor, now min, now max, now minu, now maxu, late divu, late remu,
    now shl, now shr, now sar, by simp⟩

/-- Settles O60: the context differs in its destination, and the state in that context and in what issue notes. -/
theorem integerFrame : Obligations.IntegerFrame := by
  intro s t c rd ra b h hb i hi
  obtain ⟨c', hc', hexec⟩ := integers_retire (rd := rd) h hb i hi
  obtain ⟨hpc, hpred, hstatus, hxing, hregs⟩ := hc'.frame
  have hothers : ∀ t' : Thr, t' ≠ t → (retired s t c').ctxAt t' = s.ctxAt t' := fun t' ht =>
    (State.ctxAt_setCtxAt_ne ht).trans State.ctxAt_noteIssue
  exact ⟨_, _, hexec, State.ctxAt_setCtxAt, congrArg (· + 1) hpc, hregs, Ctx.reg_zero, hpred, hstatus, hxing, hothers, fun _ => rfl, rfl, rfl,
    rfl, rfl, rfl, rfl, rfl, rfl⟩

end Sys2Proof.Machine
end

section
/-! SUPPORT. Tiller classes 0x6, 0xA, 0xC and 0xD: branches, FENCE, YIELD and the system instructions (R202, R212, R216, R217). Settles O8
and O13. -/

set_option Elab.async false

open Sys2Proof.Claim

namespace Sys2Proof.Machine

variable {s : State} {t : Thr} {c : Ctx}

/-! ### Branches (R202) -/

section
variable {imm : Imm} {pc : W32} {ps : List Prd} {f : Ctx → Ctx}

/-- A branch goes to its target inside the code region (R189). -/
theorem State.branch_of_target (hpc : branchTarget c.pc imm (s.codeWords (s.posOf t.core)) = some pc) :
    (s.noteIssue t).branch t c imm f = (s.noteIssue t).setCtxAt t { f c with pc := pc } := by
  unfold State.branch
  rw [State.posOf_noteIssue, State.codeWords_noteIssue, hpc]

theorem exec_br (h : Runs s t c [] []) (hpc : branchTarget c.pc imm (s.codeWords (s.posOf t.core)) = some pc) :
    exec (.br t imm) s = .next ((s.noteIssue t).setCtxAt t { c with pc := pc }) := by
  show execBr t imm s = _
  rw [execBr, State.issue_of_runs h (List.Subset.refl _) (.inl rfl), State.branch_of_target hpc]

theorem exec_call (h : Runs s t c [] []) (hpc : branchTarget c.pc imm (s.codeWords (s.posOf t.core)) = some pc) (rd : Reg) :
    exec (.call t rd imm) s =
      .next ((s.noteIssue t).setCtxAt t { c.write rd (BitVec.ofNat 64 (c.pc.toNat + 1)) with pc := pc }) := by
  show execCall t rd imm s = _
  rw [execCall, State.issue_of_runs h (List.Subset.refl _) (.inl rfl), State.branch_of_target hpc]

section
variable {p : Prd} {sense : Bool} (h : Runs s t c [] [p])
include h

theorem exec_brp_passes (hp : c.prd p ≠ sense) : exec (.brp t p sense imm) s = .next (retired s t c) := by
  show execBrp t p sense imm s = _
  rw [execBrp, State.issue_of_runs h (List.Subset.refl _) (.inl rfl), if_neg hp, State.retire_of_runs h rfl]

theorem exec_brp_taken (hp : c.prd p = sense) (hpc : branchTarget c.pc imm (s.codeWords (s.posOf t.core)) = some pc) :
    exec (.brp t p sense imm) s = .next ((s.noteIssue t).setCtxAt t { c with pc := pc }) := by
  show execBrp t p sense imm s = _
  rw [execBrp, State.issue_of_runs h (List.Subset.refl _) (.inl rfl), if_pos hp, State.branch_of_target hpc]

end

theorem exec_brr {ra : Reg} (h : Runs s t c [ra] []) (hword : (c.reg ra).toNat < 2 ^ 32)
    (hin : (c.reg ra).toNat < s.codeWords (s.posOf t.core)) :
    exec (.brr t ra) s = .next ((s.noteIssue t).setCtxAt t { c with pc := BitVec.ofNat 32 (c.reg ra).toNat }) := by
  show execBrr t ra s = _
  rw [execBrr, State.issue_of_runs h (List.Subset.refl _) (.inl rfl)]
  exact congrArg _ (if_pos ⟨hword, hin⟩)

end

/-- Settles O8, branch by branch. -/
theorem branchesMovePc : Obligations.BranchesMovePc := fun _ _ _ =>
  ⟨fun _ _ h hpc => ⟨exec_br h hpc, exec_call h hpc⟩,
    fun _ _ _ h => ⟨exec_brp_passes h, fun _ => exec_brp_taken h⟩,
    fun _ h => exec_brr h⟩

/-! ### FENCE and the system instructions (R212, R217) -/

section
variable (h : Runs s t c [] [])
include h

theorem exec_nop : exec (.nop t) s = .next (retired s t c) := by
  show execNop t s = _
  rw [execNop, State.issue_of_runs h (List.Subset.refl _) (.inl rfl), State.retire_of_runs h rfl]

theorem exec_fence (hdone : c.xing.isSome = true ∨ s.storesDone c.tid = true) : exec (.fence t) s = .next (retired s t c) := by
  have hdone' : (c.xing.isSome || (s.noteIssue t).storesDone c.tid) = true := Bool.or_eq_true _ _ ▸ hdone
  show execFence t s = _
  rw [execFence, State.issue_of_runs h (List.Subset.refl _) (.inl rfl), if_pos hdone', State.retire_of_runs h rfl]

theorem exec_rdsys {sel : BitVec 4} {v : W64} (hv : s.sysValue t c sel = some v) (rd : Reg) :
    exec (.rdsys t rd sel) s = .next (retired s t (later c (.reg rd) v)) := by
  have hv' : (s.noteIssue t).sysValue t c sel = some v := hv
  show execRdsys t rd sel s = _
  rw [execRdsys, State.issue_of_runs h (List.Subset.refl _) (.inl rfl), hv']
  exact congrArg _ (State.retire_of_runs h Ctx.await_pc)

end

/-- The value of each selector (R217). -/
theorem State.sysValue_eq_some {sel : BitVec 4} {v : W64}
    (h : sel = 0 ∧ v = BitVec.ofNat 64 c.tid ∨ sel = 1 ∧ v = BitVec.ofNat 64 t.core ∨ sel = 2 ∧ v = BitVec.ofNat 64 s.aoc ∨
      sel = 3 ∧ v = ((s.job (s.posOf t.core)).streams.getD c.stream.toNat (0, 0)).1 ∨
      sel = 4 ∧ v = c.group.setWidth 64 ∨ sel = 5 ∧ v = BitVec.ofNat 64 (s.posOf t.core)) : s.sysValue t c sel = some v := by
  rcases h with ⟨rfl, rfl⟩ | ⟨rfl, rfl⟩ | ⟨rfl, rfl⟩ | ⟨rfl, rfl⟩ | ⟨rfl, rfl⟩ | ⟨rfl, rfl⟩ <;> rfl

theorem exec_pmov {ra : Reg} (h : Runs s t c [ra] []) :
    ∃ out, exec (.pmov t ra) s = .next (retired s t { c with pred := (c.reg ra).setWidth 4, out := out }) := by
  show ∃ out, execPmov t ra s = _
  rw [execPmov, State.issue_of_runs h (List.Subset.refl _) (.inl rfl)]
  exact ⟨_, congrArg _ (State.retire_of_runs h rfl)⟩

theorem exec_prd {rd : Reg} (h : Runs s t c [] [0, 1, 2, 3]) : exec (.prd t rd) s = .next (retired s t (c.write rd (c.pred.setWidth 64))) := by
  show execPrd t rd s = _
  rw [execPrd, State.issue_of_runs h (List.Subset.refl _) (.inl rfl), State.retire_of_runs h Ctx.write_pc]

/-! ### YIELD (R216) -/

/-- The ready berths of a berth's pipeline but for itself. -/
def State.otherReady (s : State) (t : Thr) : List Nat :=
  (s.core t.core).berths.filterMap fun b => match b.2 with
    | .resident x => if b.1 % 4 = t.berth % 4 ∧ b.1 ≠ t.berth ∧ s.ctxReady t.core x = true then some b.1 else none
    | _ => none

theorem State.readyBerths_filter_ne (s : State) (t : Thr) :
    (s.readyBerths t.core (t.berth % 4)).filter (fun b => b != t.berth) = s.otherReady t := by
  unfold State.readyBerths State.otherReady
  rw [List.filter_filterMap]
  congr 1
  funext b
  obtain ⟨k, x⟩ := b
  cases x with
  | resident x =>
    dsimp only
    split <;> grind [Option.filter]
  | _ => rfl

section
variable (h : Runs s t c [] []) (hx : c.xing = none)
include h hx

/-- A YIELD retires, and a pass-over set of the other ready berths begins unless there are none. -/
theorem exec_yield : exec (.yield t) s = .next (
    if ((s.noteIssue t).otherReady t).isEmpty then retired s t c
    else (retired s t c).updCore t.core fun k =>
      { k with passes := k.passes ++ [{ berth := t.berth, set := (s.noteIssue t).otherReady t }] }) := by
  show execYield t s = _
  rw [execYield, State.issue_of_runs h (List.Subset.refl _) (.inr hx), State.readyBerths_filter_ne, State.retire_of_runs h rfl]

/-- The state without the thread of a berth: the berth is FREE and the swap record empty. -/
def State.threadGone (s : State) (t : Thr) (c : Ctx) : State :=
  ((s.noteIssue t).updCore t.core fun k => (k.setBerth t.berth .free).leaveSets t.berth).updJob (s.posOf t.core)
    fun j => { j with swap := tset SwapRec.empty c.tid SwapRec.empty j.swap }

/-- The last thread of a job ends the job (R381). -/
theorem exec_yieldEnd (hdone : s.storesDone c.tid = true) : exec (.yieldEnd t) s = .next (
    if ((s.threadGone t c).liveThreads (s.posOf t.core)).isEmpty then (s.threadGone t c).endJob (s.posOf t.core) .ended E.ok
    else s.threadGone t c) := by
  have hdone' : (s.noteIssue t).storesDone c.tid = true := hdone
  show execYieldEnd t s = _
  rw [execYieldEnd, State.issue_of_runs h (List.Subset.refl _) (.inr hx)]
  simp only [hdone', Bool.not_true, Bool.false_eq_true, if_false]
  rfl

end

/-- Settles O13, instruction by instruction. -/
theorem systemInstructions : Obligations.SystemInstructions := by
  intro s t c h
  refine ⟨exec_nop h, exec_fence h, fun rd sel v hv => exec_rdsys h (State.sysValue_eq_some hv) rd, fun ra => exec_pmov, fun rd => exec_prd,
    fun hx => ⟨fun hnone => ?_, fun hsome => ?_⟩, fun hx hdone => ⟨fun hleft => ?_, fun hlast => ?_⟩⟩
  · exact (exec_yield h hx).trans (congrArg _ (if_pos (List.isEmpty_iff.2 hnone)))
  · exact (exec_yield h hx).trans (congrArg _ (if_neg (mt List.isEmpty_iff.1 hsome)))
  · exact (exec_yieldEnd h hx hdone).trans (congrArg _ (if_neg (mt List.isEmpty_iff.1 hleft)))
  · exact (exec_yieldEnd h hx hdone).trans (congrArg _ (if_pos (List.isEmpty_iff.2 hlast)))

end Sys2Proof.Machine
end

section
/-! SUPPORT. Tiller classes 0x4, 0x5 and 0x9 outside a crossing: an access whose core translates its address, and whose address leads to
memory, joins the results on their way or the stores that wait (R195 to R198, R208, R319, R325). Settles O4, O5 and O12. -/

set_option Elab.async false

open Sys2Proof.Claim

namespace Sys2Proof.Machine

variable {s u : State} {t : Thr} {c c' : Ctx} {rd ra rb : Reg} {imm : Imm} {rs : List Reg} {ps : List Prd} {va size i words : Nat}
  {signed w : Bool}

/-! ### Translation (R196, R325) -/

/-- A translation rests on the jobs and the configuration. -/
theorem State.xlate_congr {pos : Nat} (hjobs : u.jobs = s.jobs) (hcfg : u.cfg = s.cfg) : u.xlate pos va w = s.xlate pos va w := by
  simp only [State.xlate, State.job, hjobs, State.posOf_congr hcfg]

/-- A walk writes the core's TLB and walk cache, and what it repairs. -/
theorem State.tlbWalk_frame (s : State) (core va : Nat) :
    (s.tlbWalk core va).2.jobs = s.jobs ∧ (s.tlbWalk core va).2.cfg = s.cfg ∧ (s.tlbWalk core va).2.ms.stores = s.ms.stores ∧
      (s.tlbWalk core va).2.ms.serial = s.ms.serial := by
  unfold State.tlbWalk
  dsimp only
  split
  · exact ⟨rfl, rfl, rfl, rfl⟩
  · split
    · exact ⟨rfl, rfl, rfl, rfl⟩
    · split <;> exact ⟨rfl, rfl, rfl, rfl⟩

/-- A scratchpad address needs no walk (R314). -/
theorem State.tlbWalk_scratch {core : Nat} (h : isScratch va = true) : s.tlbWalk core va = (true, s) := by
  simp [State.tlbWalk, h]

theorem walkedTo_jobs : (walkedTo s t va).jobs = s.jobs := ((s.noteIssue t).tlbWalk_frame t.core va).1
theorem walkedTo_cfg : (walkedTo s t va).cfg = s.cfg := ((s.noteIssue t).tlbWalk_frame t.core va).2.1
theorem walkedTo_stores : (walkedTo s t va).ms.stores = s.ms.stores := ((s.noteIssue t).tlbWalk_frame t.core va).2.2.1
theorem walkedTo_serial : (walkedTo s t va).ms.serial = s.ms.serial := ((s.noteIssue t).tlbWalk_frame t.core va).2.2.2

/-- The access goes on once its core has translated the address. -/
theorem State.walked_of_walkable {go : State → State} (h : walkable s t va) : (s.noteIssue t).walked t.core va c go = go (walkedTo s t va) :=
  if_pos h

/-- Where an address leads does not change with the walk to it. -/
theorem xlate_walkedTo (h : reaches s t va w) : ∃ pa pg, (walkedTo s t va).xlate ((walkedTo s t va).posOf t.core) va w = .phys pa pg := by
  rwa [State.xlate_congr walkedTo_jobs walkedTo_cfg, State.posOf_congr walkedTo_cfg]

/-! ### Words of the scratchpad (R195) -/

theorem Ctx.wordIndex_lt (h : c.wordIndex ra imm = some i) : i < 2 ^ 26 := by
  unfold Ctx.wordIndex at h
  dsimp only at h
  split at h
  · cases h
    omega
  · contradiction

theorem isScratch_wordAddr (hi : i < 2 ^ 26) : isScratch (wordAddr i) = true := by
  unfold isScratch wordAddr spBase spSize
  rw [Bool.and_eq_true, decide_eq_true_iff, decide_eq_true_iff]
  omega

theorem spCore_wordAddr (i : Nat) : spCore (wordAddr i) = i / 2 ^ 20 := by
  simp only [spCore, wordAddr]
  omega

/-- A word of the job's own cores is in reach (R195). -/
theorem reaches_wordAddr (hi : i < 2 ^ 26) (hown : s.posOf (i / 2 ^ 20) = s.posOf t.core) : reaches s t (wordAddr i) w := by
  refine ⟨wordAddr i, none, ?_⟩
  unfold State.xlate
  rw [if_pos (isScratch_wordAddr hi), spCore_wordAddr, if_pos hown]

theorem walkable_wordAddr (hi : i < 2 ^ 26) : walkable s t (wordAddr i) :=
  congrArg Prod.fst (State.tlbWalk_scratch (isScratch_wordAddr hi))

/-! ### Retirement after a walk (R189) -/

/-- An instruction retires with its PC advanced whatever it has done, the jobs and the configuration apart. -/
theorem State.retire_of_frame (h : Runs s t c rs ps) (hjobs : u.jobs = s.jobs) (hcfg : u.cfg = s.cfg) (hpc : c'.pc = c.pc) :
    u.retire t c' = landed u t c' := by
  refine State.retire_inside ?_
  rw [hpc, State.codeWords_congr hjobs, State.posOf_congr hcfg]
  exact h.2.2

/-! ### Loads (R195 to R198) -/

@[simp] theorem Ctx.awaitLoad_pc : (c.awaitLoad rd va size signed).pc = c.pc := by
  unfold Ctx.awaitLoad
  split <;> rfl

/-- A load in reach issues. -/
theorem State.load_issues (h : Runs s t c rs ps) (hx : c.xing = none) (hreach : reaches s t va false) (hwalk : walkable s t va) :
    (s.noteIssue t).load t c rd va size signed = loadIssued s t c rd va size signed := by
  obtain ⟨pa, pg, hphys⟩ := xlate_walkedTo hreach
  rw [State.load, State.walked_of_walkable hwalk]
  simp only [hphys, hx]
  exact State.retire_of_frame h walkedTo_jobs walkedTo_cfg Ctx.awaitLoad_pc

section
variable (h : Runs s t c [ra] []) (hx : c.xing = none)
include h hx

theorem next_wordLoad (hi : c.wordIndex ra imm = some i) (hown : s.posOf (i / 2 ^ 20) = s.posOf t.core)
    (halign : ¬(words = 2 ∧ i % 2 = 1)) :
    (.next (s.issue t [ra] [] true fun c s => s.wordLoad t c rd ra imm words signed) : Outc) =
      .next (loadIssued s t c rd (wordAddr i) (4 * words) signed) := by
  have hlt := Ctx.wordIndex_lt hi
  have hok : (s.noteIssue t).wordOk ((s.noteIssue t).posOf t.core) i = true := beq_iff_eq.2 hown
  rw [State.issue_of_runs h (List.Subset.refl _) (.inl rfl), State.wordLoad, hi]
  simp only [if_neg halign, hok, Bool.not_true, Bool.false_eq_true, if_false]
  rw [State.load_issues h hx (reaches_wordAddr hlt hown) (walkable_wordAddr hlt)]

theorem next_byteLoad (hreach : reaches s t (c.byteAddr ra imm) false) (hwalk : walkable s t (c.byteAddr ra imm))
    (halign : c.byteAddr ra imm % size = 0) :
    (.next (s.issue t [ra] [] true fun c s => s.byteLoad t c rd ra imm size signed) : Outc) =
      .next (loadIssued s t c rd (c.byteAddr ra imm) size signed) := by
  rw [State.issue_of_runs h (List.Subset.refl _) (.inl rfl), State.byteLoad, if_neg (fun hne => hne halign), State.load_issues h hx hreach hwalk]

end

/-- Settles O4, load by load. -/
theorem loadsIssue : Obligations.LoadsIssue := by
  intro s t c rd ra imm h hx
  refine ⟨fun i hi hown => ?_, fun hreach hwalk => ?_⟩
  · have word {signed : Bool} := next_wordLoad (rd := rd) (words := 1) (signed := signed) h hx hi hown (by omega)
    exact ⟨word, word, fun heven => next_wordLoad (words := 2) h hx hi hown (by omega)⟩
  · have byte {size : Nat} {signed : Bool} (halign : c.byteAddr ra imm % size = 0) :=
      next_byteLoad (rd := rd) (signed := signed) h hx hreach hwalk halign
    exact ⟨byte (Nat.mod_one _), byte (Nat.mod_one _), fun h2 => ⟨byte h2, byte h2⟩, fun h4 => ⟨byte h4, byte h4⟩, byte⟩

/-! ### Stores (R195 to R198) -/

section
variable {core : Nat} {kind : StoreKind} {parts : List (Nat × Nat × W64)}

/-- Stores that join the ones that wait change memory's own part of the state alone. -/
theorem State.pushStore_frame : (s.pushStore c core kind parts).jobs = s.jobs ∧ (s.pushStore c core kind parts).cfg = s.cfg := by
  unfold State.pushStore
  induction parts generalizing s with
  | nil => exact ⟨rfl, rfl⟩
  | cons p ps ih => exact ih

/-- An instruction whose accesses join those that wait retires after its walk. -/
theorem State.retire_pushStore (h : Runs s t c rs ps) (hpc : c'.pc = c.pc) :
    ((walkedTo s t va).pushStore c core kind parts).retire t c' = landed ((walkedTo s t va).pushStore c core kind parts) t c' :=
  State.retire_of_frame h (State.pushStore_frame.1.trans walkedTo_jobs) (State.pushStore_frame.2.trans walkedTo_cfg) hpc

end

/-- A store in reach retires. -/
theorem State.storeAt_issues {v : W64} (h : Runs s t c rs ps) (hx : c.xing = none) (hreach : reaches s t va true) (hwalk : walkable s t va) :
    (s.noteIssue t).storeAt t c va size v = storeIssued s t c va size v := by
  obtain ⟨pa, pg, hphys⟩ := xlate_walkedTo hreach
  rw [State.storeAt, State.walked_of_walkable hwalk]
  simp only [hphys, hx]
  exact State.retire_pushStore h rfl

section
variable (h : Runs s t c [ra, rb] []) (hx : c.xing = none)
include h hx

theorem next_wordStore (hi : c.wordIndex ra imm = some i) (hown : s.posOf (i / 2 ^ 20) = s.posOf t.core)
    (halign : ¬(words = 2 ∧ i % 2 = 1)) :
    (.next (s.issue t [ra, rb] [] true fun c s => s.wordStore t c ra rb imm words) : Outc) =
      .next (storeIssued s t c (wordAddr i) (4 * words) (c.reg rb)) := by
  have hlt := Ctx.wordIndex_lt hi
  have hok : (s.noteIssue t).wordOk ((s.noteIssue t).posOf t.core) i = true := beq_iff_eq.2 hown
  rw [State.issue_of_runs h (List.Subset.refl _) (.inl rfl), State.wordStore, hi]
  simp only [if_neg halign, hok, Bool.not_true, Bool.false_eq_true, if_false]
  rw [State.storeAt_issues h hx (reaches_wordAddr hlt hown) (walkable_wordAddr hlt)]

theorem next_byteStore (hreach : reaches s t (c.byteAddr ra imm) true) (hwalk : walkable s t (c.byteAddr ra imm))
    (halign : c.byteAddr ra imm % size = 0) :
    (.next (s.issue t [ra, rb] [] true fun c s => s.byteStore t c ra rb imm size) : Outc) =
      .next (storeIssued s t c (c.byteAddr ra imm) size (c.reg rb)) := by
  rw [State.issue_of_runs h (List.Subset.refl _) (.inl rfl), State.byteStore, if_neg (fun hne => hne halign), State.storeAt_issues h hx hreach hwalk]

end

/-- Settles O5, store by store. -/
theorem storesRetire : Obligations.StoresRetire := by
  intro s t c ra rb imm h hx
  refine ⟨fun i hi hown => ?_, fun hreach hwalk => ?_⟩
  · exact ⟨next_wordStore (words := 1) h hx hi hown (by omega), fun heven => next_wordStore (words := 2) h hx hi hown (by omega)⟩
  · exact ⟨next_byteStore h hx hreach hwalk (Nat.mod_one _), next_byteStore h hx hreach hwalk, next_byteStore h hx hreach hwalk,
      next_byteStore h hx hreach hwalk⟩

/-! ### Atomics (R208) -/

section
variable {f : AtomF} {op : Nat} (h : Runs s t c [ra, rb, rd] []) (hx : c.xing = none)
include h hx

/-- AFADD has no 64-bit form. -/
theorem next_atomOp_wide (hwide : f.wide = true) :
    (.next (atomOp 10 t rd ra rb f s) : Outc) = .next ((s.noteIssue t).threadFault c.tid c.pc E.argFormat) := by
  rw [atomOp, State.issue_of_runs h (by simp) (.inr hx)]
  exact congrArg _ (if_pos ⟨rfl, hwide⟩)

/-- An atomic in reach joins the accesses that wait, a release form after the thread's earlier ones. -/
theorem next_atomOp (hsize : (if f.wide then 8 else 4) = size) (hop : ¬(op = 10 ∧ f.wide = true)) (halign : c.atomAddr ra f % size = 0)
    (hreach : reaches s t (c.atomAddr ra f) true) (hwalk : walkable s t (c.atomAddr ra f))
    (hrel : f.rel = true → s.storesDone c.tid = true) :
    (.next (atomOp op t rd ra rb f s) : Outc) = .next (landed
      ((walkedTo s t (c.atomAddr ra f)).pushStore c t.core (.atomic op (c.reg rd)) [(c.atomAddr ra f, size, c.reg rb)]) t
      { c.await (.reg rd) (.atomic s.ms.serial) with status := .pending }) := by
  obtain ⟨pa, pg, hphys⟩ := xlate_walkedTo hreach
  have hdone : (walkedTo s t (c.atomAddr ra f)).storesDone c.tid = s.storesDone c.tid := by unfold State.storesDone; rw [walkedTo_stores]
  have hissue : (f.rel && !s.storesDone c.tid) = false := by
    cases hf : f.rel with
    | false => rfl
    | true => rw [hrel hf]; rfl
  have hsub : ([ra, rb] ++ if op = 9 then [rd] else []) ⊆ [ra, rb, rd] := by split <;> simp
  rw [atomOp, State.issue_of_runs h hsub (.inr hx)]
  simp only [if_neg hop, hsize, halign, ne_eq, not_true_eq_false, if_false, State.walked_of_walkable hwalk, hphys, hdone, hissue,
    Bool.false_eq_true, walkedTo_serial]
  exact congrArg _ (State.retire_pushStore h rfl)

end

theorem atomicsIssue_holds : atomicsIssue := by
  intro s t c rd ra rb f h hx size va halign hreach hwalk hrel issues
  have issue {op : Nat} (hop : ¬(op = 10 ∧ f.wide = true)) := next_atomOp h hx rfl hop halign hreach hwalk hrel
  exact ⟨issue (by simp), issue (by simp), issue (by simp), issue (by simp), issue (by simp), issue (by simp), issue (by simp),
    issue (by simp), issue (by simp), issue (by simp), fun hnarrow => issue (by simp [hnarrow]), next_atomOp_wide h hx⟩

/-- The number of a location read as signed (R208). -/
theorem signedOf_eq {n : Nat} (hsize : size = 4 ∨ size = 8) (hn : n < 2 ^ (8 * size)) :
    signedOf size n = (BitVec.ofNat (8 * size) n).toInt := by
  rw [signedOf, BitVec.toInt_eq_toNat_cond, BitVec.toNat_ofNat, Nat.mod_eq_of_lt hn]
  rcases hsize with rfl | rfl <;> (split <;> split <;> omega)

theorem atomicValues_hold : atomicValues := by
  intro size old b cmp hsize hold hb sgn
  have hsgn {n : Nat} (hn : n < 2 ^ (8 * size)) : signedOf size n = sgn n := signedOf_eq hsize hn
  refine ⟨rfl, rfl, rfl, rfl, ?_, ?_, rfl, rfl, rfl, rfl, rfl⟩
  · rw [← hsgn hold, ← hsgn hb]; rfl
  · rw [← hsgn hold, ← hsgn hb]; rfl

/-- Settles O12: the atomics issue one by one, and `atomicNew` computes the values. -/
theorem atomics : Obligations.Atomics := ⟨atomicsIssue_holds, atomicValues_hold⟩

end Sys2Proof.Machine
end

section
/-! SUPPORT. LDW.TK and STW.TK: the holder of the slot loads and stores, any other thread goes through the token or joins its queue (R209,
R228 to R232). Settles O11. -/

set_option Elab.async false

open Sys2Proof.Claim

namespace Sys2Proof.Machine

variable {s : State} {t : Thr} {c : Ctx} {rd ra rb : Reg} {imm : Imm} {i : Nat} {a : SlotAt} {op : TokOp}

/-! ### The slot and its token (R228, R230) -/

/-- Issuing leaves every token as it is. -/
@[simp] theorem State.tok_noteIssue : (s.noteIssue t).tok a = s.tok a := by
  unfold State.tok State.noteIssue
  by_cases hcore : a.core = t.core
  · rw [hcore, State.core_updCore_self]
    rfl
  · rw [State.core_updCore_ne hcore]

theorem State.tokenSlot_of_tokenAt (h : tokenAt s t c ra imm i a) : (s.noteIssue t).tokenSlot t c ra imm = some (i, a) := by
  obtain ⟨hi, hown, hslot⟩ := h
  have hok : (s.noteIssue t).wordOk ((s.noteIssue t).posOf t.core) i = true := beq_iff_eq.2 hown
  have hslot' : (s.noteIssue t).slotAt ((s.noteIssue t).posOf t.core) i = some a := hslot
  simp only [State.tokenSlot, hi, hok, if_true, hslot', Option.map_some]

/-- An operation that the token allows completes, and the waiters are walked. -/
theorem State.tokenOp_of_allows {fin : State → State} (h : (s.tok a).allows op = true) :
    s.tokenOp t c a op fin = (fin (s.setTok a ((s.tok a).after a c.tid op))).walkAll a := if_pos h

/-- One that it does not allow waits. -/
theorem State.tokenOp_of_not_allows {fin : State → State} (h : (s.tok a).allows op = false) :
    s.tokenOp t c a op fin = tokenWaits s t c a op := if_neg (ne_true_of_eq_false h)

theorem Tok.allows_load {k : Tok} {w : Nat} : k.allows (.load w rd) = true ↔ k.holder = none ∧ k.full = true := by
  simp [Tok.allows]

theorem Tok.allows_store {k : Tok} {w : Nat} {v : W32} : k.allows (.store w v) = true ↔ k.holder = none ∧ k.full = false := by
  simp [Tok.allows]

/-- The last word of a slot does not wait for stores that are all performed (R231). -/
theorem lastWord_ready {tid : Nat} (h : a.at_ + 1 = a.words → s.storesDone tid = true) :
    (decide (a.at_ + 1 = a.words) && !(s.noteIssue t).storesDone tid) = false := by
  by_cases hlast : a.at_ + 1 = a.words
  · have hdone : (s.noteIssue t).storesDone tid = true := h hlast
    rw [hdone, Bool.not_true, Bool.and_false]
  · rw [decide_eq_false hlast, Bool.false_and]

theorem State.retirePending_setTok {c' : Ctx} {k : Tok} {rs : List Reg} {ps : List Prd} (h : Runs s t c rs ps) (hpc : c'.pc = c.pc) :
    ((s.noteIssue t).setTok a k).retirePending t c' = landed ((s.noteIssue t).setTok a k) t { c' with status := .pending } :=
  State.retire_of_frame h rfl rfl hpc

/-! ### LDW.TK -/

section
variable (h : Runs s t c [ra] []) (hx : c.xing = none) (hat : tokenAt s t c ra imm i a)
include h hx hat

theorem exec_ldwTk_holder (hholder : (s.tok a).holder = some c.tid) :
    exec (.ldwTk t rd ra imm .clean) s = .next (loadIssued s t c rd (wordAddr i) 4 false) := by
  have hlt := Ctx.wordIndex_lt hat.1
  show execLdwTk t rd ra imm .clean s = _
  rw [execLdwTk, State.issue_of_runs h (List.Subset.refl _) (.inr hx)]
  simp only [State.tokenSlot_of_tokenAt hat, State.entryRead, State.tok_noteIssue, hholder, if_true]
  rw [State.load_issues h hx (reaches_wordAddr hlt hat.2.1) (walkable_wordAddr hlt)]

/-- The load of another thread reaches the token, unless it would read a poisoned word. -/
theorem exec_ldwTk_other (hholder : (s.tok a).holder ≠ some c.tid) (hlast : a.at_ + 1 = a.words → s.storesDone c.tid = true)
    (hown : s.storesTo c.tid (wordAddr i) 4 = false)
    (hclean : (s.ms.poisoned (wordAddr i) 4 && (s.tok a).allows (.load i rd)) = false) :
    exec (.ldwTk t rd ra imm .clean) s = .next ((s.noteIssue t).tokenOp t c a (.load i rd) fun u =>
      u.retirePending t (c.await (.reg rd) (.tok i (BitVec.ofNat 32 (rdNat s.ms.mem (wordAddr i) 4))))) := by
  have hown' : (s.noteIssue t).storesTo c.tid (wordAddr i) 4 = false := hown
  show execLdwTk t rd ra imm .clean s = _
  rw [execLdwTk, State.issue_of_runs h (List.Subset.refl _) (.inr hx)]
  simp only [State.tokenSlot_of_tokenAt hat, State.entryRead, State.tok_noteIssue, hholder, lastWord_ready hlast, hown', State.noteIssue_ms,
    hclean, if_false, Bool.false_eq_true]

end

theorem tokenLoads_hold : tokenLoads := by
  intro s t c rd ra imm i a h hx hat k
  refine ⟨exec_ldwTk_holder h hx hat, fun hholder hlast hown => ⟨fun hnone hfull hclean => ?_, fun hnot => ?_⟩⟩
  · have hallows : (s.tok a).allows (.load i rd) = true := Tok.allows_load.2 ⟨hnone, hfull⟩
    rw [exec_ldwTk_other h hx hat hholder hlast hown (by rw [hclean, Bool.false_and]),
      State.tokenOp_of_allows (by rwa [State.tok_noteIssue]), State.tok_noteIssue, State.retirePending_setTok h Ctx.await_pc]
    rfl
  · have hwaits : (s.tok a).allows (.load i rd) = false := eq_false_of_ne_true (mt Tok.allows_load.1 hnot)
    rw [exec_ldwTk_other h hx hat hholder hlast hown (by rw [hwaits, Bool.and_false]),
      State.tokenOp_of_not_allows (by rwa [State.tok_noteIssue])]

/-! ### STW.TK -/

section
variable (h : Runs s t c [ra, rb] []) (hx : c.xing = none) (hat : tokenAt s t c ra imm i a)
include h hx hat

theorem exec_stwTk_holder (hholder : (s.tok a).holder = some c.tid) :
    exec (.stwTk t ra rb imm .clean) s = .next (storeIssued s t c (wordAddr i) 4 (c.reg rb)) := by
  have hlt := Ctx.wordIndex_lt hat.1
  show execStwTk t ra rb imm .clean s = _
  rw [execStwTk, State.issue_of_runs h (List.Subset.refl _) (.inr hx)]
  simp only [State.tokenSlot_of_tokenAt hat, State.entryRead, State.tok_noteIssue, hholder, if_true]
  rw [State.storeAt_issues h hx (reaches_wordAddr hlt hat.2.1) (walkable_wordAddr hlt)]

/-- The store of another thread reaches the token, once no crossing holds its word. -/
theorem exec_stwTk_other (hholder : (s.tok a).holder ≠ some c.tid) (hlast : a.at_ + 1 = a.words → s.storesDone c.tid = true)
    (hown : s.storesTo c.tid (wordAddr i) 4 = false) (hheld : s.rangeHeld (wordAddr i) 4 = false) :
    exec (.stwTk t ra rb imm .clean) s = .next ((s.noteIssue t).tokenOp t c a (.store i ((c.reg rb).setWidth 32)) fun u =>
      (u.poke (wordAddr i) (leBytes 4 ((c.reg rb).setWidth 32).toNat)).retire t c) := by
  have hown' : (s.noteIssue t).storesTo c.tid (wordAddr i) 4 = false := hown
  have hheld' : (s.noteIssue t).rangeHeld (wordAddr i) 4 = false := hheld
  show execStwTk t ra rb imm .clean s = _
  rw [execStwTk, State.issue_of_runs h (List.Subset.refl _) (.inr hx)]
  simp only [State.tokenSlot_of_tokenAt hat, State.entryRead, State.tok_noteIssue, hholder, lastWord_ready hlast, hown', hheld', if_false,
    Bool.false_eq_true]

end

theorem tokenStores_hold : tokenStores := by
  intro s t c ra rb imm i a h hx hat k low
  refine ⟨exec_stwTk_holder h hx hat, fun hholder hlast hown hheld => ⟨fun hnone hempty => ?_, fun hnot => ?_⟩⟩
  · have hallows : (s.tok a).allows (.store i low) = true := Tok.allows_store.2 ⟨hnone, hempty⟩
    rw [exec_stwTk_other h hx hat hholder hlast hown hheld, State.tokenOp_of_allows (by rwa [State.tok_noteIssue]), State.tok_noteIssue]
    rfl
  · have hwaits : (s.tok a).allows (.store i low) = false := eq_false_of_ne_true (mt Tok.allows_store.1 hnot)
    rw [exec_stwTk_other h hx hat hholder hlast hown hheld, State.tokenOp_of_not_allows (by rwa [State.tok_noteIssue])]

/-- Settles O11. -/
theorem tokenLoadStore : Obligations.TokenLoadStore := ⟨tokenLoads_hold, tokenStores_hold⟩

end Sys2Proof.Machine
end

section
/-! SUPPORT. STORE_PERFORM: a store or atomic that nothing holds writes its own bytes at its home, and the bytes written read back there and
nowhere else (R197, R208, R209, R296). Settles O7. -/

set_option Elab.async false

open Sys2Proof.Claim

namespace Sys2Proof.Machine

/-! ### Bytes written read back -/

theorem rdBytes_wrBytes {m : Memory} {a : Nat} {bs : List Byte} : rdBytes (wrBytes m a bs) a bs.length = bs := by
  induction bs generalizing m a with
  | nil => rfl
  | cons b bs ih => rw [wrBytes, List.length_cons, rdBytes, ih, rd8_wrBytes_out (.inl (Nat.lt_succ_self a)), rd8_wr8_self]

theorem pokeWritesItsBytes_holds : pokeWritesItsBytes := by
  intro s pa bs
  rw [State.poke_mem]
  exact ⟨rdBytes_wrBytes, fun _ => rd8_wrBytes_out⟩

/-! ### STORE_PERFORM -/

section
variable {s : State} {n pa : Nat} {p : PStore} {pg : Option (Nat × Pte)}

/-- The state in which access `n` writes: it waits no more, and its page is DIRTY and referenced (R334, R335). -/
def State.atHome (s : State) (n : Nat) (p : PStore) (pg : Option (Nat × Pte)) : State :=
  ((s.updMs fun m => { m with stores := m.stores.eraseIdx n }).dirty p.pos pg p.va p.size).touch pg

variable (hn : s.ms.stores[n]? = some p) (hfirst : s.storeFirst n p = true) (hphys : s.xlate p.pos p.va true = .phys pa pg)
  (hcopy : s.needsCopy p.pos pg = false) (hrange : s.rangeHeld pa p.size = false) (hpage : s.pageHeld p.pos pg = false)
  (hclean : s.ms.poisoned pa p.size = false)
include hn hfirst hphys hcopy hrange hpage hclean

/-- An access that nothing holds and whose bytes are sound is performed. -/
theorem exec_storePerform : exec (.storePerform n .clean) s = .next (
    match p.kind with
    | .store => (s.atHome n p pg).poke pa (leBytes p.size p.data.toNat)
    | .atomic op cmp =>
      let old := rdNat (s.atHome n p pg).ms.mem pa p.size
      let new := atomicNew op p.size old (p.data.toNat % 2 ^ (8 * p.size)) (cmp.toNat % 2 ^ (8 * p.size))
      ((s.atHome n p pg).poke pa (leBytes p.size new)).updThread p.tid fun c =>
        { c with out := updWhere (fun o => o.src == .atomic p.serial) (fun o => { o with src := .value (BitVec.ofNat 64 old) }) c.out }) := by
  have hclean' : (s.updMs fun m => { m with stores := m.stores.eraseIdx n }).ms.poisoned pa p.size = false := hclean
  show execStorePerform n .clean s = _
  simp only [execStorePerform, hn, hfirst, hphys, hcopy, hrange, hpage, State.checkRead_clean, hclean', Bool.not_true, Bool.not_false,
    Bool.or_false, Bool.false_eq_true, if_false, ite_self]
  rfl

end

theorem storesPerform_hold : storesPerform := by
  intro s n p pa pg hn hfirst hphys hcopy hrange hpage hclean gone home
  have hexec := exec_storePerform hn hfirst hphys hcopy hrange hpage hclean
  refine ⟨fun hkind => ?_, fun op cmp hkind => ?_⟩
  · rw [hexec, hkind]
    rfl
  · rw [hexec, hkind]
    rfl

/-- Settles O7. -/
theorem storesPerform : Obligations.StoresPerform := ⟨storesPerform_hold, pokeWritesItsBytes_holds⟩

end Sys2Proof.Machine
end

section
/-! SUPPORT. XBEGIN and XCOMMIT: a crossing of a thread opens or finds no entry, and the only one open lands once nothing stands against it
(R213, R214, R290 to R298). Settles O14. -/

set_option Elab.async false

open Sys2Proof.Claim

namespace Sys2Proof.Machine

variable {s : State} {t : Thr} {c : Ctx} {rd : Reg}

/-! ### XBEGIN (R213, R292) -/

section
variable {imm : Imm} (h : Runs s t c [] []) (hx : c.xing = none)
include h hx

theorem exec_xbegin_opens {k : Nat} (hk : s.freeThreadEntry t.core = some k) :
    exec (.xbegin t rd imm) s =
      .next (landed ((s.noteIssue t).openXing k (s.newXing (.thread t.core c.tid) (s.posOf t.core) [] [] 1)) t
        { c.write rd 0 with xing := some { entry := k, rd := rd, target := c.pc + imm.setWidth 32 } }) := by
  have hk' : (s.noteIssue t).freeThreadEntry t.core = some k := hk
  show execXbegin t rd imm s = _
  rw [execXbegin, State.issue_of_runs h (List.Subset.refl _) (.inr hx)]
  simp only [hk']
  exact congrArg _ (State.retire_of_frame h rfl rfl Ctx.write_pc)

/-- With no free entry the abort path is taken at once, and counted (R214, R626). -/
theorem exec_xbegin_full (hk : s.freeThreadEntry t.core = none) :
    exec (.xbegin t rd imm) s = .next (((s.noteIssue t).count 0x1090).setCtxAt t
      { c.write rd (E.xingFull.setWidth 64) with pc := c.pc + imm.setWidth 32 }) := by
  have hk' : (s.noteIssue t).freeThreadEntry t.core = none := hk
  have hcounter : abortCounter E.xingFull = 0x1090 := by decide
  show execXbegin t rd imm s = _
  rw [execXbegin, State.issue_of_runs h (List.Subset.refl _) (.inr hx)]
  simp only [hk', State.xingFull, hcounter]

end

/-! ### XCOMMIT (R296 to R298) -/

/-- The translation of a range rests on the jobs and the configuration. -/
theorem State.spanOf_congr {u : State} {pos va n : Nat} {w : Bool} (hjobs : u.jobs = s.jobs) (hcfg : u.cfg = s.cfg) :
    u.spanOf pos va n w = s.spanOf pos va n w := by
  have hparts (fuel : Nat) : u.parts pos va w fuel n = s.parts pos va w fuel n := by
    induction fuel generalizing va n with
    | zero => rfl
    | succ fuel ih => cases n with
      | zero => rfl
      | succ n => simp only [State.parts, ih, State.xlate_congr hjobs hcfg]
  simp only [State.spanOf, hparts]

theorem State.spanOf_noteIssue {pos va n : Nat} {w : Bool} : (s.noteIssue t).spanOf pos va n w = s.spanOf pos va n w :=
  State.spanOf_congr rfl rfl

section
variable {o : XOpen} {x : XEntry}

/-- No other crossing bars the only one. -/
theorem State.xBarred_only (h : s.xings = [(o.entry, x)]) : s.xBarred o.entry x.reads x.wset = false := by
  simp [State.xBarred, h]

/-- Landing, the only crossing leaves the table empty and aborts none. -/
theorem State.landXing_only (h : s.xings = [(o.entry, x)]) : s.landXing o.entry x = ({ s with xings := [] } : State).count 0x1040 := by
  simp [State.landXing, State.dropXing, State.beats, State.abortWhere, h]

/-- The range of a held write is in reach, and nothing keeps it from its home (R355). -/
def State.mayLand (s : State) (pos : Nat) (w : Nat × List Byte) : Prop :=
  ∃ rs, s.spanOf pos w.1 w.2.length true = .runs rs ∧ ∀ r ∈ rs, s.needsCopy pos r.page = false ∧ s.pageHeld pos r.page = false

theorem State.mayLand_noteIssue {pos : Nat} {w : Nat × List Byte} (h : s.mayLand pos w) : (s.noteIssue t).mayLand pos w := by
  obtain ⟨rs, hruns, hfree⟩ := h
  exact ⟨rs, State.spanOf_noteIssue.trans hruns, hfree⟩

variable (h : Runs s t c [] []) (hx : c.xing = some o) (hxings : s.xings = [(o.entry, x)]) (htime : s.aoc < x.openedAt + x.timeout)
  (hdone : s.storesDone c.tid = true) (hsound : ∀ e ∈ x.reads ++ x.wset, s.entBad e = false)
  (hland : ∀ w ∈ x.writes, s.mayLand (s.posOf t.core) w)
include h hx hxings htime hdone hsound hland

/-- The only open crossing lands when nothing stands against it. -/
theorem exec_xcommit_lands : exec (.xcommit t rd) s = .next
    (((({ s.noteIssue t with xings := [] } : State).count 0x1040).applyWrites (s.posOf t.core) x.writes).retire t
      { c.write rd 0 with xing := none }) := by
  have hxings' : (s.noteIssue t).xings = [(o.entry, x)] := hxings
  have htime' : (s.noteIssue t).timedOut x = false := by
    rw [State.timedOut, State.noteIssue_aoc, decide_eq_false (Nat.not_le.2 htime), Bool.and_false]
  have hdone' : (s.noteIssue t).storesDone c.tid = true := hdone
  have hsound' : (x.reads ++ x.wset).any (s.noteIssue t).entBad = false := List.any_eq_false.2 fun e he => ne_true_of_eq_false (hsound e he)
  have hspan : ∀ w ∈ x.writes, (s.noteIssue t).mayLand ((s.noteIssue t).posOf t.core) w :=
    fun w hw => State.mayLand_noteIssue (hland w hw)
  show execXcommit t rd s = _
  rw [execXcommit, State.issue_of_runs h (List.Subset.refl _) (.inl rfl)]
  simp only [hx, hxings', List.find?_cons, beq_self_eq_true, htime', hdone', hsound', State.xBarred_only hxings', State.landXing_only hxings',
    Bool.not_true, Bool.false_eq_true, if_false]
  rw [if_neg, if_neg]
  · rfl
  · rw [List.any_eq_true]
    rintro ⟨w, hw, hcopies⟩
    obtain ⟨rs, hruns, hfree⟩ := hspan w hw
    simp only [hruns, List.any_eq_true] at hcopies
    obtain ⟨r, hr, hheld⟩ := hcopies
    simp [hfree r hr] at hheld
  · rw [List.any_eq_true]
    rintro ⟨w, hw, habsent⟩
    obtain ⟨rs, hruns, -⟩ := hspan w hw
    simp [hruns] at habsent

end

/-- Settles O14, by the entries that XBEGIN finds and by the commit of the only crossing. -/
theorem threadCrossings : Obligations.ThreadCrossings := by
  intro s t c rd h
  refine ⟨fun imm k hx hk => ⟨_, rfl, rfl, rfl, rfl, rfl, rfl, rfl, rfl, exec_xbegin_opens h hx hk⟩, fun imm hx hk => exec_xbegin_full h hx hk,
    fun o x hx _ hxings htime hdone hsound hland => exec_xcommit_lands h hx hxings htime hdone hsound hland⟩

end Sys2Proof.Machine
end

section
/-! SUPPORT. A thread fault: whatever crossing it aborts, the thread stays in its berth and the job's state with it; then the thread is
FAULTED and its running job ends (R178, R303). Settles O17. -/

set_option Elab.async false

open Sys2Proof.Claim

namespace Sys2Proof.Machine

/-! ### Contexts in berths (R166, R167) -/

/-- The context that a berth holds, resident or being swapped out. -/
def Berth.held : Berth → Option Ctx
  | .resident x => some x
  | .swappingOut x => some x
  | _ => none

/-- The berth with its context changed. -/
def Berth.mapHeld (f : Ctx → Ctx) : Berth → Berth
  | .resident x => .resident (f x)
  | .swappingOut x => .swappingOut (f x)
  | b => b

@[simp] theorem Berth.held_mapHeld (f : Ctx → Ctx) (b : Berth) : (b.mapHeld f).held = b.held.map f := by
  cases b <;> rfl

/-- The berth holds a context of this thread. -/
def Berth.isOf (b : Berth) (tid : Nat) : Bool := b.held.any fun x => x.tid == tid

theorem Core.find_eq (k : Core) (tid : Nat) : k.find tid = (k.berths.find? fun e => e.2.isOf tid).map Prod.fst := by
  unfold Core.find
  congr 2
  funext e
  obtain ⟨b, x⟩ := e
  cases x <;> rfl

/-- The berth that is found for a thread holds a context. -/
def Core.Holds (k : Core) (tid : Nat) : Prop := ∃ b x, k.find tid = some b ∧ (k.berth b).held = some x

/-- A value of the same test as the one it replaces is found at its own key, or what was found before is. -/
theorem find?_tput {α : Type} {p : α → Bool} {d v : α} {key : Nat} {l : Tbl α} (hv : p v = p (tget d key l)) :
    ((tput key v l).find? fun e => p e.2).map Prod.fst = (l.find? fun e => p e.2).map Prod.fst ∨
      ((tput key v l).find? fun e => p e.2).map Prod.fst = some key := by
  induction l with
  | nil => cases hp : p v <;> simp [tput, hp]
  | cons e r ih =>
    obtain ⟨j, w⟩ := e
    unfold tput
    split
    · cases hp : p v <;> simp [hp]
    · split
      next heq =>
        subst heq
        have hw : p v = p w := by simpa [tget] using hv
        cases hp : p v <;> simp [hp, ← hw]
      next hne =>
        have hrest : p v = p (tget d key r) := by simpa [tget, Ne.symm hne] using hv
        cases hp : p w
        · simpa [hp] using ih hrest
        · simp [hp]

section
variable {k : Core} {b tid : Nat} {nb : Berth} {x y : Ctx} (hold : (k.berth b).held = some x) (hnew : nb.held = some y) (htid : y.tid = x.tid)
include hold hnew htid

/-- A context that takes the place of one of the same thread is found there, or what was found before is. -/
theorem Core.find_setBerth : (k.setBerth b nb).find tid = k.find tid ∨ (k.setBerth b nb).find tid = some b := by
  have hsame : nb.isOf tid = (k.berth b).isOf tid := by simp [Berth.isOf, hold, hnew, htid]
  have hfree : nb ≠ .free := by
    rintro rfl
    cases hnew
  have hberths : (k.setBerth b nb).berths = tput b nb k.berths := if_neg hfree
  rw [Core.find_eq, Core.find_eq, hberths]
  exact find?_tput (p := fun z : Berth => z.isOf tid) hsame

theorem Core.Holds.setBerth {τ : Nat} (h : k.Holds τ) : (k.setBerth b nb).Holds τ := by
  obtain ⟨a, z, hfind, hz⟩ := h
  rcases Core.find_setBerth (tid := τ) hold hnew htid with hkept | hmoved
  · by_cases hab : a = b
    · exact ⟨a, y, hkept.trans hfind, by rw [hab, Core.berth_setBerth_self, hnew]⟩
    · exact ⟨a, z, hkept.trans hfind, by rw [Core.berth_setBerth_ne hab, hz]⟩
  · exact ⟨b, y, hmoved, by rw [Core.berth_setBerth_self, hnew]⟩

end

/-! ### Changing a thread (R167) -/

/-- `u` has every job in its state of `s` and every thread in a berth that `s` has there. -/
def State.Steady (s u : State) : Prop :=
  (∀ pos, (u.job pos).st = (s.job pos).st) ∧ ∀ k tid, (s.core k).Holds tid → (u.core k).Holds tid

section
variable {s u v : State} {tid pos : Nat} {f : Ctx → Ctx}

theorem State.Steady.refl : s.Steady s := ⟨fun _ => rfl, fun _ _ h => h⟩

theorem State.Steady.trans (h : s.Steady u) (h' : u.Steady v) : s.Steady v :=
  ⟨fun pos => (h'.1 pos).trans (h.1 pos), fun k tid hk => h'.2 k tid (h.2 k tid hk)⟩

/-- States with the same cores and jobs. -/
theorem State.Steady.of_eq (hcores : u.cores = s.cores) (hjobs : u.jobs = s.jobs) : s.Steady u := by
  refine ⟨fun pos => ?_, fun k tid h => ?_⟩
  · rw [State.job, hjobs]
    rfl
  · rw [State.core, hcores]
    exact h

@[simp] theorem State.core_setCore_self {k : Nat} {x : Core} : (s.setCore k x).core k = x := tget_tset_self

/-- A context in a berth gives way to one of the same thread. -/
theorem State.Steady.setBerth {k b : Nat} {nb : Berth} {x y : Ctx} (hold : ((s.core k).berth b).held = some x) (hnew : nb.held = some y)
    (htid : y.tid = x.tid) : s.Steady (s.setCore k ((s.core k).setBerth b nb)) := by
  refine ⟨fun _ => rfl, fun j τ h => ?_⟩
  by_cases hj : j = k
  · subst hj
    rw [State.core_setCore_self]
    exact h.setBerth hold hnew htid
  · rwa [show (s.setCore k ((s.core k).setBerth b nb)).core j = s.core j from tget_tset_ne hj]

/-- Changing a thread without renaming it. -/
theorem State.steady_updThread (hf : ∀ c, (f c).tid = c.tid) : s.Steady (s.updThread tid f) := by
  unfold State.updThread
  dsimp only
  split
  · split
    next hb => exact .setBerth (congrArg Berth.held hb) rfl (hf _)
    next hb => exact .setBerth (congrArg Berth.held hb) rfl (hf _)
    next => exact .refl
  · refine ⟨fun pos => ?_, fun _ _ h => h⟩
    by_cases hpos : pos = s.posOf (coreOfTid tid)
    · rw [hpos, State.job_updJob_self]
    · rw [State.job_updJob_ne hpos]

/-- The abort path does not rename a thread. -/
theorem Ctx.abortXing_tid (c : Ctx) (code : Code) : (c.abortXing code).tid = c.tid := by
  unfold Ctx.abortXing
  split
  · rfl
  · dsimp only
    unfold Ctx.setReg
    split <;> rfl

theorem State.steady_abortXing {k : Nat} {code : Code} : s.Steady (s.abortXing k code) := by
  unfold State.abortXing
  split
  · exact .refl
  next x _ =>
    dsimp only
    generalize hu : (if code = E.xingConflict ∨ code = E.xingTimeout then _ else _ : State) = u
    have hs : s.Steady u := by
      subst hu
      split <;> split <;> exact .of_eq rfl rfl
    have hgone : s.Steady { u with xings := u.xings.filter fun e => e.1 != k } := hs.trans (.of_eq rfl rfl)
    split
    · exact hgone.trans (State.steady_updThread fun c => c.abortXing_tid code)
    · split
      · exact hs.trans (.of_eq rfl rfl)
      · exact hgone
    · split
      · exact hs.trans (.of_eq rfl rfl)
      · exact hgone
    · exact hgone
    · exact hgone.trans (.of_eq rfl rfl)

/-- A thread in a berth is changed where it stands. -/
theorem State.updThread_of_held {b : Nat} {x : Ctx} (hfind : (s.core (coreOfTid tid)).find tid = some b)
    (hheld : ((s.core (coreOfTid tid)).berth b).held = some x) :
    s.updThread tid f =
      s.setCore (coreOfTid tid) ((s.core (coreOfTid tid)).setBerth b (((s.core (coreOfTid tid)).berth b).mapHeld f)) := by
  simp only [State.updThread, hfind]
  cases hb : (s.core (coreOfTid tid)).berth b with
  | resident z => rfl
  | swappingOut z => rfl
  | _ => simp [hb, Berth.held] at hheld

/-- The thread of a found berth is the context it holds. -/
theorem State.thread_of_held {b : Nat} {x : Ctx} (hfind : (s.core (coreOfTid tid)).find tid = some b)
    (hheld : ((s.core (coreOfTid tid)).berth b).held = some x) : s.thread tid = some x := by
  simp only [State.thread, hfind]
  cases hb : (s.core (coreOfTid tid)).berth b with
  | resident z => simpa [hb, Berth.held] using hheld
  | swappingOut z => simpa [hb, Berth.held] using hheld
  | _ => simp [hb, Berth.held] at hheld

/-- A thread that is found in a berth stands there. -/
theorem State.holds_of_thread {x : Ctx} (h : s.thread tid = some x) (hfind : ((s.core (coreOfTid tid)).find tid).isSome = true) :
    (s.core (coreOfTid tid)).Holds tid := by
  obtain ⟨b, hb⟩ := Option.isSome_iff_exists.1 hfind
  refine ⟨b, x, hb, ?_⟩
  simp only [State.thread, hb] at h
  cases hk : (s.core (coreOfTid tid)).berth b with
  | resident z => simpa [hk, Berth.held] using h
  | swappingOut z => simpa [hk, Berth.held] using h
  | _ => simp [hk] at h

/-- The changed context is found in a berth of the changed state. -/
theorem State.held_updThread (hf : ∀ c, (f c).tid = c.tid) (h : (s.core (coreOfTid tid)).Holds tid) :
    ∃ b x, ((s.updThread tid f).core (coreOfTid tid)).find tid = some b ∧
      (((s.updThread tid f).core (coreOfTid tid)).berth b).held = some (f x) := by
  obtain ⟨b, x, hfind, hheld⟩ := h
  have hnew : (((s.core (coreOfTid tid)).berth b).mapHeld f).held = some (f x) := by rw [Berth.held_mapHeld, hheld, Option.map_some]
  refine ⟨b, x, ?_⟩
  rw [State.updThread_of_held hfind hheld, State.core_setCore_self, Core.berth_setBerth_self]
  exact ⟨(Core.find_setBerth hheld hnew (hf x)).elim (fun hk => hk.trans hfind) id, hnew⟩

end

/-! ### The fault (R178) -/

section
variable {s : State} {pos tid : Nat} {pc : W32} {code : Code} {f : FaultEv}

/-- An event leaves the module through the ports. -/
theorem State.evFault_frame : (s.evFault code f).cores = s.cores ∧ (s.evFault code f).jobs = s.jobs := by
  have hposts (l : List Nat) (e : Event) (u : State) :
      (l.foldl (fun s g => s.post g e) u).cores = u.cores ∧ (l.foldl (fun s g => s.post g e) u).jobs = u.jobs := by
    induction l generalizing u with
    | nil => exact ⟨rfl, rfl⟩
    | cons p l ih => exact ih (u.post p e)
  unfold State.evFault State.postOwner
  dsimp only
  split
  · exact ⟨rfl, rfl⟩
  · split
    · exact hposts _ _ _
    · exact hposts _ _ _

theorem State.settleDev_frame : s.settleDev.cores = s.cores ∧ s.settleDev.jobs = s.jobs := by
  unfold State.settleDev State.setDev
  dsimp only
  split
  · split <;> exact ⟨rfl, rfl⟩
  · split
    · split <;> exact ⟨rfl, rfl⟩
    · exact ⟨rfl, rfl⟩

theorem State.jobFault_cores : (s.jobFault pos code f).cores = s.cores := by
  unfold State.jobFault State.endJob
  split
  · split
    · exact State.settleDev_frame.1.trans State.evFault_frame.1
    · exact State.evFault_frame.1
  · rfl

/-- A running job that faults ends with the code. -/
theorem State.job_jobFault (h : (s.job pos).st = .running) : ((s.jobFault pos code f).job pos).st = .ending ∧
    ((s.jobFault pos code f).job pos).reason = .faulted ∧ ((s.jobFault pos code f).job pos).code = code := by
  have hrun : ((s.evFault code f).job pos).st = .running := by rwa [State.job, State.evFault_frame.2]
  have hjob : (s.jobFault pos code f).job pos = { (s.evFault code f).job pos with st := .ending, reason := .faulted, code := code } := by
    rw [State.jobFault, if_pos h, State.endJob, if_pos hrun, State.job, State.settleDev_frame.2]
    exact State.job_updJob_self
  rw [hjob]
  exact ⟨rfl, rfl, rfl⟩

/-- The thread's crossing, if one is open, aborts (R303). -/
def State.withoutCrossing (s : State) (tid : Nat) : State :=
  match (s.thread tid).bind fun c => c.xing with
  | some x => s.abortXing x.entry E.noJob
  | none => s

/-- The thread stands FAULTED at a PC. -/
def State.markFaulted (s : State) (tid : Nat) (pc : W32) : State :=
  (s.withoutCrossing tid).updThread tid fun c => { c with status := .faulted, pc := pc }

theorem State.threadFault_eq : s.threadFault tid pc code =
    ((s.markFaulted tid pc).updCore (coreOfTid tid) fun k => k.leaveSets (((s.core (coreOfTid tid)).find tid).getD 0xFFFD)).jobFault
      (s.posOf (coreOfTid tid)) code { job := s.posOf (coreOfTid tid), core := coreOfTid tid
                                       berth := ((s.core (coreOfTid tid)).find tid).getD 0xFFFD, tid := tid, pc := pc.toNat } := rfl

theorem State.steady_withoutCrossing : s.Steady (s.withoutCrossing tid) := by
  unfold State.withoutCrossing
  split
  · exact State.steady_abortXing
  · exact .refl

/-- A thread fault leaves a thread in its berth FAULTED at the PC given, and its running job ending. -/
theorem faultsThread_threadFault : faultsThread s tid pc code (s.threadFault tid pc code) := by
  refine ⟨fun x hx hfind => ?_, fun hrun => ?_⟩
  · have hholds := (State.steady_withoutCrossing (tid := tid)).2 (coreOfTid tid) tid (State.holds_of_thread hx hfind)
    obtain ⟨b, y, hb, hy⟩ := State.held_updThread (f := fun c => { c with status := .faulted, pc := pc }) (fun _ => rfl) hholds
    have hcore : (s.threadFault tid pc code).core (coreOfTid tid) =
        ((s.markFaulted tid pc).core (coreOfTid tid)).leaveSets (((s.core (coreOfTid tid)).find tid).getD 0xFFFD) := by
      rw [State.threadFault_eq, State.core, State.jobFault_cores]
      exact State.core_updCore_self
    refine ⟨{ y with status := .faulted, pc := pc }, State.thread_of_held (b := b) ?_ ?_, rfl, rfl⟩
    · rw [hcore]
      exact hb
    · rw [hcore]
      exact hy
  · have hsteady : s.Steady (s.markFaulted tid pc) := State.steady_withoutCrossing.trans (State.steady_updThread fun _ => rfl)
    exact State.job_jobFault ((hsteady.1 _).trans hrun)

end

/-- Settles O17: the undefined word issues and faults its thread, as every thread fault does. -/
theorem illegalWordFaults : Obligations.IllegalWordFaults := by
  intro s t c w h hw u
  refine ⟨?_, faultsThread_threadFault⟩
  show execIllegalInstruction t w s = _
  rw [execIllegalInstruction, if_neg (ne_true_of_eq_false hw), State.issue_of_runs h (List.Subset.refl _) (.inl rfl)]
  rfl

end Sys2Proof.Machine
end

section
/-! SUPPORT. TAKE and GIVE: on a slot's first word the operation reaches the token, which moves as the table of R230 says; what R233 names
faults the thread, and a thread fault leaves every token alone (R228 to R233). Settles O10 and O18. -/

set_option Elab.async false

open Sys2Proof.Claim

namespace Sys2Proof.Machine

/-! ### TAKE and GIVE at their slot (R228, R233) -/

section
variable {s : State} {t : Thr} {c : Ctx} {ra : Reg} {imm : Imm} {i : Nat} {a : SlotAt} {rs : List Reg}
  {body : Ctx → SlotAt → State → State} (h : Runs s t c rs []) (hsub : [ra] ⊆ rs) (hx : c.xing = none) (hi : c.wordIndex ra imm = some i)
  (hown : s.posOf (i / 2 ^ 20) = s.posOf t.core)
include h hsub hx hi hown

/-- A word in no ring. -/
theorem slotOp_of_no_slot (hslot : s.slotAt (s.posOf t.core) i = none) :
    slotOp t ra imm body s = (s.noteIssue t).threadFault c.tid c.pc E.argRange := by
  have hok : (s.noteIssue t).wordOk ((s.noteIssue t).posOf t.core) i = true := beq_iff_eq.2 hown
  have hslot' : (s.noteIssue t).slotAt ((s.noteIssue t).posOf t.core) i = none := hslot
  rw [slotOp, State.issue_of_runs h hsub (.inr hx)]
  simp only [hi, hok, hslot', Bool.not_true, Bool.false_eq_true, if_false]
  rfl

variable (hslot : s.slotAt (s.posOf t.core) i = some a)
include hslot

/-- A word of a slot: its first reaches the token, every other faults. -/
theorem slotOp_of_slot : slotOp t ra imm body s =
    if a.at_ = 0 then body c a (s.noteIssue t) else (s.noteIssue t).threadFault c.tid c.pc E.argRange := by
  have hok : (s.noteIssue t).wordOk ((s.noteIssue t).posOf t.core) i = true := beq_iff_eq.2 hown
  have hslot' : (s.noteIssue t).slotAt ((s.noteIssue t).posOf t.core) i = some a := hslot
  rw [slotOp, State.issue_of_runs h hsub (.inr hx)]
  simp only [hi, hok, hslot', Bool.not_true, Bool.false_eq_true, if_false]
  rfl

variable (hfirst : a.at_ = 0)
include hfirst

/-- The holder's own TAKE. -/
theorem takeOp_of_holder {op : TokOp} (hholder : (s.tok a).holder = some c.tid) :
    takeOp op t ra imm .clean s = (s.noteIssue t).threadFault c.tid c.pc E.argFormat := by
  rw [takeOp, slotOp_of_slot h hsub hx hi hown hslot, if_pos hfirst]
  simp only [State.entryRead, State.tok_noteIssue, hholder, if_true]
  rfl

/-- A TAKE that the token allows. -/
theorem takeOp_of_allows {op : TokOp} (hfree : (s.tok a).holder = none) (hallows : (s.tok a).allows op = true) :
    takeOp op t ra imm .clean s =
      (landed ((s.noteIssue t).setTok a ((s.tok a).after a c.tid op)) t c).walkAll a := by
  have hretire : ((s.noteIssue t).setTok a ((s.tok a).after a c.tid op)).retire t c =
      landed ((s.noteIssue t).setTok a ((s.tok a).after a c.tid op)) t c := State.retire_of_frame h rfl rfl rfl
  rw [takeOp, slotOp_of_slot h hsub hx hi hown hslot, if_pos hfirst]
  simp only [State.entryRead, State.tok_noteIssue, hfree, reduceCtorEq, if_false]
  rw [State.tokenOp_of_allows (by rwa [State.tok_noteIssue]), State.tok_noteIssue, hretire]

/-- A GIVE by another thread. -/
theorem giveOp_of_not_holder {full : Bool} (hholder : (s.tok a).holder ≠ some c.tid) :
    giveOp full t ra imm .clean s = (s.noteIssue t).threadFault c.tid c.pc E.argFormat := by
  rw [giveOp, slotOp_of_slot h hsub hx hi hown hslot, if_pos hfirst]
  simp only [State.entryRead, State.tok_noteIssue, ne_eq, hholder, not_false_eq_true, if_true]
  rfl

/-- A GIVE by the holder, whose stores are performed (R205). -/
theorem giveOp_of_holder {full : Bool} (hholder : (s.tok a).holder = some c.tid) (hdone : s.storesDone c.tid = true) :
    giveOp full t ra imm .clean s =
      (landed ((s.noteIssue t).setTok a { s.tok a with full := full, holder := none }) t c).walkAll a := by
  have hdone' : (s.noteIssue t).storesDone c.tid = true := hdone
  have hretire : ((s.noteIssue t).setTok a { s.tok a with full := full, holder := none }).retire t c =
      landed ((s.noteIssue t).setTok a { s.tok a with full := full, holder := none }) t c := State.retire_of_frame h rfl rfl rfl
  rw [giveOp, slotOp_of_slot h hsub hx hi hown hslot, if_pos hfirst]
  simp only [State.entryRead, State.tok_noteIssue, hholder, hdone', ne_eq, not_true_eq_false, Bool.not_true, Bool.false_eq_true, if_false]
  rw [hretire]

end

theorem Tok.allows_takeF {k : Tok} : k.allows .takeF = true ↔ k.holder = none ∧ k.full = true := by
  simp [Tok.allows]

theorem Tok.allows_takeE {k : Tok} : k.allows .takeE = true ↔ k.holder = none ∧ k.full = false := by
  simp [Tok.allows]

/-- Settles O10, instruction by instruction. -/
theorem takeAndGive : Obligations.TakeAndGive := by
  intro s t c ra imm i a h hx hat hfirst k u
  obtain ⟨hi, hown, hslot⟩ := hat
  refine ⟨fun hfree hfull => ?_, fun hfree hempty => ?_, fun hholder hdone => ⟨?_, ?_⟩⟩
  · exact congrArg Host.Outcome.next
      (takeOp_of_allows h (List.Subset.refl _) hx hi hown hslot hfirst hfree (Tok.allows_takeF.2 ⟨hfree, hfull⟩))
  · exact congrArg Host.Outcome.next
      (takeOp_of_allows h (List.Subset.refl _) hx hi hown hslot hfirst hfree (Tok.allows_takeE.2 ⟨hfree, hempty⟩))
  · exact congrArg Host.Outcome.next (giveOp_of_holder h (List.Subset.refl _) hx hi hown hslot hfirst hholder hdone)
  · exact congrArg Host.Outcome.next (giveOp_of_holder h (List.Subset.refl _) hx hi hown hslot hfirst hholder hdone)

/-! ### A thread fault and the tokens (R178, R233) -/

/-- `u` has the token stores of `s`. -/
def State.TokensKept (s u : State) : Prop := ∀ k, (u.core k).tokens = (s.core k).tokens

section
variable {s u v : State} {tid : Nat} {code : Code}

theorem State.TokensKept.tok_eq (h : s.TokensKept u) (a : SlotAt) : u.tok a = s.tok a := by rw [State.tok, State.tok, h]

theorem State.TokensKept.trans (h : s.TokensKept u) (h' : u.TokensKept v) : s.TokensKept v := fun k => (h' k).trans (h k)

theorem State.TokensKept.of_cores (h : u.cores = s.cores) : s.TokensKept u := fun k => by rw [State.core, h, State.core]

/-- A core gives way to one with the same token store. -/
theorem State.tokensKept_setCore {k : Nat} {x : Core} (hx : x.tokens = (s.core k).tokens) : s.TokensKept (s.setCore k x) := fun j => by
  by_cases hj : j = k
  · rw [hj, State.core_setCore_self, hx]
  · rw [show (s.setCore k x).core j = s.core j from tget_tset_ne hj]

theorem State.tokensKept_updCore {k : Nat} {f : Core → Core} (hf : ∀ x, (f x).tokens = x.tokens) : s.TokensKept (s.updCore k f) :=
  State.tokensKept_setCore (hf _)

theorem State.tokensKept_updThread {f : Ctx → Ctx} : s.TokensKept (s.updThread tid f) := by
  unfold State.updThread
  dsimp only
  split
  · split
    · exact State.tokensKept_setCore rfl
    · exact State.tokensKept_setCore rfl
    · exact .of_cores rfl
  · exact .of_cores rfl

theorem State.tokensKept_abortXing {k : Nat} : s.TokensKept (s.abortXing k code) := by
  unfold State.abortXing
  split
  · exact .of_cores rfl
  · dsimp only
    generalize hu : (if code = E.xingConflict ∨ code = E.xingTimeout then _ else _ : State) = u
    have hs : s.TokensKept u := by
      subst hu
      split <;> split <;> exact .of_cores rfl
    split
    next => exact hs.trans (State.TokensKept.of_cores rfl |>.trans State.tokensKept_updThread)
    next => split <;> exact hs
    next => split <;> exact hs
    next => exact hs
    next => exact hs

theorem State.tokensKept_withoutCrossing : s.TokensKept (s.withoutCrossing tid) := by
  unfold State.withoutCrossing
  split
  · exact State.tokensKept_abortXing
  · exact .of_cores rfl

theorem State.tokensKept_threadFault {pc : W32} : s.TokensKept (s.threadFault tid pc code) := by
  have hmarked : s.TokensKept (s.markFaulted tid pc) := State.tokensKept_withoutCrossing.trans State.tokensKept_updThread
  rw [State.threadFault_eq]
  refine (hmarked.trans (State.tokensKept_updCore ?_)).trans (.of_cores State.jobFault_cores)
  exact fun _ => rfl

end

theorem State.tokensKept_noteIssue {s : State} {t : Thr} : s.TokensKept (s.noteIssue t) := State.tokensKept_updCore fun _ => rfl

/-! ### The faults of R233 -/

/-- Every TAKE and GIVE is a slot operation. -/
theorem exec_slotOp_of_mem {s : State} {t : Thr} {ra : Reg} {imm : Imm} {o : Instr}
    (ho : o ∈ [Instr.takeF t ra imm .clean, .takeE t ra imm .clean] ++ [Instr.giveF t ra imm .clean, .giveE t ra imm .clean]) :
    ∃ body, exec o s = .next (slotOp t ra imm body s) := by
  simp only [List.cons_append, List.nil_append, List.mem_cons, List.not_mem_nil, or_false] at ho
  rcases ho with rfl | rfl | rfl | rfl <;> exact ⟨_, rfl⟩

theorem State.tokenSlot_of_no_slot {s : State} {t : Thr} {c : Ctx} {ra : Reg} {imm : Imm} {i : Nat} (hi : c.wordIndex ra imm = some i)
    (hslot : s.slotAt (s.posOf t.core) i = none) : s.tokenSlot t c ra imm = none := by
  simp only [State.tokenSlot, hi, hslot, Option.map_none, ite_self]

section
variable {s : State} {t : Thr} {c : Ctx} {rd ra rb : Reg} {imm : Imm} {i : Nat} (h : Runs s t c [ra, rb] []) (hx : c.xing = none)
  (hi : c.wordIndex ra imm = some i) (hslot : s.slotAt (s.posOf t.core) i = none)
include h hx hi hslot

theorem exec_ldwTk_of_no_slot :
    exec (.ldwTk t rd ra imm .clean) s = .next ((s.noteIssue t).threadFault c.tid c.pc E.argRange) := by
  have hnone : (s.noteIssue t).tokenSlot t c ra imm = none := State.tokenSlot_of_no_slot hi hslot
  show execLdwTk t rd ra imm .clean s = _
  rw [execLdwTk, State.issue_of_runs h (by simp) (.inr hx)]
  simp only [hnone]
  rfl

theorem exec_stwTk_of_no_slot :
    exec (.stwTk t ra rb imm .clean) s = .next ((s.noteIssue t).threadFault c.tid c.pc E.argRange) := by
  have hnone : (s.noteIssue t).tokenSlot t c ra imm = none := State.tokenSlot_of_no_slot hi hslot
  show execStwTk t ra rb imm .clean s = _
  rw [execStwTk, State.issue_of_runs h (List.Subset.refl _) (.inr hx)]
  simp only [hnone]
  rfl

end

/-- Settles O18: each fault at its check, and no token moves in a thread fault. -/
theorem tokenFaults : Obligations.TokenFaults := by
  intro s t c rd ra rb imm i h hx hi hown fault takes gives
  have hsub : [ra] ⊆ [ra, rb] := by simp
  refine ⟨fun hslot o ho => ?_, fun a hslot => ⟨fun hinner o ho => ?_, fun hfirst hholder o ho => ?_, fun hfirst hholder o ho => ?_⟩,
    fun code => ⟨faultsThread_threadFault, fun a => ?_⟩⟩
  · rcases List.mem_append.1 ho with hop | htk
    · obtain ⟨body, hbody⟩ := exec_slotOp_of_mem (s := s) hop
      rw [hbody, slotOp_of_no_slot h hsub hx hi hown hslot]
    · simp only [List.mem_cons, List.not_mem_nil, or_false] at htk
      rcases htk with rfl | rfl
      · exact exec_ldwTk_of_no_slot h hx hi hslot
      · exact exec_stwTk_of_no_slot h hx hi hslot
  · obtain ⟨body, hbody⟩ := exec_slotOp_of_mem (s := s) ho
    rw [hbody, slotOp_of_slot h hsub hx hi hown hslot, if_neg hinner]
  · simp only [gives, List.mem_cons, List.not_mem_nil, or_false] at ho
    rcases ho with rfl | rfl <;>
      exact congrArg Host.Outcome.next (giveOp_of_not_holder h hsub hx hi hown hslot hfirst hholder)
  · simp only [takes, List.mem_cons, List.not_mem_nil, or_false] at ho
    rcases ho with rfl | rfl <;>
      exact congrArg Host.Outcome.next (takeOp_of_holder h hsub hx hi hown hslot hfirst hholder)
  · exact (State.tokensKept_noteIssue.trans State.tokensKept_threadFault).tok_eq a

end Sys2Proof.Machine
end

section
/-! SUPPORT. Crossings of firmware: validation, commit and timeout of an eviction and a map-out, and the stages of a step commit (R242, R293
to R302, R337, R358 to R361). Settles O37. -/

set_option Elab.async false

open Sys2Proof.Claim

namespace Sys2Proof.Machine

variable {s : State} {k : Nat} {x : XEntry}

theorem State.timedOut_of_committing (hst : x.st = .committing) : s.timedOut x = false := by
  simp [State.timedOut, hst]

theorem State.timedOut_of_due (hst : x.st ≠ .committing) (hdue : x.openedAt + x.timeout ≤ s.aoc) : s.timedOut x = true := by
  simp [State.timedOut, hst, hdue]

/-! ### CROSSING_COMMIT (R296, R301, R312) -/

/-- What a crossing of the table does once COMMITTING. -/
def State.landTable (s : State) (k : Nat) (x : XEntry) : State := match x.opener with
  | .evict pos page => s.landEvict k x pos page
  | .rowMapOut rows failed unrepaired => s.landRows k x rows failed unrepaired
  | _ => s

/-- The crossing is an eviction or a map-out. -/
def XEntry.ofTable (x : XEntry) : Prop :=
  (∃ pos page, x.opener = .evict pos page) ∨ ∃ rows failed unrepaired, x.opener = .rowMapOut rows failed unrepaired

section
variable (hx : s.xing k = some x) (hup : s.fwUp = true)
include hx hup

/-- Validation: an error aborts the crossing. -/
theorem exec_crossingCommit_validation (hop : x.ofTable) (hst : x.st ≠ .committing) (hin : s.timedOut x = false) :
    exec (.crossingCommit k .validation) s = .next (s.abortXing k E.uncorrectable) := by
  show execCrossingCommit k .validation s = _
  rcases hop with ⟨pos, page, hop⟩ | ⟨rows, failed, unrepaired, hop⟩ <;> simp [execCrossingCommit, hx, hup, hin, hop, hst]

/-- A crossing that finds nothing wrong is COMMITTING. -/
theorem exec_crossingCommit_validated (hop : x.ofTable) (hst : x.st ≠ .committing) (hin : s.timedOut x = false)
    (hcode : s.xingCode x = E.ok) : exec (.crossingCommit k .none) s = .next (s.validated k x) := by
  show execCrossingCommit k .none s = _
  rcases hop with ⟨pos, page, hop⟩ | ⟨rows, failed, unrepaired, hop⟩ <;> simp [execCrossingCommit, hx, hup, hin, hop, hst, hcode]

/-- An eviction whose page is dirty again, pinned or gone aborts. -/
theorem exec_crossingCommit_dirty {pos page : Nat} (hop : x.opener = .evict pos page) (hst : x.st ≠ .committing)
    (hin : s.timedOut x = false) (hclean : (x.reads ++ x.wset).any s.entBad = false) (hdirty : s.evictsClean pos page = false) :
    exec (.crossingCommit k .none) s = .next (s.abortXing k E.xingConflict) := by
  have hcode : s.xingCode x = E.xingConflict := by
    simp only [State.xingCode, hclean, hop, hdirty, Bool.false_eq_true, if_false]
  have hne : E.xingConflict ≠ E.ok := by decide
  show execCrossingCommit k .none s = _
  simp [execCrossingCommit, hx, hup, hin, hop, hst, hcode, hne]

/-- COMMITTING, an error in its own writes is fatal. -/
theorem exec_crossingCommit_half (hop : x.ofTable) (hst : x.st = .committing) : exec (.crossingCommit k .commit) s =
    .next ((s.dropXing k).enterFaulted 8 E.uncorrectable 0 0xFFFFFFFF 0xFFFF) := by
  have hin := s.timedOut_of_committing hst
  show execCrossingCommit k .commit s = _
  rcases hop with ⟨pos, page, hop⟩ | ⟨rows, failed, unrepaired, hop⟩ <;> simp [execCrossingCommit, hx, hup, hin, hop, hst]

/-- COMMITTING, it lands. -/
theorem exec_crossingCommit_lands (hop : x.ofTable) (hst : x.st = .committing) :
    exec (.crossingCommit k .none) s = .next (s.landTable k x) := by
  have hin := s.timedOut_of_committing hst
  show execCrossingCommit k .none s = _
  rcases hop with ⟨pos, page, hop⟩ | ⟨rows, failed, unrepaired, hop⟩ <;>
    simp [execCrossingCommit, State.landTable, hx, hup, hin, hop, hst]

end

theorem tableCrossings_hold : tableCrossings := by
  intro s k x hx hup hop
  refine ⟨fun hst hin => ⟨exec_crossingCommit_validation hx hup hop hst hin, exec_crossingCommit_validated hx hup hop hst hin,
      fun pos page hevict => exec_crossingCommit_dirty hx hup hevict hst hin⟩,
    fun hst => ⟨exec_crossingCommit_half hx hup hop hst, fun pos page e hevict hpage => ?_,
      fun rows failed unrepaired r hrows hstore => ?_⟩⟩
  · rw [exec_crossingCommit_lands hx hup hop hst, State.landTable, hevict]
    simp only [State.landEvict, hpage]
  · rw [exec_crossingCommit_lands hx hup hop hst, State.landTable, hrows]
    simp only [State.landRows, hstore, ne_eq, not_true_eq_false, if_false]

/-! ### CROSSING_TIMEOUT (R293, R302, R309) -/

/-- A crossing that has not begun to commit in time aborts as its opener says. -/
theorem exec_crossingTimeout (hx : s.xing k = some x) (hst : x.st ≠ .committing) (hdue : x.openedAt + x.timeout ≤ s.aoc) :
    exec (.crossingTimeout k) s = .next (s.timeoutXing k x) := by
  show execCrossingTimeout k s = _
  simp only [execCrossingTimeout, hx, State.timedOut_of_due hst hdue, if_true]

theorem crossingsTimeOut_hold : crossingsTimeOut := by
  intro s k x hx hst hdue
  rw [exec_crossingTimeout hx hst hdue]
  refine ⟨fun core t hop => ?_, fun p h hop => ?_, fun d hop hd => ?_⟩
  · simp only [State.timeoutXing, hop]
  · simp only [State.timeoutXing, hop]
  · simp only [State.timeoutXing, hop, hd, State.stepFails]

/-! ### STEP_COMMIT (R294, R302, R358, R359) -/

/-- The write set of a step commit: a mooring that is due adds the protection of its set (R288, R360). -/
def State.stepSet (s : State) (d : EpochDecl) : List XEnt :=
  XEnt.epochTable :: s.stepGranule d ++ if s.moor.st = .due then [.protect 0 moorSetEntry] else []

/-- Its actions (R302). -/
def State.stepActs (s : State) : Nat := if s.moor.st = .due then 3 else 2

section
variable {d : EpochDecl} (hd : s.epochDecl = some d) (hnone : s.stepXing = none)
  (hserve : (s.job 0).reqServed < (s.ctr 0 d.stepCtr).toNat) (hk : s.freeFwEntry = some k) (hread : s.badRange 0 d.stepReq 64 = false)
include hd hnone hserve hk hread

theorem exec_stepCommit_refused (hrefused : (s.job 0).refusesCursors (requestCursors (s.readJob 0 d.stepReq 64)) = true) :
    exec .stepCommit s = .next (s.stepAnswer d E.argRange (2 ^ 64 - 1)) := by
  have hopen : ¬ (s.ctr 0 d.stepCtr).toNat ≤ (s.job 0).reqServed := Nat.not_le.2 hserve
  show execStepCommit s = _
  simp [execStepCommit, hd, hnone, hopen, hk, hread, hrefused]

theorem exec_stepCommit_opens (hmay : (s.job 0).refusesCursors (requestCursors (s.readJob 0 d.stepReq 64)) = false) :
    exec .stepCommit s = .next (s.openXing k { s.newXing (.stepCommit 0) 0 [] (s.stepSet d) s.stepActs with
      writes := [(0, s.readJob 0 d.stepReq 64)], st := if (s.job 0).pinned then .waiting else .opened }) := by
  have hopen : ¬ (s.ctr 0 d.stepCtr).toNat ≤ (s.job 0).reqServed := Nat.not_le.2 hserve
  show execStepCommit s = _
  simp [execStepCommit, State.stepSet, State.stepActs, hd, hnone, hopen, hk, hread, hmay]

end

/-! ### STEP_COMMIT_LAND (R296, R301, R360, R361) -/

section
variable {d : EpochDecl} (hx : s.stepXing = some (k, x)) (hman : (s.job 0).man.epochs = some d)
include hx hman

section
variable (hst : x.st ≠ .committing) (hd : s.epochDecl = some d) (hin : s.timedOut x = false) (hpin : (s.job 0).pinned = false)
  (hheld : s.stepHeld d = false)
include hst hd hin hpin hheld

/-- A step commit that nothing holds back is validated: an error in an entry, then its cursors, then COMMITTING. -/
theorem exec_stepCommitLand_validates (err : XErr) : exec (.stepCommitLand err) s = .next (
    if err = .validation || (x.reads ++ x.wset).any s.entBad then s.stepFails k d E.uncorrectable
    else if (s.job 0).refusesCursors (requestCursors x.record) then s.stepFails k d E.argRange
    else s.validated k x) := by
  have hst' : (x.st == .committing) = false := by simpa using hst
  have hd' : s.epochDecl.isNone = false := by rw [hd]; rfl
  show execStepCommitLand err s = _
  simp only [execStepCommitLand, hx, hman, hst', hd', hin, hpin, hheld, Bool.or_self, Bool.false_eq_true, if_false]

end

section
variable (hst : x.st = .committing)
include hst

theorem exec_stepCommitLand_lands : exec (.stepCommitLand .none) s = .next (s.landStep k x d) := by
  show execStepCommitLand .none s = _
  simp [execStepCommitLand, hx, hman, hst]

theorem exec_stepCommitLand_half : exec (.stepCommitLand .commit) s =
    .next ((s.dropXing k).enterFaulted 8 E.uncorrectable x.opener.laws x.opener.locator 0xFFFF) := by
  show execStepCommitLand .commit s = _
  simp [execStepCommitLand, hx, hman, hst]

end

end

theorem stepCommits_hold : stepCommits := by
  intro s k x d
  refine ⟨fun hd hnone hserve hk hread => ⟨exec_stepCommit_refused hd hnone hserve hk hread,
      fun hmay wset acts hdue hidle => ?_⟩, fun hx hman hst hd hin hpin hheld => ?_,
    fun hx hman hst => ⟨?_, exec_stepCommitLand_half hx hman hst⟩⟩
  · have hset : wset = s.stepSet d ∧ acts = s.stepActs := by
      by_cases hp : s.moor.st = .due
      · simpa [State.stepSet, State.stepActs, hp] using hdue hp
      · simpa [State.stepSet, State.stepActs, hp] using hidle hp
    rw [hset.1, hset.2, exec_stepCommit_opens hd hnone hserve hk hread hmay]
  · have hval := exec_stepCommitLand_validates hx hman hst hd hin hpin hheld
    refine ⟨?_, fun hclean hrefused => ?_, fun hclean hmay => ?_⟩
    · simp only [hval, decide_true, Bool.true_or, if_true, State.stepFails]
    · simp only [hval, hclean, hrefused, reduceCtorEq, decide_false, Bool.or_self, Bool.false_eq_true, if_false, if_true, State.stepFails]
    · simp only [hval, hclean, hmay, reduceCtorEq, decide_false, Bool.or_self, Bool.false_eq_true, if_false]
  · rw [exec_stepCommitLand_lands hx hman hst, State.landStep]

/-- Settles O37: the crossings of the table, the timeouts and the step commits. -/
theorem crossingsLand : Obligations.CrossingsLand := ⟨tableCrossings_hold, crossingsTimeOut_hold, stepCommits_hold⟩

end Sys2Proof.Machine
end

section
/-! SUPPORT. The capsules of jobs and images: an ordered capsule whose turn it is runs its own meaning, and under the conditions of its rule
that is the update that the rule gives (R243, R373, R379, R486 to R488, R501, R527, R528, R579, R633). Settles O46. -/

set_option Elab.async false

open Sys2Proof.Claim

namespace Sys2Proof.Machine

variable {s u : State} {p : Nat} {r : Running}

/-! ### The turn of a capsule (R486, R487) -/

theorem State.ordered_of_turn {op : Nat} {f : State → Running → State} (h : turnOf s p op r u) : s.ordered p op f = f u r := by
  obtain ⟨⟨hup, hawake, hp⟩, hnext, hop, hu, hcode⟩ := h
  subst hu
  have hport : ¬ 2 ≤ p := by omega
  simp [State.ordered, hup, hawake, hport, hnext, hop, hcode]

/-! ### JOB_LOAD and IMAGE_STAGE wait for their cargo (R488, R501, R527) -/

theorem exec_jobLoad (h : turnOf s p Cap.jobLoad r u) (hcode : u.loadCode p r = E.ok) : exec (.jobLoad p) s = .next u := by
  show execJobLoad p s = _
  rw [execJobLoad, State.ordered_of_turn h]
  simp [hcode]

theorem exec_imageStage (h : turnOf s p Cap.imageStage r u) (hcode : u.stageCode p r = E.ok) : exec (.imageStage p) s = .next u := by
  show execImageStage p s = _
  rw [execImageStage, State.ordered_of_turn h]
  simp [hcode]

/-! ### JOB_START (R243, R379, R633) -/

/-- A job starts at once, or waits for its PIN pages. -/
theorem exec_jobStart (h : turnOf s p Cap.jobStart r u) (hmap : s.mapOutOpen (r.arg 12 1) = false)
    (hcode : u.startCode p (r.arg 12 1) = E.ok) : exec (.jobStart p) s = .next (if (u.job (r.arg 12 1)).pinPages = []
      then (u.startJob (r.arg 12 1)).answer p E.ok [] else u) := by
  have hnext : (s.port p).nextOrdered = some r := h.2.1
  show execJobStart p s = _
  simp only [execJobStart, hnext, hmap, Bool.false_eq_true, if_false]
  rw [State.ordered_of_turn h]
  simp [hcode]

section
variable {pos : Nat} {reads : List (Nat × PageRead)} (hlive : s.live = true) (hst : (s.job pos).st = .loaded)
  (hstart : s.starting pos = true) (hmap : s.mapOutOpen pos = false) (hentry : s.freeFwEntry ≠ none)
  (hheld : s.heldByXing ((s.job pos).pinPages.map fun p => .pte pos p.1) = false)
include hlive hst hstart hmap hentry hheld

/-- The PIN pages have come, and the job runs. -/
theorem exec_jobStartPinsDone_read {v : State} (hread : s.readPins pos reads = (true, v))
    (hclean : ((v.job pos).pinPages.any fun p => v.entBad (.pte pos p.1)) = false) :
    exec (.jobStartPinsDone pos reads) s = .next (((v.pinIn pos).startJob pos).answerJob Cap.jobStart pos E.ok) := by
  have hentry' : s.freeFwEntry.isNone = false := by simpa [Option.isSome_iff_ne_none] using hentry
  show execJobStartPinsDone pos reads s = _
  simp [execJobStartPinsDone, hlive, hst, hstart, hmap, hentry', hheld, hread, hclean]

/-- One of them cannot be read, and the job stays LOADED. -/
theorem exec_jobStartPinsDone_lost {v : State} (hread : s.readPins pos reads = (false, v)) :
    exec (.jobStartPinsDone pos reads) s = .next (v.answerJob Cap.jobStart pos E.uncorrectable) := by
  have hentry' : s.freeFwEntry.isNone = false := by simpa [Option.isSome_iff_ne_none] using hentry
  show execJobStartPinsDone pos reads s = _
  simp [execJobStartPinsDone, hlive, hst, hstart, hmap, hentry', hheld, hread]

end

/-! ### JOB_STOP (R379, R385) -/

section
variable (h : turnOf s p Cap.jobStop r u) (hcode : u.stopCode p (r.arg 12 1) = E.ok)
include h hcode

theorem exec_jobStop_loaded (hst : (u.job (r.arg 12 1)).st = .loaded) : exec (.jobStop p) s = .next (u.unloadJob (r.arg 12 1)) := by
  show execJobStop p s = _
  rw [execJobStop, State.ordered_of_turn h]
  simp [hcode, hst]

theorem exec_jobStop_running (hst : (u.job (r.arg 12 1)).st = .running) :
    exec (.jobStop p) s = .next (u.endJob (r.arg 12 1) .stopped E.ok) := by
  show execJobStop p s = _
  rw [execJobStop, State.ordered_of_turn h]
  simp [hcode, hst]

end

/-! ### RESTORE and ATTEST (R373, R579) -/

theorem exec_restore {half : Nat} (h : turnOf s p Cap.restore r u) (hst : (u.job 0).st = .loaded) (hmay : u.mayAct 0 p = true)
    (hstart : u.starting 0 = false) (hphase : u.restore.phase = .none) (hmoor : u.moor.st = .idle ∨ u.moor.st = .due)
    (hhalf : u.mooringFor = some half) (hreplica : r.arg 12 2 ≤ 32767) : exec (.restore p) s =
      .next (({ u with restore := { phase := .loading, half := half, replica := r.arg 12 2 } } : State).answer p E.ok []) := by
  have hnamed : r.arg 12 2 ≠ 0xFFFF := by omega
  have hrange : ¬ 32767 < r.arg 12 2 := by omega
  have hquiet : u.moor.st ≠ .staging ∧ u.moor.st ≠ .writing := by
    rcases hmoor with hidle | hdue
    · simp [hidle]
    · simp [hdue]
  have hnow : u.restoreNow p r =
      ({ u with restore := { phase := .loading, half := half, replica := r.arg 12 2 } } : State).applied [] := by
    simp [State.restoreNow, hnamed, hst, hmay, hstart, hphase, hquiet, hhalf, hrange]
  show execRestore p s = _
  rw [execRestore, State.ordered_of_turn h]
  simp only [hnow, State.applied]

section
variable (h : turnOf s p Cap.attest r u) (halign : r.arg 44 8 % 64 = 0)
include h halign

/-- A report that the buffer holds is written before the response. -/
theorem exec_attest_fits (hroom : (u.report (slice r.bytes 12 32)).length ≤ r.arg 52 4) : exec (.attest p) s =
    .next ((u.out (.hostWrite p (r.arg 44 8) (u.report (slice r.bytes 12 32)))).answer p E.ok
      (leBytes 4 (u.report (slice r.bytes 12 32)).length)) := by
  show execAttest p s = _
  rw [execAttest, State.ordered_of_turn h]
  simp only [halign, ne_eq, not_true_eq_false, if_false, if_neg (Nat.not_lt.2 hroom)]

/-- Of a longer one the length is answered. -/
theorem exec_attest_short (hshort : r.arg 52 4 < (u.report (slice r.bytes 12 32)).length) :
    exec (.attest p) s = .next (u.answer p E.noSpace (leBytes 4 (u.report (slice r.bytes 12 32)).length)) := by
  show execAttest p s = _
  rw [execAttest, State.ordered_of_turn h]
  simp only [halign, ne_eq, not_true_eq_false, if_false, if_pos hshort]

end

/-! ### IMAGE_STAGE_PROGRAM_DONE (R522, R528) -/

@[simp] theorem State.fire_boot {n : Nat} : (s.fire n).boot = s.boot := by
  unfold State.fire
  split
  · rfl
  · split
    · rfl
    · dsimp only
      split <;> rfl

@[simp] theorem State.respond_boot {code : Code} {data : List Byte} : (s.respond p r code data).boot = s.boot := by
  simp only [State.respond, State.updPort_boot]
  split <;> rfl

@[simp] theorem State.settleTaken_boot {n : Nat} : (s.settleTaken p n).boot = s.boot := by
  induction n generalizing s with
  | zero => rfl
  | succ n ih =>
    unfold State.settleTaken
    split
    · rfl
    · split
      · rfl
      · rw [ih, State.respond_boot, State.updPort_boot]

/-- An answer leaves the boot record alone. -/
@[simp] theorem State.answer_boot {code : Code} {data : List Byte} : (s.answer p code data).boot = s.boot := by
  unfold State.answer
  split
  · rfl
  · simp

@[simp] theorem State.cargoTaken_boot {n : Nat} : (s.cargoTaken p n).boot = s.boot := rfl

/-- Outside Holding a programmed image is answered, and nothing follows. -/
theorem exec_imageStageProgramDone (hup : s.fwUp = true) (hp : p < 2) (hrun : (s.port p).running = some r)
    (hop : r.opcode = Cap.imageStage) (hdata : r.data ≠ []) (hwp : s.pw.bootWpN = true) (hhold : s.boot.holding = false) :
    exec (.imageStageProgramDone p true) s =
      .next ((((s.programBank (r.arg 12 1) r.data).fire 265).cargoTaken p (r.arg 16 8)).answer p E.ok []) := by
  have hport : ¬ 2 ≤ p := by omega
  have hstay : (s.programBank (r.arg 12 1) r.data).boot.holding = false := hhold
  show execImageStageProgramDone p true s = _
  simp [execImageStageProgramDone, hrun, hup, hport, hop, hdata, hwp, hstay]

/-- Settles O46, command by command. -/
theorem jobAndImageCapsules : Obligations.JobAndImageCapsules := by
  intro s u p r
  refine ⟨exec_jobLoad, exec_imageStage, fun h hmap hcode => ⟨fun hpins => ?_, fun hpins => ?_⟩,
    fun pos reads hlive hst hstart hmap hentry hheld => ⟨fun hread => ?_, fun hlost => ?_⟩,
    fun h hcode => ⟨exec_jobStop_loaded h hcode, exec_jobStop_running h hcode⟩, fun half => exec_restore,
    fun h halign => ⟨fun hroom => ?_, fun hshort => ?_⟩, exec_imageStageProgramDone⟩
  · rw [exec_jobStart h hmap hcode, if_pos hpins]
  · rw [exec_jobStart h hmap hcode, if_neg hpins]
  · exact exec_jobStartPinsDone_read hlive hst hstart hmap hentry hheld (Prod.ext hread rfl)
  · exact exec_jobStartPinsDone_lost hlive hst hstart hmap hentry hheld (Prod.ext hlost rfl)
  · exact exec_attest_fits h halign hroom
  · exact exec_attest_short h halign hshort

end Sys2Proof.Machine
end

section
/-! SUPPORT. Boot, the records that firmware stores, and standby (R245, R519 to R522, R529, R544, R576). Settles O49. -/

set_option Elab.async false

namespace Sys2Proof.Machine

variable {s : State}

/-! ### BOOT (R519 to R522) -/

/-- From power-up, with no store of WINDOW_GEN to wait for, and none of FLASH_ROOT where an erase was cut short: the first good bank boots,
and without one the device is in Holding. -/
theorem exec_boot {ra rb : Bool} {r : BootRun} (hdev : s.dev = .idle) (hboot : s.boot.booting = true) (hhold : s.boot.holding = false)
    (hgen : s.logBusy Rec.windowGen = false) (hroots : s.oldRoots = [] ∨ s.logBusy Rec.flashRoot = false) :
    exec (.boot ra rb r) s = .next (
      let a := s.beginBoot.bankCode 0 ra s.beginBoot.storedOwner
      let b := a.2.bankCode 1 rb a.2.storedOwner
      if a.1 = E.ok then a.2.bootBank 0 r else if b.1 = E.ok then b.2.bootBank 1 r else b.2.enterHolding a.1 b.1) := by
  have hready : (!s.oldRoots.isEmpty && s.logBusy Rec.flashRoot) = false := by
    rcases hroots with hnone | hfree
    · simp [hnone]
    · simp [hfree]
  show execBoot ra rb r s = _
  simp only [execBoot, hdev, hboot, hhold, hgen, hready, bne_self_eq_false, Bool.not_true, Bool.false_and, Bool.or_self, Bool.false_eq_true,
    if_false]

/-! ### Records of firmware (R326, R328, R529) -/

theorem exec_lifetimeStore (hlive : s.live = true) : exec .lifetimeStore s = .next (s.logFirmware Rec.lifetime s.lifetimeBytes) := by
  show execLifetimeStore s = _
  rw [execLifetimeStore, if_pos hlive]

/-- The map's root after a checkpoint, if its store was accepted. -/
def State.checkpointed (s : State) (stored : Code × State) : State :=
  if stored.1 ≠ E.ok then stored.2
  else stored.2.updFlash fun f => { f with root := f.map, journal := [], lastCheckpoint := some s.aoc }

/-- A minute after the last checkpoint, and a second after the last store of FLASH_ROOT, the map's root is stored. -/
theorem exec_mapCheckpoint (hlive : s.live = true) (hpower : s.ms.flash.powered = true)
    (hdue : ∀ t, s.ms.flash.lastCheckpoint = some t → t + 1500000000 ≤ s.aoc) (hbusy : s.logBusy Rec.flashRoot = false) :
    exec .mapCheckpoint s = .next (s.checkpointed (s.takeFree.2.takeFree.2.logStore Rec.flashRoot
      (flashRootBytes s.takeFree.1 s.takeFree.2.takeFree.1 s.wrappedKey))) := by
  show execMapCheckpoint s = _
  cases hlast : s.ms.flash.lastCheckpoint with
  | none =>
    simp only [execMapCheckpoint, hlast, hlive, hpower, hbusy, Bool.not_true, Bool.or_self, Bool.false_eq_true, if_false]
    rfl
  | some t =>
    have hlate : decide (s.aoc < t + 1500000000) = false := decide_eq_false (Nat.not_lt.2 (hdue t hlast))
    simp only [execMapCheckpoint, hlast, hlate, hlive, hpower, hbusy, Bool.not_true, Bool.or_self, Bool.false_eq_true, if_false]
    rfl

/-! ### Standby (R544) -/

theorem exec_standbyEnter (hmay : s.mayStandby = true) (hout : s.pw.standby = false) :
    exec .standbyEnter s = .next { s with pw := { s.pw with standby := true } } := by
  show execStandbyEnter s = _
  simp [execStandbyEnter, hmay, hout]

theorem exec_standbyExit (hin : s.pw.standby = true) :
    exec .standbyExit s = .next ((({ s with pw := { s.pw with standby := false } } : State).takeAll 0).takeAll 1) := by
  show execStandbyExit s = _
  rw [execStandbyExit, if_pos hin]

/-- Settles O49, command by command. -/
theorem bootAndStandby : Obligations.BootAndStandby := by
  intro s
  refine ⟨fun ra rb r hdev hboot hhold hgen hroots => exec_boot hdev hboot hhold hgen hroots, exec_lifetimeStore,
    fun hlive hpower hdue hbusy => ⟨s.takeFree.1, s.takeFree.2.takeFree.1, ?_⟩, exec_standbyEnter, exec_standbyExit⟩
  rw [exec_mapCheckpoint hlive hpower hdue hbusy]
  refine ⟨fun hstored => ?_, fun hrefused => ?_⟩
  · rw [State.checkpointed, if_neg fun hrefused => hrefused hstored]
  · rw [State.checkpointed, if_pos hrefused]

end Sys2Proof.Machine
end

section
/-! SUPPORT. The turns of engines: what ENGINE_CHOOSE runs, by whether the account of the slice goes on, and the end of a slice
(R254, R402, R404, R405, R549). Settles O21. -/

set_option Elab.async false

open Sys2Proof.Claim

namespace Sys2Proof.Machine

variable {s : State} {cls num : Nat}

/-! ### ENGINE_CHOOSE (R402, R404) -/

/-- The ready descriptors of an account at an engine. -/
def State.readyOf (s : State) (e : Engine) (a : Nat) : List Desc := (s.candidates e).filter fun d => d.account == a

/-- The engine runs the earliest ready descriptor of an account. -/
def Engine.runFirst (e : Engine) (ds : List Desc) (a slice : Nat) : Engine :=
  { e with running := (minBy Desc.serial ds).map Desc.serial, sliceAccount := some a, slice := slice, idleRun := 0, gated := false }

section
variable {e : Engine} (he : s.refresh (s.engine cls num) = e) (hidle : e.running = none)
include he hidle

/-- An account whose slice is not over and that has a ready descriptor goes on. -/
theorem State.chooseEngine_goesOn {a : Nat} (ha : e.sliceAccount = some a) (hslice : 0 < e.slice) (hready : s.readyOf e a ≠ []) :
    s.chooseEngine cls num = s.updEngine cls num fun _ => e.runFirst (s.readyOf e a) a e.slice := by
  have hkept : (e.sliceAccount.filter fun a => decide (0 < e.slice) && !(s.readyOf e a).isEmpty) = some a := by
    simp [ha, Option.filter, hslice, hready]
  unfold State.readyOf at hkept
  simp only [State.chooseEngine, he, hidle, Option.isSome_none, Bool.false_eq_true, if_false, hkept]
  rfl

/-- The choice by toll among the accounts that have a ready descriptor. -/
def State.tollChoice (s : State) (e : Engine) : Engine × Option (Nat × Nat) :=
  e.choose ((s.readyAccounts e).filter fun a => !(s.readyOf e a).isEmpty)

/-- Otherwise the tolls choose the account. -/
theorem State.chooseEngine_byToll (hover : ∀ a, e.sliceAccount = some a → e.slice = 0 ∨ s.readyOf e a = []) :
    s.chooseEngine cls num = s.updEngine cls num fun _ => match (s.tollChoice e).2 with
      | none => (s.tollChoice e).1
      | some (a, slice) => (s.tollChoice e).1.runFirst (s.readyOf e a) a slice := by
  have hkept : (e.sliceAccount.filter fun a => decide (0 < e.slice) && !(s.readyOf e a).isEmpty) = none := by
    rw [Option.filter_eq_none_iff]
    intro a ha
    rcases hover a ha with h | h <;> simp [h]
  rcases hc : s.tollChoice e with ⟨e', _ | ⟨a, slice⟩⟩
  all_goals
    unfold State.tollChoice at hc
    unfold State.readyOf at hkept hc
    simp only [State.chooseEngine, he, hidle, Option.isSome_none, Bool.false_eq_true, if_false, hkept, hc]
  rfl

end

/-- An engine whose account structures show no error chooses. -/
theorem exec_engineChoose (hlive : s.live = true) (hex : instanceExists cls num = true) (hcls : cls ≠ 1) :
    exec (.engineChoose cls num .none) s = .next (s.chooseEngine cls num) := by
  show execEngineChoose cls num .none s = _
  simp [execEngineChoose, State.acctError, hlive, hex, hcls]

theorem engineChoiceRuns_holds : engineChoiceRuns := by
  intro s cls num hlive hex hcls
  have hexec := exec_engineChoose hlive hex hcls
  generalize he : s.refresh (s.engine cls num) = e
  intro _ of runs hidle
  refine ⟨fun a ha hslice hready => ?_, fun hover => ?_⟩
  · exact hexec.trans (congrArg Host.Outcome.next (State.chooseEngine_goesOn he hidle ha hslice hready))
  · rw [State.chooseEngine_byToll he hidle hover] at hexec
    generalize hc : s.tollChoice e = c at hexec
    unfold State.tollChoice State.readyOf at hc
    rw [hc]
    refine ⟨fun a slice h => ?_, fun h => ?_⟩
    all_goals
      rw [h] at hexec
      exact hexec

/-! ### SLICE_END and ENGINE_CLOCK_GATE (R254, R405, R549) -/

/-- The end of a slice takes the engine from an operation that waits for no lookup. -/
theorem exec_sliceEnd {a overrun n : Nat} (hlive : s.live = true) (hcls : cls ≠ 1) (hrun : (s.engine cls num).running = some n)
    (ha : (s.engine cls num).sliceAccount = some a)
    (hdone : ∀ d, (s.engine cls num).current = some d → ∀ f ∈ d.fetch, f.2.pending = false) :
    exec (.sliceEnd cls num overrun) s = .next (s.updEngine cls num fun e =>
      { e.setToll a { e.toll a with debt := (e.toll a).debt + overrun } with
        running := none, partner := none, sliceAccount := none, slice := 0 }) := by
  have hnone : (s.engine cls num).current.any (fun d => d.fetch.any fun f => f.2.pending) = false := by
    rw [Option.any_eq_false_iff_get]
    intro hsome
    simpa using hdone _ (Option.some_get hsome).symm
  show execSliceEnd cls num overrun s = _
  simp [execSliceEnd, hlive, hcls, hrun, ha, hnone]

/-- An engine without an operation in progress gates its clock. -/
theorem exec_engineClockGate (hlive : s.live = true) (hex : instanceExists cls num = true) (hidle : (s.engine cls num).busyWith = none) :
    exec (.engineClockGate cls num) s = .next (s.updEngine cls num fun e => { e with gated := true }) := by
  show execEngineClockGate cls num s = _
  simp [execEngineClockGate, hlive, hex, hidle]

/-- Settles O21: the choice by the account of the slice and then by toll, the end of a slice, the clock gate. -/
theorem enginesTakeTurns : Obligations.EnginesTakeTurns :=
  ⟨engineChoiceRuns_holds, fun _ _ _ hlive =>
    ⟨fun _ _ _ hcls hrun ha hdone => exec_sliceEnd hlive hcls hrun ha hdone, exec_engineClockGate hlive⟩⟩

end Sys2Proof.Machine
end

section
/-! SUPPORT. Operations that run by rows, once for all of them; the vector and Keel operations, COMBINE_DUP and the random-stream unit are
among them (R251, R252, R254 to R266, R273, R274, R278, R279). Settles O24 and O28. -/

set_option Elab.async false

open Sys2Proof.Claim

namespace Sys2Proof.Machine

/-! ### Any operation that runs by rows (R251, R252, R254) -/

section
variable {s : State} {cls op : Nat} {r : EngRun} {outs : Desc → List (Nat × Nat)} {o : RowOp} {d : Desc}

/-- The next rows of the running descriptor. -/
def State.nextRows (s : State) (r : EngRun) (o : RowOp) (d : Desc) : Acc :=
  s.rows d.pos d.progress (o.span d s r) (o.reads d) (o.body d) d.part r.finds

variable (hrun : s.runningOp cls r.num op = some d) (hheld : s.writesHeld d.pos (outs d) = false)
include hrun hheld

/-- While rows are left the operation keeps its progress. -/
theorem State.runOp_keeps (hok : (s.nextRows r o d).part.err = E.ok) (hleft : d.progress + o.span d s r < o.rows d s) :
    s.runOp cls op r outs o = (s.nextRows r o d).s.saveDesc cls r.num d.serial fun d' =>
      { d' with progress := d'.progress + o.span d s r, part := (s.nextRows r o d).part } := by
  unfold State.nextRows at hok ⊢
  simp [State.runOp, hrun, hheld, hok, hleft]

/-- After the last row, or at an error, it completes. -/
theorem State.runOp_ends (hend : (s.nextRows r o d).part.err ≠ E.ok ∨ o.rows d s ≤ d.progress + o.span d s r) :
    s.runOp cls op r outs o =
      (s.nextRows r o d).done cls r.num d (o.ending d (s.nextRows r o d).s (s.nextRows r o d).part) := by
  have hnot : ¬ ((s.nextRows r o d).part.err = E.ok ∧ d.progress + o.span d s r < o.rows d s) := fun h =>
    hend.elim (absurd h.1) (Nat.not_le.2 h.2)
  unfold State.nextRows at hnot ⊢
  simp only [State.runOp, hrun, hheld, Bool.false_eq_true, if_false, hnot]

end

/-- An operation whose command is `runOp` runs its rows. -/
theorem runsRows_of_exec {x : RowOpAt} (hexec : ∀ r s, exec (x.instr r) s = .next (s.runOp x.cls x.op r (x.outs s) x.run)) :
    runsRows x := by
  intro s r d hrun hheld n a
  rw [hexec]
  exact ⟨fun hok hleft => congrArg Host.Outcome.next (State.runOp_keeps hrun hheld hok hleft),
    fun hend => congrArg Host.Outcome.next (State.runOp_ends hrun hheld hend)⟩

/-! ### The vector and Keel operations (R255 to R266) -/

theorem exec_vectorOp {x : RowOpAt} (hx : x ∈ vectorOps) (r : EngRun) (s : State) :
    exec (x.instr r) s = .next (s.runOp x.cls x.op r (x.outs s) x.run) := by
  simp only [vectorOps, List.map_cons, List.map_nil, List.mem_cons, List.not_mem_nil, or_false] at hx
  rcases hx with rfl | rfl | rfl | rfl | rfl | rfl | rfl
  all_goals rfl

theorem exec_keelOp {x : RowOpAt} (hx : x ∈ keelOps) (r : EngRun) (s : State) :
    exec (x.instr r) s = .next (s.runOp x.cls x.op r (x.outs s) x.run) := by
  simp only [keelOps, List.map_cons, List.map_nil, List.mem_cons, List.not_mem_nil, or_false] at hx
  rcases hx with rfl | rfl | rfl | rfl | rfl
  all_goals rfl

/-- Settles O24: each command is `runOp` with the rows of its operation. -/
theorem vectorAndKeelComplete : Obligations.VectorAndKeelComplete :=
  fun _ hx => runsRows_of_exec ((List.mem_append.1 hx).elim exec_vectorOp exec_keelOp)

/-! ### COMBINE_DUP (R273, R274) -/

theorem combineDup_runsRows : runsRows combineDup := runsRows_of_exec fun _ _ => rfl

/-! ### The random-stream unit (R278 to R280) -/

theorem exec_randomOp {x : RowOpAt} (hx : x ∈ randomOps) (r : EngRun) (s : State) :
    exec (x.instr r) s = .next (s.runOp x.cls x.op r (x.outs s) x.run) := by
  simp only [randomOps, List.map_cons, List.map_nil, List.mem_cons, List.not_mem_nil, or_false] at hx
  rcases hx with rfl | rfl | rfl | rfl
  all_goals rfl

/-- A byte that is put together bit by bit has the bits that were put into it. -/
theorem getLsbD_foldl_setBits (p : Nat → Prop) [DecidablePred p] {n i : Nat} (hn : n ≤ 8) :
    ((List.range n).foldl (fun (v : Byte) j => if p j then v ||| (1#8 <<< j) else v) 0).getLsbD i = true ↔ i < n ∧ p i := by
  induction n with
  | zero => simp
  | succ n ih =>
    have hbit : (1#8 <<< n).getLsbD i = true ↔ i = n := by
      simp only [BitVec.getLsbD_shiftLeft, BitVec.getLsbD_one, Bool.and_eq_true, Bool.not_eq_true', decide_eq_true_eq,
        decide_eq_false_iff_not]
      omega
    rw [List.range_succ, List.foldl_append, List.foldl_cons, List.foldl_nil]
    split
    next hp =>
      rw [BitVec.getLsbD_or, Bool.or_eq_true, ih (by omega), hbit]
      constructor
      · rintro (⟨hi, hpi⟩ | rfl)
        · exact ⟨by omega, hpi⟩
        · exact ⟨by omega, hp⟩
      · rintro ⟨hi, hpi⟩
        exact (Nat.lt_succ_iff_lt_or_eq.1 hi).imp (⟨·, hpi⟩) id
    next hp =>
      rw [ih (by omega)]
      refine ⟨fun ⟨hi, hpi⟩ => ⟨by omega, hpi⟩, fun ⟨hi, hpi⟩ => ⟨?_, hpi⟩⟩
      exact (Nat.lt_succ_iff_lt_or_eq.1 hi).resolve_right fun h => hp (h ▸ hpi)

section
variable {s : State} {d : Desc} {k : Nat}

/-- RND_FILL: the low byte of each element drawn. -/
theorem rndRow_fill (h : d.opcode = 0x0501) : (rndRow d k s).writes = [(d.rOut + 32 * k,
    (List.range (Nat.min 32 (4 * d.rCount - 32 * k))).map fun i => BitVec.ofNat 8 (s.drawBits d (32 * k + i)))] := by
  simp [rndRow, h]

/-- RND_MASK: the bit of each element that exists and whose draw is at least P. -/
theorem rndRow_mask (h : d.opcode = 0x0502) : ∃ bs : List Byte, bs.length = 4 ∧ (rndRow d k s).writes = [(d.rOut + 4 * k, bs)] ∧
    ∀ b i, b < 4 → i < 8 → ((bs.getD b 0).getLsbD i = true ↔
      32 * k + 8 * b + i < d.rCount ∧ d.rThreshold ≤ s.drawBits d (32 * k + 8 * b + i)) := by
  simp only [rndRow, h]
  refine ⟨_, by simp, rfl, fun b i hb hi => ?_⟩
  have hget (f : Nat → Byte) : ((List.range 4).map f).getD b 0 = f b := by simp [List.getD, hb]
  rw [hget, getLsbD_foldl_setBits (fun i => _ ∧ _) (Nat.le_refl 8)]
  exact and_iff_right hi

/-- RND_CTR_READ: the counter captured at acceptance. -/
theorem rndRow_ctrRead (h : d.opcode = 0x0504) : (rndRow d k s).writes = [(d.rOut, leBytes 8 d.cap.toNat)] := by
  simp [rndRow, h]

end

/-- Settles O28: each command is `runOp` with the blocks of the unit, and a block writes what its opcode gives. -/
theorem randomUnitCompletes : Obligations.RandomUnitCompletes :=
  ⟨fun _ hx => runsRows_of_exec (exec_randomOp hx), fun _ _ _ => ⟨rndRow_fill, rndRow_mask, rndRow_ctrRead⟩⟩

end Sys2Proof.Machine
end

section
/-! SUPPORT. The layout engine: its next pieces, and how it ends by what its status record meets (R251, R252, R254, R268, R269, R343).
Settles O26. -/

set_option Elab.async false

namespace Sys2Proof.Machine

/-- An operation whose status record need not wait ends; a record with no place ends it with E_ARG_RANGE (R269). -/
theorem State.finish_of_statusReady {s : State} {cls num shore : Nat} {d : Desc} {e : Ending} (hready : s.statusWaits d = false) :
    s.finish cls num d shore e = s.complete cls num d { e with err := if e.err = E.ok ∧ s.statusLost d then E.argRange else e.err } := by
  unfold State.finish State.atStatus
  unfold State.statusWaits at hready
  split
  next => rfl
  next haddr =>
    cases hspan : s.spanOf d.pos d.statusAddr 16 true with
    | runs rs =>
      have hfree : s.mustHold d.pos d.statusAddr 16 = false := by simpa [hspan, haddr] using hready
      simp [hfree]
    | absent ps => simp [hspan, haddr] at hready
    | bad => rfl

section
variable {s : State} {r : EngRun} {op : Nat} {d : Desc}

/-- The next pieces of a layout operation. -/
def State.nextPieces (s : State) (r : EngRun) (d : Desc) : LayRun :=
  (List.range (Nat.min r.units (d.layPieces - d.progress))).foldl (fun (x : LayRun) _ => x.next d)
    { a := { s := s, part := d.part, finds := r.finds }, piece := d.progress, halt := false, bar := [] }

/-- The progress and the status so far are kept. -/
def LayRun.kept (x : LayRun) (num serial : Nat) : State :=
  x.a.s.saveDesc 3 num serial fun d => { d with progress := x.piece, part := x.a.part }

/-- The bytes that waited are written, and the progress and the status are kept. -/
def LayRun.done (x : LayRun) (num : Nat) (d : Desc) : State :=
  (x.a.s.flush d.pos x.a.part.held).saveDesc 3 num d.serial fun d => { d with progress := x.piece, part := { x.a.part with held := [] } }

variable (hrun : s.runningOp 3 r.num op = some d)
include hrun

/-- While pieces are left the operation keeps its progress, and is suspended where a page is not resident. -/
theorem State.lay_keeps (hok : (s.nextPieces r d).a.part.err = E.ok) (hleft : (s.nextPieces r d).piece < d.layPieces) :
    s.lay r op = if (s.nextPieces r d).bar = [] then (s.nextPieces r d).kept r.num d.serial
      else ((s.nextPieces r d).kept r.num d.serial).suspend 3 r.num d (shoreOf r.num) (s.nextPieces r d).bar := by
  unfold State.nextPieces at hok hleft ⊢
  simp [State.lay, LayRun.kept, hrun, hok, Nat.not_le.2 hleft]

/-- After the last piece, or at an error, it ends with its status record. -/
theorem State.lay_ends (hend : (s.nextPieces r d).a.part.err ≠ E.ok ∨ d.layPieces ≤ (s.nextPieces r d).piece) :
    s.lay r op = ((s.nextPieces r d).done r.num d).finish 3 r.num d (shoreOf r.num) (s.nextPieces r d).a.part.ending := by
  have hdone : ((s.nextPieces r d).a.part.err != E.ok || decide (d.layPieces ≤ (s.nextPieces r d).piece)) = true := by
    simpa using hend
  unfold State.nextPieces at hdone ⊢
  simp [State.lay, LayRun.done, hrun, hdone]

end

/-- Settles O26: LAY_COPY and LAY_FILL run the same pieces under their opcodes. -/
theorem layoutCompletes : Obligations.LayoutCompletes := by
  intro s r d o ho hrun x kept done
  have hexec : exec o.2 s = .next (s.lay r o.1) := by
    simp only [List.mem_cons, List.not_mem_nil, or_false] at ho
    rcases ho with rfl | rfl
    all_goals rfl
  rw [hexec]
  refine ⟨fun hok hleft => congrArg Host.Outcome.next (State.lay_keeps hrun hok hleft), fun hend hready => congrArg Host.Outcome.next ?_⟩
  exact (State.lay_ends hrun hend).trans (State.finish_of_statusReady hready)

end Sys2Proof.Machine
end

section
/-! SUPPORT. Gather and scatter: one turn of an operation with lookups, by whether positions are left (R251, R252, R254, R272 to R277).
Settles O27. -/

set_option Elab.async false

open Sys2Proof.Claim

namespace Sys2Proof.Machine

section
variable {s : State} {r : EngRun} {op : Nat} {o : GOp} {d0 d : Desc}

/-- The positions that may start now have started. -/
def State.lookupsStarted (s : State) (r : EngRun) (o : GOp) (d0 : Desc) : Starts :=
  (s.gLeft d0).foldl (Starts.next r.num d0.serial (s.gTab d0) (o.start r.num (s.gTab d0)))
    { s := s, finds := r.finds, waits := [], stop := false }

/-- The bags or rows of the next units whose positions have settled. -/
def Starts.ready (x : Starts) (r : EngRun) (d : Desc) : Nat :=
  x.s.gSettled d d.progress (Nat.min (d.gCount - d.progress) (r.units * d.gUnit))

/-- They are pooled or written in order. -/
def Starts.pooled (x : Starts) (r : EngRun) (o : GOp) (t : GTab) (d : Desc) : Acc :=
  x.s.rows d.pos d.progress (x.ready r d) (o.reads d) (o.body d t) d.part x.finds

/-- The positions of those bags or rows. -/
def Starts.past (x : Starts) (r : EngRun) (d : Desc) : List Nat :=
  (List.range (x.ready r d)).flatMap fun i => x.s.gPos d (d.progress + i)

variable {x : Starts} (hrun0 : s.runningOp 4 r.num op = some d0) (hx : s.lookupsStarted r o d0 = x)
  (hrun : x.s.runningOp 4 r.num op = some d)
  (hheld : x.s.writesHeld d.pos (((d.gExts (s.gTab d0) ++ d.statusExt).filter fun e => e.wr).map fun e => (e.addr, e.n)) = false)
include hrun0 hx hrun hheld

/-- While positions are left the operation keeps its progress, and forgets the positions that it has used. -/
theorem State.gather_keeps (hok : (x.pooled r o (s.gTab d0) d).part.err = E.ok) (hleft : d.progress + x.ready r d < d.gCount) :
    s.gather r op o = (x.pooled r o (s.gTab d0) d).s.saveDesc 4 r.num d.serial fun d' =>
      { d' with progress := d'.progress + x.ready r d, part := (x.pooled r o (s.gTab d0) d).part
                fetch := d'.fetch.filter fun f => !(x.past r d).contains f.1 } := by
  unfold State.lookupsStarted at hx
  unfold Starts.past
  unfold Starts.pooled at hok ⊢
  unfold Starts.ready at hok hleft ⊢
  simp only [State.gather, hrun0, hx, hrun, hheld, Bool.false_eq_true, if_false, hok, hleft, and_self, if_true]

/-- After the last position, or at an error, it completes and drops the lines that it holds. -/
theorem State.gather_ends (hend : (x.pooled r o (s.gTab d0) d).part.err ≠ E.ok ∨ d.gCount ≤ d.progress + x.ready r d) :
    s.gather r op o = (((x.pooled r o (s.gTab d0) d).s.dropOwner d.serial).flush d.pos (x.pooled r o (s.gTab d0) d).part.held).complete
      4 r.num d (x.pooled r o (s.gTab d0) d).part.ending := by
  have hnot : ¬ ((x.pooled r o (s.gTab d0) d).part.err = E.ok ∧ d.progress + x.ready r d < d.gCount) := fun h =>
    hend.elim (absurd h.1) (Nat.not_le.2 h.2)
  unfold State.lookupsStarted at hx
  unfold Starts.pooled at hnot ⊢
  unfold Starts.ready at hnot ⊢
  simp only [State.gather, hrun0, hx, hrun, hheld, Bool.false_eq_true, if_false, hnot]
  rfl

end

/-- GATHER_BAG, GATHER_ROWS and SCATTER_ROWS take the same turn. -/
theorem exec_lookupOp {r : EngRun} {o : Nat × Instr × GOp} (ho : o ∈ lookupOps r) (s : State) :
    exec o.2.1 s = .next (s.gather r o.1 o.2.2) := by
  simp only [lookupOps, List.mem_cons, List.not_mem_nil, or_false] at ho
  rcases ho with rfl | rfl | rfl
  all_goals rfl

theorem lookupsRun_holds : lookupsRun := by
  intro s r d0 d o ho hrun0 t x hrun hheld n a
  rw [exec_lookupOp ho]
  exact ⟨fun hok hleft => congrArg Host.Outcome.next (State.gather_keeps hrun0 rfl hrun hheld hok hleft),
    fun hend => congrArg Host.Outcome.next (State.gather_ends hrun0 rfl hrun hheld hend)⟩

/-- Settles O27: the operations with lookups by their turn, COMBINE_DUP by its rows. -/
theorem lookupsComplete : Obligations.LookupsComplete := ⟨lookupsRun_holds, combineDup_runsRows⟩

end Sys2Proof.Machine
end

section
/-! SUPPORT. The compression and mooring engines: an engine that is busy chooses nothing, how its operation runs, and what an issued
descriptor comes to (R248 to R254, R281 to R284, R402). Settles O30. -/

set_option Elab.async false

open Sys2Proof.Claim

namespace Sys2Proof.Machine

/-! ### The tolls touch neither the queue nor the running operation (R403) -/

/-- `refresh` leaves alone what tolls and parties do not hold. -/
theorem State.refresh_keeps {α : Type} (g : Engine → α) (htoll : ∀ e a t, g (Engine.setToll e a t) = g e)
    (hparties : ∀ (e : Engine) p, g { e with parties := p } = g e) (s : State) (e : Engine) : g (s.refresh e) = g e := by
  unfold State.refresh
  extract_lets now old low newParty oldParties lowP gained gone lost
  have hgained : g gained = g e := by
    refine List.foldlRecOn (motive := fun e' => g e' = g e) _ _ rfl fun e' he' a _ => ?_
    dsimp only
    split
    · exact he'
    · exact (htoll _ _ _).trans he'
  have hlost : g lost = g gained :=
    List.foldlRecOn (motive := fun e' => g e' = g gained) _ _ rfl fun e' he' a _ => (htoll _ _ _).trans he'
  exact (hparties _ _).trans (hlost.trans hgained)

section
variable (s : State) (e : Engine)

@[simp] theorem State.refresh_cls : (s.refresh e).cls = e.cls := State.refresh_keeps Engine.cls (fun _ _ _ => rfl) (fun _ _ => rfl) s e
@[simp] theorem State.refresh_num : (s.refresh e).num = e.num := State.refresh_keeps Engine.num (fun _ _ _ => rfl) (fun _ _ => rfl) s e
@[simp] theorem State.refresh_queue : (s.refresh e).queue = e.queue :=
  State.refresh_keeps Engine.queue (fun _ _ _ => rfl) (fun _ _ => rfl) s e
@[simp] theorem State.refresh_running : (s.refresh e).running = e.running :=
  State.refresh_keeps Engine.running (fun _ _ _ => rfl) (fun _ _ => rfl) s e

end

/-! ### A busy engine -/

section
variable {s : State} {cls num op : Nat} {d : Desc}

/-- An engine that runs a descriptor has that descriptor's serial. -/
theorem Engine.running_isSome_of_current {e : Engine} (h : e.current = some d) : e.running.isSome = true := by
  unfold Engine.current at h
  split at h
  · contradiction
  next hn => simp [hn]

theorem State.current_of_runningOp (h : s.runningOp cls num op = some d) : (s.engine cls num).current = some d := by
  unfold State.runningOp at h
  split at h
  next hd =>
    split at h
    · rw [hd, h]
    · contradiction
  · contradiction

/-- What an engine runs is not an operation of another opcode. -/
theorem State.runningOp_of_other (h : (s.engine cls num).current = some d) (hop : d.opcode ≠ op) : s.runningOp cls num op = none := by
  simp [State.runningOp, h, hop]

/-- A busy engine chooses nothing (R402). -/
theorem State.chooseEngine_busy (h : (s.engine cls num).current = some d) : s.chooseEngine cls num = s := by
  simp [State.chooseEngine, Engine.running_isSome_of_current h]

/-- A busy engine is in the list of engines, where an update finds it. -/
theorem State.engine_updEngine (h : (s.engine cls num).current = some d) {f : Engine → Engine}
    (hcls : ∀ e, (f e).cls = e.cls) (hnum : ∀ e, (f e).num = e.num) : (s.updEngine cls num f).engine cls num = f (s.engine cls num) := by
  unfold State.engine at h ⊢
  have htest : (fun e : Engine => e.cls == cls && e.num == num) ∘ (fun e => if e.cls == cls && e.num == num then f e else e) =
      fun e => e.cls == cls && e.num == num := by
    funext e
    simp only [Function.comp_apply, apply_ite Engine.cls, apply_ite Engine.num, hcls, hnum, ite_self]
  rw [State.updEngine_engines, updWhere, List.find?_map, htest]
  cases hfind : s.engines.find? fun e => e.cls == cls && e.num == num with
  | none => simp [hfind, Engine.idle, Engine.current] at h
  | some e =>
    have he : (e.cls == cls && e.num == num) = true := by simpa using List.find?_some hfind
    rw [Option.map_some, Option.getD_some, Option.getD_some, if_pos he]

end

/-! ### The running operation goes on (R248, R251, R252, R254) -/

section
variable {s : State} {cls op : Nat} {r : EngRun} {o : FwOp} {d : Desc}

/-- The next units of the running descriptor. -/
def State.nextUnits (s : State) (r : EngRun) (o : FwOp) (d : Desc) : Acc :=
  ((List.range (Nat.min (o.units d - d.progress) r.units)).map fun k => d.progress + k).foldl
    (fun (a : Acc) k => if a.part.err = E.ok then o.unit d k a else a) { s := s, part := d.part, finds := r.finds }

variable (hrun : s.runningOp cls r.num op = some d)
include hrun

/-- A command without a descriptor lets the running operation go on. -/
theorem State.fwCommand_runs {aux : List Byte} {account : Desc → Nat} {bad : Desc → Code} (hlive : s.live = true) :
    s.fwCommand cls op r [] aux account bad o = s.fwRun cls op r o := by
  simp [State.fwCommand, hlive, State.chooseEngine_busy (State.current_of_runningOp hrun)]

variable (hfree : s.rangesHeld (o.writes d ++ if d.statusAddr = 0 then [] else [(d.statusAddr, 16)]) = false)
include hfree

/-- While units are left the operation keeps its progress. -/
theorem State.fwRun_keeps (hok : (s.nextUnits r o d).part.err = E.ok) (hleft : d.progress + Nat.min (o.units d - d.progress) r.units < o.units d) :
    s.fwRun cls op r o = (s.nextUnits r o d).s.saveDesc cls r.num d.serial fun d' =>
      { d' with progress := d'.progress + Nat.min (o.units d - d.progress) r.units, part := (s.nextUnits r o d).part } := by
  unfold State.nextUnits at hok ⊢
  simp only [State.fwRun, hrun, hfree, Bool.false_eq_true, if_false, hok, hleft, and_self, if_true]

/-- After the last unit, or at an error, it completes and firmware hears of it. -/
theorem State.fwRun_ends
    (hend : (s.nextUnits r o d).part.err ≠ E.ok ∨ o.units d ≤ d.progress + Nat.min (o.units d - d.progress) r.units) :
    s.fwRun cls op r o = (s.nextUnits r o d).s.fwDone cls r.num d (o.ending (s.nextUnits r o d).part) := by
  have hnot : ¬ ((s.nextUnits r o d).part.err = E.ok ∧ d.progress + Nat.min (o.units d - d.progress) r.units < o.units d) := fun h =>
    hend.elim (absurd h.1) (Nat.not_le.2 h.2)
  unfold State.nextUnits at hnot ⊢
  simp only [State.fwRun, hrun, hfree, Bool.false_eq_true, if_false, hnot]

end

/-- MOOR_VERSION runs as the other operations do when no crossing holds an entry of its own (R296, R299). -/
theorem exec_moorVersion {s : State} {r : EngRun} {raw aux : List Byte} {d : Desc} (hrun : s.runningOp 7 r.num 0x0702 = some d)
    (hfree : ∀ pos page f, s.versionPage d = some (pos, page, f) → s.heldByXing (versionCross pos page 0 r.xing).wset = false) :
    exec (.moorVersion r raw aux) s = .next (s.fwCommand 7 0x0702 r raw aux s.copyAccount (s.moorBad 0x0702)
      { units := fun _ => 1, unit := versionUnit r.xing, writes := fun d => [(d.mDst, d.mPage), (d.mPte, 16)], ending := Part.ending }) := by
  show execMoorVersion r raw aux s = _
  unfold execMoorVersion
  rw [hrun, Option.bind_some]
  cases hpage : s.versionPage d with
  | none => rfl
  | some p =>
    obtain ⟨pos, page, f⟩ := p
    simp only [hfree pos page f hpage, Bool.false_eq_true, if_false]

/-- Each command of `fwOps` is `fwCommand` with the operation's units, when no crossing holds an entry of a MOOR_VERSION. -/
theorem exec_fwOp {x : FwOpAt} (hx : x ∈ fwOps) {s : State} {r : EngRun} {d : Desc} (raw aux : List Byte)
    (hrun : s.runningOp x.cls r.num x.op = some d)
    (hfree : ∀ pos page f, x.op = 0x0702 → s.versionPage d = some (pos, page, f) →
      s.heldByXing (versionCross pos page 0 r.xing).wset = false) :
    ∃ account bad, exec (x.instr r raw aux) s = .next (s.fwCommand x.cls x.op r raw aux account bad (x.run r)) := by
  simp only [fwOps, List.mem_cons, List.not_mem_nil, or_false] at hx
  rcases hx with rfl | rfl | rfl | rfl | rfl | rfl
  case inr.inr.inr.inl => exact ⟨_, _, exec_moorVersion hrun fun pos page f => hfree pos page f rfl⟩
  all_goals exact ⟨_, _, rfl⟩

theorem fwOpsRun_holds : fwOpsRun := by
  intro x hx s r aux d hlive hrun hversion hfree n a
  obtain ⟨account, bad, hexec⟩ := exec_fwOp hx [] aux hrun hversion
  rw [hexec, State.fwCommand_runs hrun hlive]
  exact ⟨fun hok hleft => congrArg Host.Outcome.next (State.fwRun_keeps hrun hfree hok hleft),
    fun hend => congrArg Host.Outcome.next (State.fwRun_ends hrun hfree hend)⟩

/-! ### Firmware issues a descriptor (R248 to R250) -/

/-- The descriptor takes the last entry of the queue (R249). -/
def Engine.enter (e : Engine) (d : Desc) : Engine := { e with queue := e.queue ++ [d], gated := false, idleRun := 0 }

/-- What the engine runs stays in front of the entry. -/
theorem Engine.enter_current {e : Engine} {d x : Desc} (h : e.current = some x) : (e.enter d).current = some x := by
  unfold Engine.current at h ⊢
  cases hn : e.running with
  | none => simp [hn] at h
  | some n =>
    have hfind : e.queue.find? (fun d => d.serial == n) = some x := by simpa [hn] using h
    simp [Engine.enter, hn, hfind]

/-- The descriptor, with the next serial, takes an entry of an engine. -/
def State.entered (s : State) (cls num : Nat) (d : Desc) : State :=
  (s.updMs fun m => { m with serial := m.serial + 1 }).updEngine cls num fun e => e.enter { d with serial := s.ms.serial }

@[simp] theorem State.refresh_current {s : State} {e : Engine} : (s.refresh e).current = e.current := by
  simp [Engine.current]

section
variable {s t : State} {cls op : Nat} {r : EngRun} {o : FwOp} {d x : Desc} {bad : Code}

/-- A descriptor issued to an engine that runs another operation comes to nothing more than its issue. -/
theorem State.fwCommand_offers {raw aux : List Byte} {account : Desc → Nat} {bad : Desc → Code} (hlive : s.live = true) (hraw : raw ≠ [])
    (ht : s.fwIssue cls r.num { fwDesc raw aux with account := account (fwDesc raw aux) } (bad (fwDesc raw aux)) = t)
    (hbusy : (t.engine cls r.num).current = some x) (hop : x.opcode ≠ op) : s.fwCommand cls op r raw aux account bad o = t := by
  have hsome : raw.isEmpty = false := by simpa using hraw
  simp [State.fwCommand, hlive, hsome, ht, State.chooseEngine_busy hbusy, State.fwRun, State.runningOp_of_other hbusy hop]

variable (hbusy : (s.engine cls r.num).current = some x)
include hbusy

/-- A report leaves the running operation in progress. -/
theorem State.fwReport_current : ((s.fwReport cls r.num bad).engine cls r.num).current = some x := by
  have hengine : (s.fwReport cls r.num bad).engine cls r.num = _ := State.engine_updEngine hbusy (fun _ => rfl) fun _ => rfl
  rw [hengine]
  exact hbusy

/-- A descriptor that passes takes the last entry of a queue with room, and the running operation goes on. -/
theorem State.fwIssue_enters (hnamed : fld d.raw 16 1 = 0xFF ∨ fld d.raw 16 1 = r.num)
    (hroom : (s.engine cls r.num).queue.length < queueCap cls) :
    ((s.fwIssue cls r.num d E.ok).engine cls r.num).queue = (s.engine cls r.num).queue ++ [{ d with serial := s.ms.serial }] ∧
    ((s.fwIssue cls r.num d E.ok).engine cls r.num).current = some x := by
  have htaken : ¬ ((fld d.raw 16 1 ≠ 0xFF ∧ fld d.raw 16 1 ≠ r.num) ∨ queueCap cls ≤ (s.engine cls r.num).queue.length) := by
    omega
  have hissue : s.fwIssue cls r.num d E.ok = (s.entered cls r.num d).updEngine cls r.num fun e => (s.entered cls r.num d).refresh e := by
    simp only [State.fwIssue, ne_eq, not_true_eq_false, if_false, htaken]
    rfl
  have hentered : (s.entered cls r.num d).engine cls r.num = (s.engine cls r.num).enter { d with serial := s.ms.serial } :=
    State.engine_updEngine (s := s.updMs _) hbusy (fun _ => rfl) fun _ => rfl
  have hcurrent : ((s.entered cls r.num d).engine cls r.num).current = some x := by
    rw [hentered]
    exact Engine.enter_current hbusy
  rw [hissue, State.engine_updEngine hcurrent (fun _ => State.refresh_cls _ _) fun _ => State.refresh_num _ _]
  exact ⟨(State.refresh_queue _ _).trans (congrArg Engine.queue hentered), State.refresh_current.trans hcurrent⟩

end

theorem fwIssues_holds : fwIssues := by
  intro s r raw aux x hlive hraw hbusy hop d
  have hexec : exec (.compPage r raw aux) s = .next (s.fwCommand 6 0x0601 r raw aux (fun _ => 512) (s.compBad 0x0601)
    (compOp fun bs => some (zstdFrame bs))) := rfl
  rw [hexec]
  refine ⟨fun hbad => congrArg Host.Outcome.next (State.fwCommand_offers hlive hraw ?_ (State.fwReport_current hbusy) hop),
    fun hok hnamed hroom => ?_⟩
  · simp [State.fwIssue, hbad, d]
  · obtain ⟨hqueue, hcurrent⟩ := State.fwIssue_enters (d := d) hbusy hnamed hroom
    exact ⟨_, congrArg Host.Outcome.next (State.fwCommand_offers hlive hraw (congrArg (s.fwIssue 6 r.num d) hok) hcurrent hop), hqueue⟩

/-- Settles O30: a running operation by its units, an issued descriptor by its checks. -/
theorem firmwareEnginesComplete : Obligations.FirmwareEnginesComplete := ⟨fwOpsRun_holds, fwIssues_holds⟩

end Sys2Proof.Machine
end

section
/-! SUPPORT. Pages between their frames and the flash tier: a crossing that meets nothing lands, and each command under the conditions of
its rule (R277, R329, R330, R333 to R337, R341). Settles O34. -/

set_option Elab.async false

open Sys2Proof.Claim

namespace Sys2Proof.Machine

variable {s : State}

/-- A firmware crossing that finds an entry, and neither a hold nor an error, lands (R292, R296, R298, R301). -/
theorem State.cross_lands {x : Cross} {fail : Code → State → State} {land : State → State} (herr : x.err = .none)
    (h : crosses s x.reads x.wset) : s.cross x fail land = land (crossed s x.reads x.wset) := by
  obtain ⟨hentry, hheld, hsound⟩ := h
  have hfree : ¬ s.freeFwEntry.isNone = true := by simpa [Option.isSome_iff_ne_none] using hentry
  simp only [State.cross, hfree, hheld, hsound, herr, reduceCtorEq, decide_false, Bool.or_false, Bool.false_eq_true, if_false]
  rfl

/-! ### Fault-in (R330, R333) -/

/-- A fault-in is no longer under way. -/
def State.faultInDone (s : State) (f : FaultIn) : State := s.updMs fun m => { m with faultIns := m.faultIns.filter fun g => g != f }

section
variable {pos page frame : Nat} {e : Pte} {f : FaultIn} {r : PageRead} {u : State}
  (hpage : (s.job pos).pages.find? (fun x => x.1 == page) = some (page, e))
  (hf : s.ms.faultIns.find? (fun f => f.pos == pos && f.page == page) = some f) (hout : e.resident = false)
  (hframe : s.frameFor pos f.stack = some frame)
include hpage hf hout hframe

/-- A page that was read enters its frame in a crossing and its waiters run. -/
theorem exec_faultInComplete_read (hread : s.readPage e.flashPage r = (true, u))
    (hcross : crosses u (pageCross pos page [.unitMap e.flashPage]).reads (pageCross pos page [.unitMap e.flashPage]).wset) :
    exec (.faultInComplete pos page r) s = .next (((((crossed u (pageCross pos page [.unitMap e.flashPage]).reads
      (pageCross pos page [.unitMap e.flashPage]).wset).faultInDone f).makeResident pos page frame).pageCame pos page).flashReport true) := by
  show execFaultInComplete pos page r s = _
  simp only [execFaultInComplete, hf, hpage, hout, Bool.false_eq_true, if_false, hframe, hread]
  exact congrArg Host.Outcome.next (State.cross_lands rfl hcross)

/-- A page that cannot be read fails its waiters. -/
theorem exec_faultInComplete_unread (hread : s.readPage e.flashPage r = (false, u)) :
    exec (.faultInComplete pos page r) s =
      .next (((u.faultInDone f).failPage pos page E.uncorrectable).flashReport false) := by
  show execFaultInComplete pos page r s = _
  simp only [execFaultInComplete, hf, hpage, hout, Bool.false_eq_true, if_false, hframe, hread]
  rfl

end

/-! ### Write-back (R329, R336, R341) -/

/-- A dirty unit that is not being written back is copied out in a crossing. -/
theorem exec_writeBack {pos page unit : Nat} {e : Pte} (hpage : (s.job pos).pages.find? (fun x => x.1 == page) = some (page, e))
    (hlive : s.live = true) (hunit : unit < 4) (hflash : e.flash = true) (hres : e.resident = true) (hdirty : e.unitDirty unit = true)
    (hspare : s.ms.flash.below 2 = false) (hnew : ∀ w ∈ s.ms.writeBacks, ¬(w.pos = pos ∧ w.page = page ∧ w.unit = unit))
    (hcross : crosses s (pageCross pos page []).reads (pageCross pos page []).wset) :
    exec (.writeBack pos page unit) s = .next (((crossed s (pageCross pos page []).reads (pageCross pos page []).wset).setPte pos page
      fun e => { e with dirty := e.dirty &&& ~~~ ((15 : BitVec 16) <<< (4 * unit)) }).updMs fun m =>
        { m with
          writeBacks := m.writeBacks ++ [({ pos := pos, page := page, unit := unit, flashPage := e.flashPage
                                            bytes := rdBytes m.mem (e.frame + 0x4000 * unit) 0x4000, serial := m.serial } : WriteBack)]
          serial := m.serial + 1 }) := by
  have hnone : (s.ms.writeBacks.any fun w => w.pos == pos && w.page == page && w.unit == unit) = false := by
    simpa [and_assoc] using hnew
  show execWriteBack pos page unit s = _
  simp only [execWriteBack, hpage, hlive, Nat.not_le.2 hunit, hflash, hres, hdirty, hspare, hnone, Bool.not_true, decide_false, Bool.or_false,
    Bool.false_eq_true, if_false]
  exact congrArg Host.Outcome.next (State.cross_lands rfl hcross)

/-- The units that a write-back programs: a unit of a compressed page takes its page's other units along (R341). -/
def State.programmed (s : State) (w : WriteBack) : List Nat :=
  if s.ms.flash.packed w.flashPage = true then (List.range 4).map (unitOf w.flashPage) else [unitOf w.flashPage w.unit]

/-- The buffer's bytes stand in the flash tier, and the buffer is free. -/
def State.bufferLanded (s : State) (w : WriteBack) : State :=
  { s with ms := { (s.ms.cleared (flashAddr w.flashPage + 0x4000 * w.unit) 0x4000) with
      mem := wrBytes s.ms.mem (flashAddr w.flashPage + 0x4000 * w.unit) w.bytes
      writeBacks := s.ms.writeBacks.filter fun v => v != w } }

section
variable {pos page unit : Nat} {w : WriteBack}
  (hw : s.ms.writeBacks.find? (fun w => w.pos == pos && w.page == page && w.unit == unit) = some w)
include hw

/-- With room in the tier the units are programmed and mapped, uncompressed. -/
theorem exec_writeBackAck_programmed (hroom : s.ms.flash.room (s.programmed w).length = true) :
    exec (.writeBackAck pos page unit true) s = .next (((((s.bufferLanded w).updFlash fun f =>
      { (f.program (s.programmed w) (s.programmed w).length true) with
          sizes := f.sizes.filter (fun e => e.1 != w.flashPage)
          lifetimeBytes := f.lifetimeBytes + 0x4000 * (s.programmed w).length }).youngPage w.flashPage).spareCheck).flashReport true) := by
  unfold State.programmed at hroom ⊢
  show execWriteBackAck pos page unit true s = _
  simp only [execWriteBackAck, hw, Bool.not_true, Bool.false_eq_true, if_false, hroom]
  rfl

/-- A program that fails retires the block. -/
theorem exec_writeBackAck_failed : exec (.writeBackAck pos page unit false) s =
    .next (((s.updFlash fun f => f.retire (s.programmed w).length).spareCheck).flashReport false) := by
  unfold State.programmed
  show execWriteBackAck pos page unit false s = _
  simp only [execWriteBackAck, hw, Bool.not_false, if_true]

end

theorem pagesComeAndGo_holds : pagesComeAndGo := by
  intro s pos page e hpage
  refine ⟨fun f frame r hf hout hframe => ⟨fun hread hcross => ?_, fun hread => ?_⟩,
    fun unit hlive hunit hflash hres hdirty hspare hnew => exec_writeBack hpage hlive hunit hflash hres hdirty hspare hnew,
    fun w unit hw => ⟨exec_writeBackAck_programmed hw, exec_writeBackAck_failed hw⟩⟩
  · exact exec_faultInComplete_read hpage hf hout hframe (Prod.ext hread rfl) hcross
  · exact exec_faultInComplete_unread hpage hf hout hframe (Prod.ext hread rfl)

/-! ### The sweep (R334, R337) -/

/-- A pool short of free frames opens the eviction of the sweep's victim. -/
theorem exec_evictSweep {pos stack k page : Nat} {t : State} (hlive : s.live = true) (hrun : (s.job pos).st = .running)
    (hpool : s.poolFrames pos stack ≠ []) (hshort : (s.freePool pos stack).length < 64) (hentry : s.freeFwEntry = some k)
    (hvictim : s.sweep pos stack (s.poolFrames pos stack) (2 * (s.poolFrames pos stack).length) = (some page, t)) :
    exec (.evictSweep pos stack) s = .next (t.openXing k (t.newXing (.evict pos page) pos [.pte pos page]
      [.pte pos page, .tlb pos page, .unitMap (((t.job pos).pte (page * 0x10000)).elim 0 fun e => e.2.flashPage)] 1)) := by
  have hsome : (s.poolFrames pos stack).isEmpty = false := by simpa using hpool
  show execEvictSweep pos stack s = _
  simp [execEvictSweep, hlive, hrun, hsome, Nat.not_le.2 hshort, hentry, hvictim]

/-! ### Direct reads of a gather engine (R277, R341) -/

/-- The position waits for this unit. -/
def Fetch.waitsFor (unit : Nat) : Fetch → Bool
  | .flash us => us.contains unit
  | _ => false

/-- The only position that waits for a unit is filled with its row's bytes once the unit has come. -/
theorem exec_gatherFlashReadComplete {core unit i va : Nat} {r : FlashRead} {d : Desc} {t : State} (hlive : s.live = true)
    (hone : ((s.engine 4 core).queue.filter fun d => d.fetch.any fun f => f.2.waitsFor unit) = [d]) (hfetch : d.fetch = [(i, .flash [unit])])
    (hread : s.readUnit unit r = (true, t)) (hhere : t.rowAt d (t.gTab d) i = .here va) :
    exec (.gatherFlashReadComplete core unit r) s =
      .next (t.setFetch core d.serial i (.ready ((t.readThrough d.pos va (t.gTab d).rowBytes).getD []))) := by
  have hcame : t.unitCame core unit true d (i, .flash [unit]) =
      t.setFetch core d.serial i (.ready ((t.readThrough d.pos va (t.gTab d).rowBytes).getD [])) := by
    simp [State.unitCame, hhere]
  have hexec : exec (.gatherFlashReadComplete core unit r) s = .next (
      let ds := (s.engine 4 core).queue.filter fun d => d.fetch.any fun f => f.2.waitsFor unit
      if !s.live || ds.isEmpty then s
      else ds.foldl (fun u d' => d'.fetch.foldl (fun v f => v.unitCame core unit (s.readUnit unit r).1 d' f) u) (s.readUnit unit r).2) := rfl
  simp [hexec, hone, hlive, hread, hfetch, hcame]

theorem sweepsAndDirectReads_holds : sweepsAndDirectReads := by
  intro s hlive
  refine ⟨fun pos page stack k t hrun hpool hshort hentry hvictim => exec_evictSweep hlive hrun hpool hshort hentry hvictim, ?_⟩
  intro core unit r i d va hone hfetch hread t hhere
  exact exec_gatherFlashReadComplete hlive hone hfetch (Prod.ext hread rfl) hhere

/-- Settles O34: fault-in and write-back, then the sweep and the direct reads. -/
theorem pagesMove : Obligations.PagesMove := ⟨pagesComeAndGo_holds, sweepsAndDirectReads_holds⟩

end Sys2Proof.Machine
end

section
/-! SUPPORT. Capsules that act at their port: an immediate one when it is taken, an ordered one in its turn, a groupable one in a crossing
of its own or in its port's open group (R288, R296, R307, R310, R372, R486, R491, R492, R499, R503, R506, R510, R535, R536). Settles O44 and
O45. -/

set_option Elab.async false

open Sys2Proof.Claim

namespace Sys2Proof.Machine

variable {s u : State} {p : Nat} {r : Running}

/-! ### QUERY, CREDIT and EVQ_SETUP (R491, R492, R499) -/

/-- The first taken capsule of an immediate opcode that passes the common checks runs its own meaning. -/
theorem State.immediate_of_taken {op : Nat} {f : State → Running → State} (h : acts s p)
    (htaken : (s.port p).taken.find? (fun r => r.opcode == op) = some r) (hu : u = s.updPort p fun q => q.dropTaken r)
    (hcode : u.commonCode r = E.ok) : s.immediate p op f = f u r := by
  obtain ⟨hup, hawake, hp⟩ := h
  subst hu
  simp [State.immediate, hup, hawake, Nat.not_le.2 hp, htaken, hcode]

section
variable (h : acts s p) (hu : u = s.updPort p fun q => q.dropTaken r) (hcode : u.commonCode r = E.ok)
include h hu hcode

/-- QUERY answers 28 bytes of a record that reaches beyond its offset. -/
theorem exec_query {b : List Byte} (htaken : (s.port p).taken.find? (fun r => r.opcode == Cap.query) = some r)
    (hrecord : u.queryRecord p (r.arg 12 2) (r.arg 16 4) = some b) (hoff : 28 * r.arg 14 2 < b.length) :
    exec (.query p) s = .next (u.respond p r E.ok (slice b (28 * r.arg 14 2) 28)) := by
  show execQuery p s = _
  rw [execQuery, State.immediate_of_taken h htaken hu hcode]
  simp only [hrecord, if_neg (Nat.not_le.2 hoff)]

/-- CREDIT returns no more entries than the ring holds written ones. -/
theorem exec_credit {g : EvRing} (htaken : (s.port p).taken.find? (fun r => r.opcode == Cap.credit) = some r)
    (hring : (u.port p).ring = some g) (hn : r.arg 12 4 ≤ g.written) :
    exec (.credit p) s = .next ((u.updPort p fun q =>
      { q with
        reserved := q.reserved - 1
        ring := q.ring.map fun g => { g with credits := g.credits + r.arg 12 4, written := g.written - r.arg 12 4 } }).takeAll p) := by
  show execCredit p s = _
  rw [execCredit, State.immediate_of_taken h htaken hu hcode]
  simp only [hring, if_neg (Nat.not_lt.2 hn)]

end

theorem exec_evqSetup (h : turnOf s p Cap.evqSetup r u) (hcode : r.ring.code = E.ok) :
    exec (.evqSetup p) s = .next ((u.updPort p fun q => { q with ring := some r.ring }).answerFirst p r) := by
  show execEvqSetup p s = _
  rw [execEvqSetup, State.ordered_of_turn h]
  simp [hcode]

theorem portCapsules_holds : portCapsules := by
  intro s u p r
  refine ⟨fun op h htaken hu hcode => ⟨fun b hop hrecord hoff => ?_, fun g hop hring hn => ?_⟩, exec_evqSetup⟩
  · subst hop
    exact exec_query h hu hcode htaken hrecord hoff
  · subst hop
    exact exec_credit h hu hcode htaken hring hn

/-! ### RESULT_READ (R480, R510) -/

/-- A READY result is read within its length. -/
theorem State.readResult_reads {n : Nat} (hhandle : r.arg 12 2 ≤ 1023) (halign : r.arg 32 8 % 64 = 0)
    (hmay : u.mayAct (posOfHandle (r.arg 12 2)) p = true) (hready : (u.result (r.arg 12 2)).st = .ready)
    (hn : (if r.arg 24 8 = 0 then (u.result (r.arg 12 2)).length - r.arg 16 8 else r.arg 24 8) = n)
    (hlen : r.arg 16 8 + n ≤ (u.result (r.arg 12 2)).length) :
    u.readResult p r = (u.out (.hostWrite p (r.arg 32 8) (slice (u.result (r.arg 12 2)).data (r.arg 16 8) n))).applied
      (leBytes 8 n ++ leBytes 4 (u.result (r.arg 12 2)).publication.toNat ++ leBytes 4 (u.result (r.arg 12 2)).crc.toNat) := by
  have hst : (u.result (r.arg 12 2)).st.answer = E.ok := by rw [hready]; rfl
  have hinside : ¬ ((u.result (r.arg 12 2)).length < r.arg 16 8 ∨ (u.result (r.arg 12 2)).length < r.arg 16 8 + n) := by omega
  simp only [State.readResult, Nat.not_lt.2 hhandle, halign, hmay, hst, hn, hinside, ne_eq, not_true_eq_false, Bool.not_true,
    Bool.false_eq_true, if_false]

theorem resultsAreRead_holds : resultsAreRead := by
  intro s u p r h handle x n hhandle halign hmay hready hlen
  show execResultRead p s = _
  rw [execResultRead, State.ordered_of_turn h]
  simp only [State.readResult_reads hhandle halign hmay hready rfl hlen, State.applied]
  rfl

/-! ### The open group of a port (R307, R309) -/

theorem State.openGroup_of_none (hgroup : (u.port p).group = none) : u.openGroup p = none := by
  simp [State.openGroup, hgroup]

theorem State.expireGroup_of_none (hgroup : (u.port p).group = none) : u.expireGroup p = u := by
  simp [State.expireGroup, State.openGroup_of_none hgroup]

section
variable {g : Nat × List (Nat × List Byte)} {k : Nat} {x : XEntry}

/-- A group within its timeout stays open. -/
theorem State.expireGroup_inTime (hopen : u.openGroup p = some (g, k, x)) (hin : u.timedOut x = false) : u.expireGroup p = u := by
  simp [State.expireGroup, hopen, hin]

/-- A groupable capsule joins its port's open group. -/
theorem State.groupable_of_open {op : Nat} {wait : State → Running → Bool} (h : turnOf s p op r u)
    (hheld : s.heldByXing (s.capEntries p r) = false) (hopen : u.openGroup p = some (g, k, x)) (hin : u.timedOut x = false) :
    s.groupable p op wait = u.joinGroup p r g k x := by
  have hnext : (s.port p).nextOrdered = some r := h.2.1
  simp only [State.groupable, hnext, hheld, Bool.false_eq_true, if_false]
  rw [State.ordered_of_turn h]
  simp only [State.expireGroup_inTime hopen hin, hopen]

end

/-! ### A capsule in a crossing of its own (R288, R296, R310) -/

section
variable {op : Nat} {wait : State → Running → Bool} (h : aloneOf s p op r u)
include h

/-- Outside a group a groupable capsule runs in a crossing of its own. -/
theorem State.groupable_of_alone : s.groupable p op wait = u.ownCrossing p r wait := by
  obtain ⟨hturn, hgroup, hheld, -⟩ := h
  have hnext : (s.port p).nextOrdered = some r := hturn.2.1
  simp only [State.groupable, hnext, hheld, Bool.false_eq_true, if_false]
  rw [State.ordered_of_turn hturn]
  simp only [State.expireGroup_of_none hgroup, State.openGroup_of_none hgroup]

theorem opcode_of_alone : r.opcode = op := by
  obtain ⟨⟨-, -, hop, -⟩, -⟩ := h
  exact hop

/-- The crossing finds an entry, or needs none. -/
theorem State.room_of_alone : (!(u.capEntries p r).isEmpty && (u.freeGroupEntry p).isNone) = false := by
  obtain ⟨-, -, -, hnone | hfree⟩ := h
  · simp [hnone]
  · simp [Option.isNone_eq_false_iff, Option.isSome_iff_ne_none, hfree]

/-- A capsule that fails a check is answered and changes nothing else. -/
theorem State.groupable_refuses (hcode : (u.applyCap p r).code ≠ E.ok) :
    s.groupable p op wait = u.answer p (u.applyCap p r).code [] := by
  simp only [State.groupable_of_alone h, State.ownCrossing, State.room_of_alone h, Bool.false_eq_true, if_false, if_pos hcode]

variable {t : State} {data : List Byte} (happlied : u.applyCap p r = t.applied data)
include happlied

/-- One that changes an entry lands, is counted, and is answered unless it waits. -/
theorem State.groupable_lands {e : XEnt} (hes : u.capEntries p r = [e]) : s.groupable p op wait =
    if wait (crossed t [] [e]) r then crossed t [] [e] else (crossed t [] [e]).answer p E.ok data := by
  simp only [State.groupable_of_alone h, State.ownCrossing, State.room_of_alone h, happlied, State.applied, ne_eq, not_true_eq_false,
    Bool.false_eq_true, if_false]
  rw [hes]
  rfl

/-- One that changes no entry needs no crossing. -/
theorem State.groupable_stages (hes : u.capEntries p r = []) (hanswered : wait t r = false) :
    s.groupable p op wait = t.answer p E.ok data := by
  simp only [State.groupable_of_alone h, State.ownCrossing, State.room_of_alone h, happlied, State.applied, ne_eq, not_true_eq_false,
    Bool.false_eq_true, if_false]
  simp only [hes, List.isEmpty_nil, hanswered, Bool.false_eq_true, if_true, if_false]

end

/-- The command of a groupable capsule runs it as one. -/
theorem exec_groupableCap {o : Nat × Instr} (ho : o ∈ groupableCaps p) :
    ∃ wait, ∀ s, exec o.2 s = .next (s.groupable p o.1 wait) := by
  simp only [groupableCaps, List.mem_cons, List.not_mem_nil, or_false] at ho
  rcases ho with rfl | rfl | rfl | rfl | rfl | rfl <;> exact ⟨_, fun _ => rfl⟩

/-! ### Each groupable capsule by its opcode (R287, R288) -/

theorem State.applyCap_feedOpen (hop : r.opcode = Cap.feedOpen) : u.applyCap p r = u.feedOpen p r := by
  rw [State.applyCap, hop]; rfl

theorem State.applyCap_feedClose (hop : r.opcode = Cap.feedClose) : u.applyCap p r = u.feedClose p r := by
  rw [State.applyCap, hop]; rfl

/-- Outside the cargo feed, opening and closing change the entry of the feed named. -/
theorem State.capEntries_feed (hop : r.opcode = Cap.feedOpen ∨ r.opcode = Cap.feedClose) (hcargo : r.cargo = false) :
    u.capEntries p r = [.feed (r.arg 12 1) (r.arg 13 1)] := by
  simp [State.capEntries, hop, hcargo]

theorem State.applyCap_resultRelease (hop : r.opcode = Cap.resultRelease) : u.applyCap p r = u.releaseResult p r := by
  rw [State.applyCap, hop]; rfl

theorem State.capEntries_resultRelease (hop : r.opcode = Cap.resultRelease) : u.capEntries p r = [.result (r.arg 12 2)] := by
  rw [State.capEntries, hop]; rfl

theorem State.applyCap_settingsSet (hop : r.opcode = Cap.settingsSet) : u.applyCap p r = u.stageSetting p r := by
  rw [State.applyCap, hop]; rfl

theorem State.capEntries_settingsSet (hop : r.opcode = Cap.settingsSet) : u.capEntries p r = [] := by
  rw [State.capEntries, hop]; rfl

theorem State.applyCap_settingsStore (hop : r.opcode = Cap.settingsStore) : u.applyCap p r = u.storeSettings p r := by
  rw [State.applyCap, hop]; rfl

theorem State.capEntries_settingsStore (hop : r.opcode = Cap.settingsStore) (hstaged : u.hasStaged p (r.arg 12 2) = true) :
    u.capEntries p r = [.logbook (r.arg 12 2)] := by
  rw [State.capEntries, hop, hstaged]; rfl

theorem State.applyCap_moorNow (hop : r.opcode = Cap.moorNow) : u.applyCap p r = u.moorNow p := by
  rw [State.applyCap, hop]; rfl

theorem State.capEntries_moorNow (hop : r.opcode = Cap.moorNow) : u.capEntries p r = [.mooring] := by
  rw [State.capEntries, hop]; rfl

/-! ### Feeds (R503, R506) -/

section
variable (hcargo : r.cargo = false) (hpos : r.arg 12 1 ≤ 1) (hpresent : (u.job (r.arg 12 1)).present = true)
  (hmay : u.mayAct (r.arg 12 1) p = true)
include hcargo hpos hpresent hmay

theorem State.feedOpen_opens {d : FeedDecl} (hclosed : ((u.job (r.arg 12 1)).feed (r.arg 13 1)).isOpen = false)
    (hdecl : (u.job (r.arg 12 1)).man.feeds.find? (fun d => d.feed == r.arg 13 1) = some d) (hrecords : ringRecordsOk (r.arg 24 4) = true)
    (hblock : d.blockRecs ≤ r.arg 24 4)
    (hcursor : ((u.job (r.arg 12 1)).feed (r.arg 13 1)).opened = true → r.arg 48 8 = ((u.job (r.arg 12 1)).feed (r.arg 13 1)).cursor)
    (hbytes : r.arg 28 4 = d.recBytes) (haligned : r.feedAligned = true) :
    u.feedOpen p r = (u.updJob (r.arg 12 1) fun j => j.updFeed (r.arg 13 1) fun f => f.bind p r).applied
      (leBytes 8 (((u.job (r.arg 12 1)).feed (r.arg 13 1)).startAt (r.arg 48 8))) := by
  have hstart : ¬ (((u.job (r.arg 12 1)).feed (r.arg 13 1)).opened = true ∧
      r.arg 48 8 ≠ ((u.job (r.arg 12 1)).feed (r.arg 13 1)).cursor) := fun hbad => hbad.2 (hcursor hbad.1)
  have hring : (!ringRecordsOk (r.arg 24 4) || decide (r.arg 24 4 < d.blockRecs)) = false := by simp [hrecords, hblock]
  simp only [State.feedOpen, hcargo, Nat.not_lt.2 hpos, hpresent, hmay, hclosed, hdecl, hring, hstart, hbytes, haligned,
    Bool.not_true, ne_eq, not_true_eq_false, Bool.false_eq_true, if_false]

theorem State.feedClose_shuts (hfeed : r.arg 13 1 ≤ 7) (hopen : ((u.job (r.arg 12 1)).feed (r.arg 13 1)).isOpen = true) :
    u.feedClose p r = (u.updJob (r.arg 12 1) fun j => j.updFeed (r.arg 13 1) Feed.shut).applied
      (leBytes 8 ((u.job (r.arg 12 1)).feed (r.arg 13 1)).cursor) := by
  have hrange : ¬ (1 < r.arg 12 1 ∨ 7 < r.arg 13 1) := by omega
  simp only [State.feedClose, hcargo, hrange, hpresent, hmay, hopen, Bool.not_true, Bool.false_eq_true, if_false]

end

/-! ### Results, settings and the mooring (R372, R510, R535, R536) -/

theorem State.releaseResult_releases (hhandle : r.arg 12 2 ≤ 1023) (hmay : u.mayAct (posOfHandle (r.arg 12 2)) p = true)
    (hready : (u.result (r.arg 12 2)).st = .ready) : u.releaseResult p r =
      (u.setResult (r.arg 12 2) { u.result (r.arg 12 2) with st := .released, data := [] }).applied
        (leBytes 4 (u.result (r.arg 12 2)).publication.toNat) := by
  have hst : (u.result (r.arg 12 2)).st.answer = E.ok := by rw [hready]; rfl
  simp only [State.releaseResult, Nat.not_lt.2 hhandle, hmay, hst, ne_eq, not_true_eq_false, Bool.not_true, Bool.false_eq_true, if_false]

theorem State.stageSetting_stages {d : SettingDef} (hdef : settingDef (r.arg 12 2) = some d) (hlen : r.arg 14 1 = d.len)
    (hzero : ∀ i < 32, d.len ≤ i → r.arg (16 + i) 1 = 0) (hlo : d.lo ≤ r.arg 16 d.len) (hhi : r.arg 16 d.len ≤ d.hi) :
    u.stageSetting p r = (u.updPort p fun q => { q with staged := q.staged.filter (fun x => x.1 != r.arg 12 2) ++
      [(r.arg 12 2, slice (r.bytes.drop 16) 0 d.len)] }).applied [] := by
  have hrest : ((List.range 32).any fun i => decide (d.len ≤ i) && r.arg (16 + i) 1 != 0) = false := by
    simpa using hzero
  have hrange : ¬ (r.arg 16 d.len < d.lo ∨ d.hi < r.arg 16 d.len) := by omega
  simp only [State.stageSetting, hlen, hrest, hdef, hrange, ne_eq, not_true_eq_false, Bool.false_eq_true, if_false]

theorem State.storeSettings_stores {x : LogRec} (hrecord : r.arg 12 2 ∈ settingsRecords) (hstaged : u.hasStaged p (r.arg 12 2) = true)
    (hfree : u.logBusy (r.arg 12 2) = false)
    (hstore : (u.logRec (r.arg 12 2)).store u.aoc (u.settingsBytes p (r.arg 12 2)) = (E.ok, x)) :
    u.storeSettings p r = ((u.setLog (r.arg 12 2) x).clearStaged p (r.arg 12 2)).applied [] := by
  simp [State.storeSettings, hrecord, hstaged, hfree, hstore]

theorem State.moorNow_due (hrun : (u.job 0).st = .running) (hmay : u.mayAct 0 p = true) (hidle : u.moor.st = .idle) :
    u.moorNow p = u.moorDue.applied [] := by
  simp [State.moorNow, hrun, hmay, hidle]

theorem groupablesAct_holds : groupablesAct := by
  intro s u p r
  refine ⟨?refused, ?feedOpen, ?feedClose, ?release, ?set, ?store, ?moor⟩
  case refused =>
    intro o ho h hcode
    obtain ⟨wait, hexec⟩ := exec_groupableCap ho
    rw [hexec, State.groupable_refuses h hcode]
  case feedOpen =>
    intro d h hcargo hpos pos i f hpresent hmay hclosed hdecl hrecords hblock hcursor hbytes haligned
    have happlied := (State.applyCap_feedOpen (opcode_of_alone h)).trans
      (State.feedOpen_opens hcargo hpos hpresent hmay hclosed hdecl hrecords hblock hcursor hbytes haligned)
    exact congrArg Host.Outcome.next (State.groupable_lands h happlied (State.capEntries_feed (.inl (opcode_of_alone h)) hcargo))
  case feedClose =>
    intro h hcargo hpos hfeed pos i f hpresent hmay hopen t
    have happlied := (State.applyCap_feedClose (opcode_of_alone h)).trans (State.feedClose_shuts hcargo hpos hpresent hmay hfeed hopen)
    have hexec : exec (.feedClose p) s = .next (if ((t.job pos).feed i).isOpen then t else t.answer p E.ok (leBytes 8 f.cursor)) := by
      show execFeedClose p s = _
      rw [execFeedClose, State.groupable_lands h happlied (State.capEntries_feed (.inr (opcode_of_alone h)) hcargo)]
      simp only [hcargo, Bool.not_false, Bool.true_and]
      rfl
    exact ⟨fun hshut => by rw [hexec, hshut]; rfl, fun hwaits => by rw [hexec, if_pos hwaits]⟩
  case release =>
    intro handle x h hhandle hmay hready
    have happlied := (State.applyCap_resultRelease (opcode_of_alone h)).trans (State.releaseResult_releases hhandle hmay hready)
    exact congrArg Host.Outcome.next (State.groupable_lands h happlied (State.capEntries_resultRelease (opcode_of_alone h)))
  case set =>
    intro d h hdef hlen hzero hlo hhi
    have happlied := (State.applyCap_settingsSet (u := u) (p := p) (opcode_of_alone h)).trans
      (State.stageSetting_stages hdef hlen hzero hlo hhi)
    exact congrArg Host.Outcome.next (State.groupable_stages h happlied (State.capEntries_settingsSet (opcode_of_alone h)) rfl)
  case store =>
    intro x h hrecord hstaged hfree hstore
    have happlied := (State.applyCap_settingsStore (opcode_of_alone h)).trans (State.storeSettings_stores hrecord hstaged hfree hstore)
    exact congrArg Host.Outcome.next (State.groupable_lands h happlied (State.capEntries_settingsStore (opcode_of_alone h) hstaged))
  case moor =>
    intro h hrun hmay hidle
    have happlied := (State.applyCap_moorNow (opcode_of_alone h)).trans (State.moorNow_due hrun hmay hidle)
    exact congrArg Host.Outcome.next (State.groupable_lands h happlied (State.capEntries_moorNow (opcode_of_alone h)))

/-- Settles O44: the capsules of the port, the groupable ones outside a group, and the reading of results. -/
theorem capsulesAct : Obligations.CapsulesAct := ⟨portCapsules_holds, groupablesAct_holds, resultsAreRead_holds⟩

end Sys2Proof.Machine
end

section
/-! SUPPORT. Capsule groups: XING_BEGIN opens one, a groupable capsule joins it, XING_COMMIT lands it whole or aborts it, XING_ABORT drops
it (R288, R292, R296, R307, R308, R506). Settles O45. -/

set_option Elab.async false

open Sys2Proof.Claim

namespace Sys2Proof.Machine

variable {s u : State} {p k : Nat} {r : Running} {g : Nat × List (Nat × List Byte)} {x : XEntry}

/-! ### XING_BEGIN (R292, R307) -/

/-- With no group open and a free entry, a group opens under the next handle. -/
theorem exec_xingBegin (h : turnOf s p Cap.xingBegin r u) (hgroup : (u.port p).group = none) (hfree : u.freeGroupEntry p = some k) :
    exec (.xingBegin p) s = .next (
      let v := u.openXing k (u.newXing (.group p u.nextHandle.toNat) 0 [] [] 0)
      (({ v with nextHandle := v.nextHandle + 1 } : State).updPort p fun q =>
        { q with group := some (u.nextHandle.toNat, []) }).answer p E.ok (leBytes 4 u.nextHandle.toNat)) := by
  show execXingBegin p s = _
  rw [execXingBegin, State.ordered_of_turn h]
  simp only [State.expireGroup_of_none hgroup, hgroup, hfree, Option.isSome_none, Bool.false_eq_true, if_false]

/-! ### XING_COMMIT and XING_ABORT (R296, R308, R506) -/

section
variable (hopen : u.openGroup p = some (g, k, x)) (hin : u.timedOut x = false) (hhandle : g.1 = r.arg 12 4)
include hopen hin hhandle

/-- The group's actions are applied in order: all land, or the group aborts with the code of the first that fails. -/
theorem exec_xingCommit (h : turnOf s p Cap.xingCommit r u) : exec (.xingCommit p) s = .next (
    let a := u.applyAll p g.2
    let left := a.state.stillClosing g.2
    let t := (a.state.landXing k x).updPort p fun q => { q.endGroup g.1 E.ok with landing := left }
    if a.code ≠ E.ok then (u.abortXing k a.code).answer p a.code [] else if left = [] then t.answer p E.ok [] else t) := by
  show execXingCommit p s = _
  rw [execXingCommit, State.ordered_of_turn h]
  simp only [State.expireGroup_inTime hopen hin, hopen, ← hhandle, ne_eq, not_true_eq_false, if_false, List.isEmpty_iff]

theorem exec_xingAbort (h : turnOf s p Cap.xingAbort r u) :
    exec (.xingAbort p) s = .next ((u.abortXing k E.xingAborted).answer p E.ok []) := by
  show execXingAbort p s = _
  rw [execXingAbort, State.ordered_of_turn h]
  simp only [State.expireGroup_inTime hopen hin, hopen, ← hhandle, ne_eq, not_true_eq_false, if_false]

end

/-! ### A capsule joins (R290, R307) -/

/-- The group's write set once this capsule, whose entries are those of `before`, has joined. -/
def XEntry.joined (x : XEntry) (before : State) (p : Nat) (r : Running) : List XEnt :=
  x.wset ++ (before.capEntries p r).filter fun e => !x.wset.contains e

/-- A capsule that passes on the state that the group would leave is recorded, with its entries. -/
theorem State.joinGroup_records (hroom : g.2.length < 64) (hbefore : (u.applyAll p g.2).code = E.ok)
    (hcode : ((u.applyAll p g.2).state.applyCap p r).code = E.ok) (hsize : (x.joined (u.applyAll p g.2).state p r).length ≤ 256) :
    u.joinGroup p r g k x = ((u.updPort p fun q => { q with group := some (g.1, g.2 ++ [(r.opcode, r.bytes)]) }).updXing k fun y =>
      { y with acts := y.acts + 1, wset := x.joined (u.applyAll p g.2).state p r }).answer p E.ok
        ((u.applyAll p g.2).state.applyCap p r).data := by
  unfold XEntry.joined at hsize ⊢
  have hfits : ¬ (64 ≤ g.2.length ∨
      256 < (x.wset ++ ((u.applyAll p g.2).state.capEntries p r).filter fun e => !x.wset.contains e).length) := by omega
  simp only [State.joinGroup, hbefore, hcode, hfits, ne_eq, not_true_eq_false, if_false]

/-- Settles O45, capsule by capsule. -/
theorem capsuleGroups : Obligations.CapsuleGroups := by
  intro s u p k r g x
  refine ⟨exec_xingBegin, fun hopen hin hhandle => ⟨fun h => ?commits, exec_xingAbort hopen hin hhandle⟩, ?joins⟩
  case commits =>
    have hexec := exec_xingCommit hopen hin hhandle h
    refine ⟨fun hok hnone => ?_, fun hok hleft => ?_, fun hfails => ?_⟩
    · rw [hexec]; simp only [hok, hnone, ne_eq, not_true_eq_false, if_false, if_true]
    · rw [hexec]; simp only [hok, hleft, ne_eq, not_true_eq_false, if_false]
    · rw [hexec]; simp only [hfails, ne_eq, not_false_eq_true, if_true]
  case joins =>
    intro hopen hin hroom o ho h hheld before a wset hbefore hcode hsize
    obtain ⟨wait, hexec⟩ := exec_groupableCap ho
    rw [hexec, State.groupable_of_open h hheld hopen hin]
    exact congrArg Host.Outcome.next (State.joinGroup_records hroom hbefore hcode hsize)

end Sys2Proof.Machine
end

section
/-! SUPPORT. Sensors, duty and the fatal causes outside memory: what a firing leaves alone, the step of the thermal duty, and the entry
into FAULTED (R320, R369, R550, R586, R603, R605). Settles O51. -/

set_option Elab.async false

open Sys2Proof.Claim

namespace Sys2Proof.Machine

variable {s : State}

/-! ### What a firing leaves alone (R557) -/

@[simp] theorem State.fire_dev (n : Nat) : (s.fire n).dev = s.dev := by
  simp only [State.fire, apply_ite State.dev, ite_self]

@[simp] theorem State.fire_pw (n : Nat) : (s.fire n).pw = s.pw := by
  simp only [State.fire, apply_ite State.pw, ite_self]

/-- Firmware runs in no state without power. -/
theorem State.powered_of_fwUp (hup : s.fwUp = true) : s.powered = true := by
  cases hdev : s.dev <;> simp_all [State.fwUp, State.powered]

/-! ### The power duty (R603) -/

theorem exec_powerDutyEvaluate {watts : W16} {duty : Nat} (hup : s.fwUp = true) (hlow : 1 ≤ duty) (hhigh : duty ≤ 16) :
    exec (.powerDutyEvaluate watts duty) s = .next (
      let p := { s.pw with pin := watts, energyMj := s.pw.energyMj + watts.toNat }
      { s with pw := p.withDuty { p with powerDuty := duty } }) := by
  have hmeasured (pw : Power) : ({ s with pw := pw } : State).fwUp = true := hup
  show execPowerDutyEvaluate watts duty s = _
  simp [execPowerDutyEvaluate, State.powered_of_fwUp hup, hmeasured, Nat.not_lt.2 hlow, Nat.not_lt.2 hhigh]

/-! ### The thermal duty (R369, R550, R605) -/

/-- The power state once the three sensors have been read. -/
def Power.sensed (p : Power) (tLogic tDram0 tDram1 : W16) : Power := { p with tLogic := tLogic, tDram0 := tDram0, tDram1 := tDram1 }

/-- Source 266 fires when the new readings `p` cross a tide step of the margin. -/
def State.marginFired (s : State) (p : Power) : State := if s.pw.marginPoints = p.marginPoints then s else s.fire 266

@[simp] theorem State.marginFired_pw (p : Power) : (s.marginFired p).pw = s.pw := by
  simp only [State.marginFired, apply_ite State.pw, State.fire_pw, ite_self]

@[simp] theorem State.marginFired_fwUp (p : Power) : (s.marginFired p).fwUp = s.fwUp := by
  have hdev : (s.marginFired p).dev = s.dev := by simp only [State.marginFired, apply_ite State.dev, State.fire_dev, ite_self]
  rw [State.fwUp, hdev, State.fwUp]

/-- The power state after the readings `p`: the thermal duty falls when a sensor is hot, rises when all are below the lower threshold,
and stays in between. -/
def Power.thermalStep (old p : Power) : Power :=
  if p.hot = true then old.withDuty { p with thermalDuty := Nat.max 1 (p.thermalDuty - 1) }
  else if p.belowThrottle = true then old.withDuty { p with thermalDuty := Nat.min 16 (p.thermalDuty + 1) }
  else p

/-- The two thresholds exclude each other: the lower lies below the upper. -/
theorem Power.not_hot_of_belowThrottle {p : Power} (h : p.belowThrottle = true) : p.hot = false := by
  simp only [Power.belowThrottle, Power.hot, Bool.and_eq_true, Bool.or_eq_false_iff, decide_eq_true_eq, decide_eq_false_iff_not] at h ⊢
  omega

theorem exec_thermalDutyStep {a b c : W16} (hup : s.fwUp = true) :
    exec (.thermalDutyStep a b c) s =
      .next { s.marginFired (s.pw.sensed a b c) with pw := s.pw.thermalStep (s.pw.sensed a b c) } := by
  have hexec : exec (.thermalDutyStep a b c) s = .next (
      let p := s.pw.sensed a b c
      let t := s.marginFired p
      if !s.powered then s
      else if !t.fwUp then { t with pw := p }
      else if p.hot then { t with pw := t.pw.withDuty { p with thermalDuty := Nat.max 1 (p.thermalDuty - 1) } }
      else if p.belowThrottle then { t with pw := t.pw.withDuty { p with thermalDuty := Nat.min 16 (p.thermalDuty + 1) } }
      else { t with pw := p }) := rfl
  rw [hexec]
  simp only [State.powered_of_fwUp hup, State.marginFired_fwUp, State.marginFired_pw, hup, Bool.not_true, Bool.false_eq_true, if_false,
    Power.thermalStep]
  split
  · rfl
  · split <;> rfl

/-! ### Refresh and droop (R320, R369, R550) -/

theorem exec_stackRefreshDoubled {stack : Nat} {hot step : Bool} (hup : s.fwUp = true) :
    exec (.stackRefreshDoubled stack hot step) s = .next (
      let t := if step then s.fire 266 else s
      { t with pw := { t.pw with refresh2x := lset t.pw.refresh2x stack hot } }) := by
  show execStackRefreshDoubled stack hot step s = _
  simp only [execStackRefreshDoubled, hup, Bool.not_true, Bool.false_eq_true, if_false]

theorem exec_voltageDroopEvent (hlive : s.live = true) : exec .voltageDroopEvent s = .next (
    let t := s.fire 267
    { t with tide := { t.tide with droops := t.aoc :: t.tide.droops } }) := by
  show execVoltageDroopEvent s = _
  rw [execVoltageDroopEvent, if_pos hlive]

theorem throttling_holds : throttling := by
  intro s hup
  refine ⟨fun watts duty => exec_powerDutyEvaluate hup, fun a b c => ?thermal,
    fun stack hot step => exec_stackRefreshDoubled hup, exec_voltageDroopEvent⟩
  case thermal =>
    intro p t
    have hexec : exec (.thermalDutyStep a b c) s = .next { t with pw := s.pw.thermalStep p } := exec_thermalDutyStep hup
    rw [hexec, Power.thermalStep]
    refine ⟨fun hhot => ?_, fun hbelow => ?_, fun hcool hwarm => ?_⟩
    · rw [if_pos hhot]
    · rw [Power.not_hot_of_belowThrottle hbelow, if_neg Bool.false_ne_true, if_pos hbelow]
    · rw [hcool, hwarm, if_neg Bool.false_ne_true, if_neg Bool.false_ne_true]

/-! ### Fatal causes (R550, R586) -/

@[simp] theorem State.setDev_dev (d : DevState) : (s.setDev d).dev = d := by
  unfold State.setDev
  split
  · assumption
  · rfl

/-- From every state in which firmware runs a fatal detection leaves the device in FAULTED (R585 to R590). -/
theorem State.enterFaulted_dev {source : Nat} {code : Code} {laws : BitVec 11} {loc near : Nat} (hup : s.fwUp = true) :
    (s.enterFaulted source code laws loc near).dev = .faulted := by
  have hon : ¬ (s.dev = .off ∨ s.dev = .alwaysOn) := by
    rintro (hdev | hdev) <;> simp [State.fwUp, hdev] at hup
  unfold State.enterFaulted
  rw [if_neg hon]
  dsimp only
  generalize ((s.fire source).snapDetect code laws loc).count 0x1048 = u
  split
  next hfaulted => split <;> exact hfaulted
  next => simp only [State.setDev_dev]

/-- Each cause enters FAULTED under its source, and the watchdog only fires. -/
theorem fatalCauses_hold : fatalCauses := by
  intro s hup
  refine ⟨fun hlive => ?lane, ?clock, ?regulator, fun shore hshore => ?shore, fun core hcore => ?watchdog,
    fun source code laws loc near => State.enterFaulted_dev hup⟩
  case lane => show execBridgeLaneLost s = _; rw [execBridgeLaneLost, if_pos hlive]
  case clock => show execReferenceClockLost s = _; rw [execReferenceClockLost, if_pos hup]
  case regulator => show execRegulatorFault s = _; rw [execRegulatorFault, if_pos hup]
  case shore => show execFatalMemoryError shore s = _; simp [execFatalMemoryError, hup, hshore]
  case watchdog => show execControlCoreWatchdog core s = _; simp [execControlCoreWatchdog, hup, hcore]

/-- Settles O51: throttling and sensors, then the fatal causes. -/
theorem throttlingAndFatalCauses : Obligations.ThrottlingAndFatalCauses := ⟨throttling_holds, fatalCauses_hold⟩

end Sys2Proof.Machine
end

section
/-! SUPPORT. The background work of the flash controller: aging, the fall-back, and the block commands, each under the conditions of its
rule (R328, R329, R339 to R341, R575, R585). Settles O35. -/

set_option Elab.async false

namespace Sys2Proof.Machine

variable {s : State}

/-- PAGE_AGE_TICK ages every page at once (R340). -/
theorem exec_pageAgeTick (hlive : s.live = true) :
    exec .pageAgeTick s = .next (s.updFlash fun f => { f with ageTicks := f.ageTicks + 1 }) := by
  show execPageAgeTick s = _
  rw [execPageAgeTick, if_pos hlive]

/-! ### The fall-back (R339 to R341) -/

/-- The bytes of a flash page's compressed frame. -/
def State.packedSize (s : State) (page : Nat) : Nat := (zstdFrame (rdBytes s.ms.mem (flashAddr page) 0x10000)).length

section
variable {page fails : Nat} (hlive : s.live = true) (hlow : s.ms.flash.fallback = true) (hpackable : s.packable page = true)
  (holdest : ∀ e ∈ s.ms.flash.map, s.packable (e.1 / 4) = true → s.ms.flash.age (e.1 / 4) ≤ s.ms.flash.age page)
include hlive hlow hpackable holdest

/-- On the oldest page that it may pack, the fall-back acts by the size of the page's frame. -/
theorem exec_compressionFallback : exec (.compressionFallback { num := page, fails := fails }) s = .next (
    let n := s.packedSize page
    let k := ceilDiv n 0x4000
    let g := s.ms.flash.failing k fails
    if 49152 < n then s.updFlash fun f => { f with skip := tset 0 page (s.aoc + dayAoc) f.skip }
    else (s.updFlash fun _ =>
      if g.room k then { (g.program ((List.range 4).map (unitOf page)) k false) with sizes := tset 0 page n g.sizes } else g).spareCheck) := by
  have hnone : (s.ms.flash.map.any fun e =>
      s.packable (e.1 / 4) && decide (s.ms.flash.age page < s.ms.flash.age (e.1 / 4))) = false := by
    simpa [List.any_eq_false] using holdest
  show execCompressionFallback { num := page, fails := fails } s = _
  simp only [execCompressionFallback, hlive, hlow, hpackable, hnone, Bool.not_true, Bool.or_self, Bool.false_eq_true, if_false]
  rfl

/-- A frame of more than three flash units is not kept, and its page is skipped for 24 h. -/
theorem exec_compressionFallback_skips (hlarge : 49152 < s.packedSize page) :
    exec (.compressionFallback { num := page, fails := fails }) s =
      .next (s.updFlash fun f => { f with skip := tset 0 page (s.aoc + 2160000000000) f.skip }) := by
  rw [exec_compressionFallback hlive hlow hpackable holdest]
  exact congrArg Host.Outcome.next (if_pos hlarge)

/-- A frame that fits is programmed for the page's four units, after the programs that fail. -/
theorem exec_compressionFallback_packs (hsmall : s.packedSize page ≤ 49152)
    (hroom : (s.ms.flash.failing (ceilDiv (s.packedSize page) 0x4000) fails).room (ceilDiv (s.packedSize page) 0x4000) = true) :
    exec (.compressionFallback { num := page, fails := fails }) s = .next (
      let n := s.packedSize page
      let g := s.ms.flash.failing (ceilDiv n 0x4000) fails
      (s.updFlash fun _ => { (g.program ((List.range 4).map (unitOf page)) (ceilDiv n 0x4000) false) with
        sizes := tset 0 page n g.sizes }).spareCheck) := by
  rw [exec_compressionFallback hlive hlow hpackable holdest]
  simp only [Nat.not_lt.2 hsmall, hroom, if_true, if_false]

end

/-! ### Relocation and wear levelling (R328, R329) -/

/-- The block that takes programs once `b` takes none. -/
def Flash.openBut (f : Flash) (b : Nat) : Option Nat := if f.openBlock = some b then none else f.openBlock

/-- A block that was read too often, or needed a retry, is emptied. -/
theorem exec_blockRelocation {b fails : Nat} (hlive : s.live = true) (hvalid : (s.ms.flash.blk b).st = .valid)
    (hworn : 100000 ≤ (s.ms.flash.blk b).reads ∨ (s.ms.flash.blk b).retry = true) :
    exec (.blockRelocation { num := b, fails := fails }) s = .next (s.updFlash fun f =>
      ((({ f with openBlock := f.openBut b } : Flash).failing 1 fails).moveAll b).settleBlk b).spareCheck := by
  have hdue : (decide (100000 ≤ (s.ms.flash.blk b).reads) || (s.ms.flash.blk b).retry) = true := by simpa using hworn
  have hclosed (f : Flash) : (if f.openBlock = some b then { f with openBlock := none } else f) = { f with openBlock := f.openBut b } := by
    unfold Flash.openBut
    split <;> rfl
  show execBlockRelocation { num := b, fails := fails } s = _
  simp only [execBlockRelocation, hlive, hvalid, hdue, hclosed, bne_self_eq_false, Bool.not_true, Bool.or_self, Bool.false_eq_true, if_false]

/-- Data leaves the valid block of fewest erases for the free block of fewest while a good block is 200 erases ahead. -/
theorem exec_wearLevelMove {b fails dst z : Nat} {y : Blk} (hlive : s.live = true) (hvalid : (s.ms.flash.blk b).st = .valid)
    (hfree : (s.ms.flash.blk dst).st = .free) (hdst : dst < 524288) (hleast : (s.ms.flash.blk dst).erases ≤ s.ms.flash.leastFree)
    (hz : (z, y) ∈ s.ms.flash.blocks) (hgood : y.st ≠ .bad) (hspread : (s.ms.flash.blk b).erases + 200 < y.erases)
    (hlowest : (s.ms.flash.blk b).erases ≤ lowest ((s.ms.flash.blocks.filter fun e => e.2.st == .valid).map fun e => e.2.erases)) :
    exec (.wearLevelMove { num := b, fails := fails } dst) s = .next (s.updFlash fun f =>
      let g := { (f.updBlk dst (fun k => { k with st := .valid, used := 0 })) with openBlock := some dst }
      { (((g.failing 1 fails).moveAll b).settleBlk b) with openBlock := f.openBut b }).spareCheck := by
  have hapart : (s.ms.flash.blocks.any fun e => e.2.st != .bad && decide ((s.ms.flash.blk b).erases + 200 < e.2.erases)) = true :=
    List.any_eq_true.2 ⟨(z, y), hz, by simp [hgood, hspread]⟩
  have hin : ¬ numBlocks ≤ dst := Nat.not_le.2 hdst
  show execWearLevelMove { num := b, fails := fails } dst s = _
  simp only [execWearLevelMove, hlive, hvalid, hfree, hin, Nat.not_lt.2 hleast, hapart, Nat.not_lt.2 hlowest, bne_self_eq_false, Bool.not_true,
    decide_false, Bool.or_self, Bool.false_eq_true, if_false]
  rfl

/-! ### Erase (R329, R575, R585) -/

/-- What the erase of a block leaves of its table entry: a fresh block that was erased once more, or a bad one. -/
def Blk.erased (k : Blk) (bad : EraseErr) : Blk := if bad = .failed then { k with st := .bad } else { Blk.fresh with erases := k.erases + 1 }

/-- An invalid block whose table entry can be read is erased, and takes no more programs. -/
theorem exec_blockErase {b : Nat} {bad : EraseErr} (hlive : s.live = true) (hread : bad ≠ .table)
    (hinvalid : (s.ms.flash.blk b).st = .invalid) :
    exec (.blockErase b bad) s = .next (s.updFlash fun f =>
      { (f.updBlk b fun k => k.erased bad) with openBlock := f.openBut b }).spareCheck := by
  show execBlockErase b bad s = _
  simp only [execBlockErase, hlive, hread, hinvalid, beq_iff_eq, bne_iff_ne, Bool.and_eq_true, ne_eq, not_false_eq_true, and_false, false_and, and_self,
    if_false, if_true]
  rfl

/-- A table entry that can be read nowhere loses law 9. -/
theorem exec_blockErase_table {b : Nat} (hlive : s.live = true) (hb : b < 524288) :
    exec (.blockErase b .table) s = .next (s.lostLaw 9 b 0xFFFF) := by
  have hin : b < numBlocks := hb
  show execBlockErase b .table s = _
  simp [execBlockErase, hlive, hin]

/-- Settles O35, command by command. -/
theorem flashBackground : Obligations.FlashBackground := by
  intro s b fails hlive
  refine ⟨exec_pageAgeTick hlive, fun page hlow hpackable holdest => ⟨?skips, ?packs⟩, exec_blockRelocation hlive,
    fun dst z y hvalid hfree hdst hleast hz hgood hspread hlowest =>
      exec_wearLevelMove hlive hvalid hfree hdst hleast hz hgood hspread hlowest,
    exec_blockErase hlive nofun, exec_blockErase hlive nofun, exec_blockErase_table hlive⟩
  case skips => exact exec_compressionFallback_skips hlive hlow hpackable holdest
  case packs => exact exec_compressionFallback_packs hlive hlow hpackable holdest

end Sys2Proof.Machine
end

section
/-! SUPPORT. The tide and the stages of a mooring: the level that an evaluation leaves and what it reports, then the draining of a page, the
writing of the set and its naming by the catalogue (R363 to R371). Settles O38. -/

set_option Elab.async false

namespace Sys2Proof.Machine

variable {s : State}

/-! ### TIDE_EVALUATE (R369 to R371) -/

/-- The level after an evaluation in which the link input scores `fec` points. -/
def State.tideLevel (s : State) (fec : Nat) : Nat :=
  nextTide s.aoc s.tide.level s.tide.lastChange (Nat.min 7 ((s.tidePoints fec).foldl (fun a b => a + b) 0))

/-- The state with the points and the level of an evaluation stored, its free value drawn. -/
def State.tideRead (s : State) (fec : Nat) : State :=
  { s.takeFree.2 with tide := { s.tide with
    points := s.tidePoints fec, level := s.tideLevel fec
    lastChange := if s.tideLevel fec = s.tide.level then s.tide.lastChange else s.aoc } }

/-- The evaluation together with the EV_TIDE of a level that changed. -/
def State.tideReported (s : State) (fec : Nat) : State :=
  if s.tideLevel fec = s.tide.level then s.tideRead fec else (s.tideRead fec).evTide

/-- The link input's points are the drawn free value modulo 4 (log 48); a mooring whose conditions then hold is due. -/
theorem exec_tideEvaluate (hlive : s.live = true) :
    let u := s.tideReported (s.takeFree.1.toNat % 4)
    exec .tideEvaluate s = .next (if u.tideDue then u.moorDue else u) := by
  show execTideEvaluate s = _
  have hpoints (n : Nat) : s.takeFree.2.tidePoints n = s.tidePoints n := rfl
  simp only [execTideEvaluate, hlive, hpoints, State.tideReported, State.tideRead, State.tideLevel, State.takeFree_aoc, State.takeFree_tide,
    bne_iff_ne, ne_eq, ite_not, Bool.not_true, Bool.false_eq_true, if_false]
  rfl

/-! ### STAGING (R357, R363) -/

section
variable {p : MoorPage} {ecc : Ecc} (hlive : s.live = true) (hstaging : s.moor.st = .staging) (hengine : s.drainEngine = true)
  (hpage : s.moor.nextPage = some p)
include hlive hstaging hengine hpage

/-- With a mooring engine free, the next page's turn is decided by the read of its source. -/
theorem exec_moorStaging_next :
    let u := s.checkRead (s.moorSrc p) (pageSize p.large) ecc
    exec (.moorStaging ecc) s = .next (if u.1 = true
      then ((u.2.copyPage (s.moorSrc p) p.slot (pageSize p.large)).markStaged (s.moorSrc p) p.slot).settleMoor
      else u.2.abandon E.uncorrectable) := by
  show execMoorStaging ecc s = _
  simp only [execMoorStaging, hlive, hstaging, hengine, hpage, bne_self_eq_false, Bool.not_true, Bool.or_self, Bool.false_eq_true, if_false]
  split <;> next hread => simp [hread]

/-- A page whose source reads is drained into its place in the staging area. -/
theorem exec_moorStaging_drains (hread : (s.checkRead (s.moorSrc p) (pageSize p.large) ecc).1 = true) :
    exec (.moorStaging ecc) s = .next ((((s.checkRead (s.moorSrc p) (pageSize p.large) ecc).2.copyPage (s.moorSrc p) p.slot
      (pageSize p.large)).markStaged (s.moorSrc p) p.slot).settleMoor) :=
  (exec_moorStaging_next hlive hstaging hengine hpage).trans (by rw [if_pos hread])

/-- An uncorrectable error in the source abandons the mooring. -/
theorem exec_moorStaging_abandons (hread : (s.checkRead (s.moorSrc p) (pageSize p.large) ecc).1 = false) :
    exec (.moorStaging ecc) s = .next ((s.checkRead (s.moorSrc p) (pageSize p.large) ecc).2.abandon E.uncorrectable) :=
  (exec_moorStaging_next hlive hstaging hengine hpage).trans (by rw [if_neg (Bool.eq_false_iff.1 hread)])

end

/-! ### WRITING (R329, R342, R366 to R368) -/

/-- A set whose staged pages all read is written once the tier has blocks for it, whatever programs fail. -/
theorem exec_moorWriting {fails : Nat} (hlive : s.live = true) (hwriting : s.moor.st = .writing) (hfirst : s.moor.digests = none)
    (hclean : ∀ p ∈ s.moor.pages, s.ms.poisoned p.slot (pageSize p.large) = false) (hspare : s.ms.flash.below 2 = false)
    (hroom : (s.updFlash fun f => f.failing 1 fails).spareCheck.moor.units ≤
      (s.updFlash fun f => f.failing 1 fails).spareCheck.ms.flash.freePages) :
    exec (.moorWriting { ok := true, fails := fails }) s = .next (s.updFlash fun f => f.failing 1 fails).spareCheck.writeMooring := by
  have hreads : (s.moor.pages.any fun p => s.ms.poisoned p.slot (pageSize p.large)) = false := by simpa using hclean
  show execMoorWriting { ok := true, fails := fails } s = _
  simp only [execMoorWriting, hlive, hwriting, hfirst, hreads, hspare, Nat.not_lt.2 hroom, Option.isSome_none, bne_self_eq_false,
    Bool.not_true, Bool.or_self, Bool.false_eq_true, if_false]

/-! ### MOORED (R363, R364, R533) -/

/-- The state with its mooring's writes acknowledged. -/
def State.acknowledged (s : State) : State := { s with moor := { s.moor with st := .moored } }

/-- The mooring is reported and closed; its generation and its point stay. -/
def State.moored (t : State) : State :=
  { t.evMoored with moor := { Moor.closed with gen := t.evMoored.moor.gen, lastPoint := t.evMoored.moor.lastPoint } }

section
variable {ds : List W64} (hlive : s.live = true) (hwriting : s.moor.st = .writing) (hwritten : s.moor.digests = some ds)
include hlive hwriting hwritten

/-- The command of MOORED finds the mooring's writes to acknowledge. -/
theorem mooring_written : (!s.live || s.moor.digests.isNone || !(s.moor.st == .writing || s.moor.st == .moored)) = false := by
  simp [hlive, hwriting, hwritten]

/-- A catalogue stored within the last second keeps the mooring waiting in MOORED. -/
theorem exec_moored_waits (hbusy : s.acknowledged.logBusy Rec.moorCatalogue = true) : exec (.moored true) s = .next s.acknowledged := by
  show execMoored true s = _
  unfold State.acknowledged at hbusy ⊢
  simp only [execMoored, mooring_written hlive hwriting hwritten, hbusy, Bool.not_true, Bool.false_eq_true, if_false, if_true]

/-- A catalogue that takes the store names the half and the epoch (its layout is log 41), and the mooring ends. -/
theorem exec_moored_named {t : State} (hfree : s.acknowledged.logBusy Rec.moorCatalogue = false)
    (hstore : s.acknowledged.logStore Rec.moorCatalogue (catalogueBytes s.moor.half s.moor.epoch) = (E.ok, t)) :
    exec (.moored true) s = .next t.moored := by
  have hopened : E.ok ≠ E.xingFull := by decide
  show execMoored true s = _
  unfold State.acknowledged at hfree hstore
  simp only [execMoored, mooring_written hlive hwriting hwritten, hfree, hstore, hopened, Bool.not_true, Bool.false_eq_true, ne_eq,
    not_true_eq_false, if_false, State.moored]

end

/-- Settles O38, stage by stage. -/
theorem tideAndMoorings : Obligations.TideAndMoorings := by
  intro s hlive
  refine ⟨?tide, fun p ecc hstaging hengine hpage => ⟨?drains, ?abandons⟩,
    fun fails hwriting hfirst hclean hspare hroom => exec_moorWriting hlive hwriting hfirst hclean hspare hroom,
    fun ds t hwriting hwritten => ⟨?waits, ?named⟩⟩
  case tide => exact ⟨_, s.tideLevel _, Nat.mod_lt _ (by decide), rfl, exec_tideEvaluate hlive⟩
  case drains => exact exec_moorStaging_drains hlive hstaging hengine hpage
  case abandons => exact exec_moorStaging_abandons hlive hstaging hengine hpage
  case waits => exact exec_moored_waits hlive hwriting hwritten
  case named => exact exec_moored_named hlive hwriting hwritten

end Sys2Proof.Machine
end

section
/-! SUPPORT. The pick of an engine: the first account of least toll in an ascending list (R402). Settles O20. -/

set_option Elab.async false

namespace Sys2Proof.Machine

theorem minBy_eq_none {α : Type} {f : α → Nat} {l : List α} (h : minBy f l = none) : l = [] := by
  cases l with
  | nil => rfl
  | cons x r =>
    unfold minBy at h
    split at h
    · cases h
    · split at h <;> cases h

/-- The tail's choice stands only against a strictly greater head, so of equal keys the first counts: in an ascending list the lowest number. -/
theorem minBy_lowest {f : Nat → Nat} {l : List Nat} {a : Nat} (hasc : l.Pairwise (· < ·)) (h : minBy f l = some a) :
    a ∈ l ∧ ∀ b ∈ l, f a < f b ∨ f a = f b ∧ a ≤ b := by
  induction l generalizing a with
  | nil => cases h
  | cons x r ih =>
    obtain ⟨hx, hr⟩ := List.pairwise_cons.1 hasc
    unfold minBy at h
    cases hy : minBy f r with
    | none =>
      obtain rfl : x = a := by simpa [hy] using h
      simp [minBy_eq_none hy]
    | some y =>
      obtain ⟨hmem, hleast⟩ := ih hr hy
      simp only [hy] at h
      by_cases hlt : f y < f x
      · obtain rfl : y = a := by simpa [hlt] using h
        exact ⟨List.mem_cons_of_mem x hmem, List.forall_mem_cons.2 ⟨.inl hlt, hleast⟩⟩
      · obtain rfl : x = a := by simpa [hlt] using h
        refine ⟨List.mem_cons_self, List.forall_mem_cons.2 ⟨.inr ⟨rfl, le_rfl⟩, fun b hb => ?_⟩⟩
        have := hleast b hb
        have := hx b hb
        omega

/-- Settles O20: an engine that is not shared picks among all ready accounts by their tolls alone. -/
theorem lowestTollIsPicked : Obligations.LowestTollIsPicked := by
  intro e l a hshared hasc hpick
  refine minBy_lowest (f := fun a => (e.toll a).vt.toNat) hasc ?_
  simpa [Engine.pick, hshared] using hpick

end Sys2Proof.Machine
end

section
/-! SUPPORT. The operations of the Azlink port engines: a window operation by its conditions, a transfer by its peer, a ring operation by the
reduction context of its job (R425, R437 to R440, R447, R454, R455, R475). Settles O31. -/

set_option Elab.async false

open Sys2Proof.Claim

namespace Sys2Proof.Machine

variable {s : State} {r : EngRun} {d : Desc}

/-- What an operation does once its status record need not wait. -/
theorem State.atStatus_of_statusReady {cls num shore : Nat} {go : State} (hready : s.statusWaits d = false) :
    s.atStatus cls num d shore go = go := by
  unfold State.atStatus
  unfold State.statusWaits at hready
  split
  next => rfl
  next haddr =>
    cases hspan : s.spanOf d.pos d.statusAddr 16 true with
    | runs rs =>
      have hfree : s.mustHold d.pos d.statusAddr 16 = false := by simpa [hspan, haddr] using hready
      simp [hfree]
    | absent ps => simp [hspan, haddr] at hready
    | bad => rfl

/-- The finish of an Azlink operation, where its status record need not wait. -/
theorem State.finish_azEnded {num shore : Nat} {e : Ending} (hready : s.statusWaits d = false) :
    s.finish 8 num d shore e = azEnded s num d e := State.finish_of_statusReady hready

/-! ### Window operations (R437 to R440) -/

section
variable {op : Nat} {ok : Desc → Bool} {f : Desc → Win → Win} {detail : Desc → State → Nat}
  (hrun : s.runningOp 8 r.num op = some d) (hready : s.statusWaits d = false)
include hrun hready

theorem State.azWindow_noPeer (hown : s.ownId = none) :
    s.azWindow r op ok f detail = azEnded s r.num d { err := E.peerGone } := by
  simp only [State.azWindow, hrun, State.atStatus_of_statusReady hready, hown, Option.isNone_none, if_true, State.finish_azEnded hready]

theorem State.azWindow_noWindow (hown : s.ownId ≠ none) (hok : ok d = false) :
    s.azWindow r op ok f detail = azEnded s r.num d { err := E.noWindow } := by
  simp only [State.azWindow, hrun, State.atStatus_of_statusReady hready, Option.isNone_eq_false_iff.2 (Option.isSome_iff_ne_none.2 hown), hok,
    Bool.not_false, Bool.false_eq_true, if_false, if_true, State.finish_azEnded hready]

/-- No table entry of a window is a granule or a page table's, so its crossing meets no bad word. -/
theorem State.azWindow_lands (hown : s.ownId ≠ none) (hok : ok d = true) (hfree : s.freeFwEntry ≠ none)
    (hheld : s.heldByXing [.window d.azWin] = false) (herr : r.xing = .none) {v u : State} (hv : v = crossed s [] [.window d.azWin])
    (hu : u = v.setWin d.azWin (f d (v.win d.azWin))) (hlate : u.statusWaits d = false) :
    s.azWindow r op ok f detail = azEnded u r.num d { detail := detail d u } := by
  subst hv hu
  have hcross : crosses s (windowCross d.azWin r.xing).reads (windowCross d.azWin r.xing).wset := ⟨hfree, hheld, rfl⟩
  simp only [State.azWindow, hrun, State.atStatus_of_statusReady hready, Option.isNone_eq_false_iff.2 (Option.isSome_iff_ne_none.2 hown), hok,
    Bool.not_true, Bool.false_eq_true, if_false, State.cross_lands (x := windowCross d.azWin r.xing) herr hcross]
  exact State.finish_azEnded hlate

end

/-- AZ_WIN_OPEN and AZ_WIN_CLOSE differ in the windows they may act on, the entry they leave and their DETAIL. -/
theorem exec_winOp {o : WinOp} (ho : o ∈ winOps s r d) : ∃ (ok : Desc → Bool) (f : Desc → Win → Win) (detail : Desc → State → Nat),
    (ok d = true ↔ o.fit) ∧ f d = o.entry ∧ detail d = o.detail ∧ exec o.instr s = .next (s.azWindow r o.op ok f detail) := by
  simp only [winOps, List.mem_cons, List.not_mem_nil, or_false] at ho
  rcases ho with rfl | rfl
  · exact ⟨_, _, _, by simp, rfl, rfl, rfl⟩
  · exact ⟨_, _, _, by simp, rfl, rfl, rfl⟩

theorem windowsAct_holds : windowsAct := by
  intro s r d o ho hrun hready
  obtain ⟨ok, f, detail, hfit, hf, hdetail, hexec⟩ := exec_winOp ho
  rw [hexec]
  refine ⟨fun hown => congrArg _ (State.azWindow_noPeer hrun hready hown),
    fun hown hno => congrArg _ (State.azWindow_noWindow hrun hready hown (Bool.eq_false_iff.2 fun hok => hno (hfit.1 hok))),
    fun hown hyes hfree hheld herr => ?_⟩
  rw [← hf, ← hdetail]
  exact fun hlate => congrArg _ (State.azWindow_lands hrun hready hown (hfit.2 hyes) hfree hheld herr rfl rfl hlate)

/-! ### Transfers (R425, R438) -/

section
variable {op : Nat}

theorem State.azTransfer_noPeer (hrun : s.runningOp 8 r.num op = some d) (hready : s.statusWaits d = false)
    (hgone : s.ownId = none ∨ s.isMember d.azPeer = false) : s.azTransfer r op = azEnded s r.num d { err := E.peerGone } := by
  have hnoPeer : (s.ownId.isNone || !s.isMember d.azPeer) = true := by simpa using hgone
  simp only [State.azTransfer, hrun, hnoPeer, if_true, State.finish_azEnded hready]

theorem State.azTransfer_starts (hrun : s.runningOp 8 r.num op = some d) (hown : s.ownId ≠ none) (hpeer : s.isMember d.azPeer = true) :
    s.azTransfer r op = ((s.azStart r.num d.serial).azFill d.serial 64 r.finds).azEnd d.serial := by
  have hthere : (s.ownId.isNone || !s.isMember d.azPeer) = false := by simpa [hpeer, Option.isSome_iff_ne_none] using hown
  simp only [State.azTransfer, hrun, hthere, Bool.false_eq_true, if_false, State.azStep]

/-- Commanded again with nothing to begin, the engine goes on with the operations that have started. -/
theorem State.azTransfer_goesOn (hnone : s.runningOp 8 r.num op = none) : s.azTransfer r op =
    ((s.engine 8 r.num).queue.filter fun d => d.started && d.opcode == op).foldl
      (fun s d => (s.azFill d.serial 64 r.finds).azEnd d.serial) s := by
  simp only [State.azTransfer, hnone, List.foldl_map, State.azStep]

end

theorem transfersAct_holds : transfersAct := by
  intro s r o ho
  have hexec : exec o.2 s = .next (s.azTransfer r o.1) := by
    simp only [List.mem_cons, List.not_mem_nil, or_false] at ho
    rcases ho with rfl | rfl
    all_goals rfl
  rw [hexec]
  exact ⟨fun d hrun => ⟨fun hgone hready => congrArg _ (State.azTransfer_noPeer hrun hready hgone),
      fun hown hpeer => congrArg _ (State.azTransfer_starts hrun hown hpeer)⟩,
    fun hnone => congrArg _ (State.azTransfer_goesOn hnone)⟩

/-! ### Ring operations (R447, R454, R455, R475) -/

theorem exec_azRingOpen (hrun : s.runningOp 8 r.num 0x0810 = some d) : exec (.azRingOpen r) s = .next (
    match s.ringOf d.rgJob with
    | none => s.azComplete d { err := E.peerGone }
    | some (k, _) => if s.ownId = none then (s.freeRing k).azComplete d { err := E.peerGone }
      else ((s.azStart r.num d.serial).updRing k fun x => { x with opened := true }).formAgain k) := by
  show execAzRingOpen r s = _
  cases hring : s.ringOf d.rgJob
  all_goals simp only [execAzRingOpen, hrun, hring, Option.isNone_iff_eq_none]

theorem exec_azRingClose (hrun : s.runningOp 8 r.num 0x0811 = some d) : exec (.azRingClose r) s = .next (
    match s.ringOf d.rgJob with
    | none => s.azComplete d { err := E.peerGone }
    | some (k, _) => (s.azStart r.num d.serial).closeTry k) := by
  show execAzRingClose r s = _
  cases hring : s.ringOf d.rgJob
  all_goals simp only [execAzRingClose, hrun, hring]

theorem exec_azReduce (hrun : s.runningOp 8 r.num 0x0812 = some d) : exec (.azReduce r) s = .next (
    match s.ringOf d.rgJob with
    | none => s.azComplete d { err := E.peerGone }
    | some (k, _) => (s.azStart r.num d.serial).startBucket k d.rgBucket) := by
  show execAzReduce r s = _
  cases hring : s.ringOf d.rgJob
  all_goals simp only [execAzReduce, hrun, hring]

theorem ringsAct_holds : ringsAct := by
  intro s r d
  refine ⟨fun o ho hrun hnone => ?gone, fun k x hring => ⟨fun hrun => ?opens, fun hrun => ?closes, fun hrun => ?reduces⟩⟩
  case gone =>
    simp only [List.mem_cons, List.not_mem_nil, or_false] at ho
    rcases ho with rfl | rfl | rfl
    · simp only [exec_azRingOpen hrun, hnone]
    · simp only [exec_azRingClose hrun, hnone]
    · simp only [exec_azReduce hrun, hnone]
  case opens => simp only [exec_azRingOpen hrun, hring]
  case closes => simp only [exec_azRingClose hrun, hring]
  case reduces => simp only [exec_azReduce hrun, hring]

/-- Settles O31: windows, transfers, rings. -/
theorem azlinkOperationsAct : Obligations.AzlinkOperationsAct := ⟨windowsAct_holds, transfersAct_holds, ringsAct_holds⟩

end Sys2Proof.Machine
end

section
/-! SUPPORT. A frame on a link: discarded, or handed on with its link credits returned and its acknowledgement taken (R417, R419, R424); then
what the sequenced receiver does with a packet by its number (R423). Settles O40. -/

set_option Elab.async false

open Sys2Proof.Claim

namespace Sys2Proof.Machine

variable {s : State} {l : Nat} {f : Sys2Proof.Frame} {want : Pkt → Bool} {act : State → State}

/-- The fabric is up and so is the link. -/
theorem State.link_runs (hlive : s.live = true) (hown : s.ownId ≠ none) (hup : (s.link l).up = true) :
    (!s.live || s.ownId.isNone || !(s.link l).up) = false := by
  simpa [hlive, hup] using Option.isSome_iff_ne_none.2 hown

/-- A frame that fails a check is counted (R417). -/
theorem State.frameIn_of_discards (hlive : s.live = true) (hown : s.ownId ≠ none) (hup : (s.link l).up = true) (hbad : s.discards f = true) :
    s.frameIn l f want act = s.count (0x1800 + 8 * l) := by
  simp only [State.frameIn, State.link_runs hlive hown hup, hbad, Bool.false_eq_true, if_false, if_true]

/-- A frame that passes the checks reaches its packet's action in the state `received` (R419, R424, R550). -/
theorem State.frameIn_of_arrives (h : arrives s l f) (hwant : want f.pkt = true) : s.frameIn l f want act = act (received s l f) := by
  obtain ⟨hlive, hown, hup, hgood⟩ := h
  simp only [State.frameIn, received, State.link_runs hlive hown hup, hgood, hwant, Bool.not_true, Bool.false_eq_true, if_false,
    Bool.or_eq_true, Bool.and_eq_true, Bool.not_eq_true', bne_iff_ne, ne_eq, and_assoc]

/-! ### The sequenced receiver (R423) -/

theorem follows_self (a : W32) : follows a a = false := by simp [follows]

/-- A packet that follows another is not that packet. -/
theorem ne_of_follows {a b : W32} (h : follows a b = true) : a ≠ b := by
  rintro rfl
  exact Bool.false_ne_true ((follows_self a).symm.trans h)

section
variable {u : State} {k : Pkt} (hmember : u.isMember k.src.toNat = true)
include hmember

/-- The packet expected next is held and the queue of its channel goes on. -/
theorem State.seqIn_expected (hpsn : k.psn = (u.vc k.src.toNat k.vc).rxExpected) :
    u.seqIn k = (u.updVc k.src.toNat k.vc fun c => { c with rxExpected := c.rxExpected + 1, nacked := false, held := c.held ++ [k] }).rxGo
      k.src.toNat k.vc ((u.vc k.src.toNat k.vc).held.length + 1) := by
  simp [State.seqIn, hmember, hpsn]

/-- A packet taken before draws an ACK. -/
theorem State.seqIn_duplicate (hbehind : follows (u.vc k.src.toNat k.vc).rxExpected k.psn = true) :
    u.seqIn k = u.sendAck k.src.toNat k.vc := by
  simp [State.seqIn, hmember, hbehind, (ne_of_follows hbehind).symm]

/-- A packet past the one expected draws a NACK, the first time. -/
theorem State.seqIn_gap (hahead : follows k.psn (u.vc k.src.toNat k.vc).rxExpected = true)
    (hnew : follows (u.vc k.src.toNat k.vc).rxExpected k.psn = false) (hfirst : (u.vc k.src.toNat k.vc).nacked = false) :
    u.seqIn k = (u.updVc k.src.toNat k.vc fun c => { c with nacked := true }).sendNack k.src.toNat k.vc E.ok
      (u.vc k.src.toNat k.vc).rxExpected 0 := by
  simp [State.seqIn, hmember, hnew, hfirst, ne_of_follows hahead]

end

/-- Each sequenced packet is its frame handed to the sequenced receiver. -/
theorem exec_sequencedPacket (s : State) (l : Nat) (f : Sys2Proof.Frame) :
    ∀ o ∈ sequencedPackets l f, exec o.1 s = .next (s.frameIn l f o.2 fun u => u.seqIn f.pkt) :=
  List.forall_iff_forall_mem.1 ⟨rfl, rfl, rfl, rfl, rfl, rfl, rfl, rfl, rfl, rfl, rfl, rfl, rfl, rfl, rfl, rfl⟩

/-- Settles O40. -/
theorem sequencedPackets : Obligations.SequencedPackets := by
  intro s l f o ho k u
  rw [exec_sequencedPacket s l f o ho]
  refine ⟨fun hlive hown hup hbad => congrArg _ (State.frameIn_of_discards hlive hown hup hbad), fun harr hwant hmember => ?_⟩
  rw [State.frameIn_of_arrives harr hwant]
  exact ⟨fun hpsn => congrArg _ (State.seqIn_expected hmember hpsn), fun hbehind => congrArg _ (State.seqIn_duplicate hmember hbehind),
    fun hahead hnew hfirst => congrArg _ (State.seqIn_gap hmember hahead hnew hfirst)⟩

end Sys2Proof.Machine
end

section
/-! SUPPORT. The membership and control packets, each under the conditions of its rule (R412, R419 to R434, R593). Settles O41. -/

set_option Elab.async false

open Sys2Proof.Claim

namespace Sys2Proof.Machine

variable {s u : State} {p l : Nat} {f : Sys2Proof.Frame}

/-- A JOIN that the coordinator takes from a module that is no member yet (R430, R433). -/
theorem State.joinIn_taken (hcoord : u.isCoord = true) (hother : some f.pkt.src.toNat ≠ u.cfg.peerId)
    (hnew : u.isMember f.pkt.src.toNat = false) : u.joinIn l f =
      (let p := f.pkt.src.toNat
       let v := (u.heardOn p l f.sa).updPeer p fun x => { x with st := if x.st == .member then .member else .joining }
       { v with az := { v.az with joins := if v.az.joins.contains p then v.az.joins else v.az.joins ++ [p] } }) := by
  simp only [State.joinIn, hcoord, hnew, beq_eq_false_iff_ne.2 hother, Bool.not_true, Bool.or_self, Bool.false_and, Bool.false_eq_true, if_false]

/-- The state after a PFC frame of these pause times, before what waited is offered again (R420). -/
def State.pausedBy (s : State) (l : Nat) (en : BitVec 8) (times : List W16) : State :=
  (List.range 8).foldl (fun s v => if en.getLsbD v = true then s.updLink l fun k =>
    { k with paused := lset k.paused v (if times.getD v 0 = 0 then 0 else s.aoc + s.pauseCounts l (times.getD v 0).toNat) } else s) s

theorem exec_pfcFrame {en : BitVec 8} {times : List W16} (hlive : s.live = true) (hown : s.ownId ≠ none) (hup : (s.link l).up = true)
    (hswitched : s.switched l = true) : exec (.pfcFrame l en times) s = .next ((s.pausedBy l en times).drainLink l) := by
  have hrun : (!s.live || s.ownId.isNone || !(s.link l).up || !s.switched l) = false := by
    rw [State.link_runs hlive hown hup, hswitched, Bool.not_true, Bool.or_self]
  have hzero : ∀ t : W16, t.toNat = 0 ↔ t = 0 := fun t => by simp [← BitVec.toNat_inj]
  show execPfcFrame l en times s = _
  simp only [execPfcFrame, hrun, State.pausedBy, Bool.not_eq_true', ← Bool.not_eq_true, ite_not, hzero]
  rfl

/-- Settles O41: each packet passes its link, then acts. -/
theorem membershipAndControl : Obligations.MembershipAndControl := by
  intro s l f harr p u sub
  have hin : ∀ {t : Byte} {n : Nat} {act : State → State}, sub t n → s.frameIn l f (isSub t n) act = act u :=
    fun h => State.frameIn_of_arrives harr (by simp [isSub, h.1, h.2])
  refine ⟨fun h hcoord hother hnew => ?join, fun h => ?view, fun h hmember => ?heartbeat, fun h hcoord hmember hnamed => ?loss,
    fun h hrefused => ?refuse, fun h hack => ?ack, fun h hdirect => ?credit, fun h => ?hello,
    fun h hmember => ⟨fun hlow => ?refused, fun hroom hallot => ?granted⟩, fun h => ?nack, fun en times hswitched => ?pfc⟩
  case join =>
    show execJoin l f s = _
    rw [execJoin, hin h, State.joinIn_taken hcoord hother hnew]
  case view =>
    show execView l f s = _
    rw [execView, hin h]
  case heartbeat =>
    show execHeartbeat l f s = _
    rw [execHeartbeat, hin h, if_pos hmember]
  case loss =>
    show execLoss l f s = _
    rw [execLoss, hin h]
    simp only [p] at hmember
    simp only [hcoord, hmember, hnamed, Bool.and_self, if_true]
  case refuse =>
    show execRefuse l f s = _
    rw [execRefuse, hin h, if_neg (by simp [hrefused])]
  case ack =>
    show execAck l f s = _
    rw [execAck, hin h]
    simp only [hack, if_true, p]
  case credit =>
    refine ⟨u.takeFree.1.toNat % 8, Nat.mod_lt _ (by decide), ?_⟩
    show execLinkCredit l f false s = _
    rw [execLinkCredit, hin h]
    simp only [hdirect, Bool.false_eq_true, if_false]
  case hello =>
    show execHello l f s = _
    rw [execHello, hin h]
  case refused =>
    show execCreditReq l f .clean s = _
    rw [execCreditReq, hin h]
    simp only [p] at hmember
    simp only [hmember, hlow, Bool.not_true, Bool.false_eq_true, if_false, if_true, p]
  case granted =>
    have hsome : Nat.min 64 (1024 - (u.peer p).allot) ≠ 0 := by
      have : Nat.min 64 (1024 - (u.peer p).allot) = min 64 (1024 - (u.peer p).allot) := rfl
      omega
    show execCreditReq l f .clean s = _
    rw [execCreditReq, hin h]
    simp only [p] at hmember hsome
    simp only [hmember, Nat.not_lt.2 hroom, hsome, Bool.not_true, Bool.false_eq_true, if_false, p]
  case nack =>
    show execNack l f s = _
    rw [execNack, State.frameIn_of_arrives harr (by simp [isType, h])]
  case pfc =>
    obtain ⟨hlive, hown, hup, -⟩ := harr
    exact exec_pfcFrame hlive hown hup hswitched

end Sys2Proof.Machine
end

section
/-! SUPPORT. The timers of Azlink and of its reduction contexts, each with what it does when it is due (R421 to R434, R454, R474).
Settles O42. -/

set_option Elab.async false

open Sys2Proof.Claim

namespace Sys2Proof.Machine

variable {s : State} {p v l : Nat}

section
variable (hlive : s.azLive = true)
include hlive

/-! ### Channels and peers (R424 to R426) -/

theorem exec_resendTimeout (hwait : (s.vc p v).unacked ≠ []) : exec (.resendTimeout p v) s =
    .next (((s.timeoutShown p v).updVc p v fun c =>
      { c with rto := Nat.min 6400 (2 * (if (s.vc p v).rto = 0 then s.setting 0x1201 else (s.vc p v).rto)) }).resendFrom p v (s.vc p v).txAcked) := by
  show execResendTimeout p v s = _
  simp only [execResendTimeout, hlive, List.isEmpty_eq_false_iff.2 hwait, Bool.not_true, Bool.or_self, Bool.false_eq_true, if_false]

theorem exec_peerTimeout (hmember : s.isMember p = true) (hwait : ∃ e ∈ (s.peer p).vcs, e.2.unacked ≠ [] ∨ e.2.waiting ≠ []) :
    let g := ((s.timeoutShown p 0).peerGone p).ringPeerGone p
    let t : State := { g with tide := { g.tide with peerLoss := g.aoc :: g.tide.peerLoss } }
    exec (.peerTimeout p) s = .next (if t.isCoord then t.updPeer p fun x => { x with lossOpen := true }
      else match t.az.coord with
        | some q => t.sendMember q 4 p
        | none => t) := by
  have hsome : ((s.peer p).vcs.all fun v => v.2.unacked.isEmpty && v.2.waiting.isEmpty) = false := by
    simpa [List.all_eq_false, ← imp_iff_not_or, or_iff_not_imp_left] using hwait
  show execPeerTimeout p s = _
  exact congrArg Host.Outcome.next (if_neg (by simp [hlive, hmember, hsome]))

theorem exec_ackTimer (hdue : (s.vc p v).due ≠ 0) : exec (.ackTimer p v) s = .next (s.sendAck p v) := by
  show execAckTimer p v s = _
  simp only [execAckTimer, hlive, hdue, Bool.not_true, decide_false, Bool.or_self, Bool.false_eq_true, if_false]

theorem exec_creditWait {t : TxPkt} {rest : List TxPkt} (hwait : (s.vc p v).waiting = t :: rest) (hshort : (s.peer p).tx < t.cost) :
    exec (.creditWait p v) s = .next (s.transmit p (s.mkPkt Wire.ctrl 0 p (specOf [(20, 1, 4)]) [])) := by
  show execCreditWait p v s = _
  simp only [execCreditWait, hwait, hlive, hshort, decide_true, Bool.and_self, if_true]

/-! ### Links (R410, R421) -/

theorem exec_helloSend (hup : (s.link l).up = true) :
    exec (.helloSend l) s = .next (s.sendPlain l (s.discovery l) Wire.ctrl 0 0xFFFF (specOf [(20, 1, 3)])) := by
  show execHelloSend l s = _
  simp only [execHelloSend, hlive, hup, Bool.not_true, Bool.or_self, Bool.false_eq_true, if_false]

theorem State.live_of_azLive : s.live = true := (Bool.and_eq_true_iff.1 hlive).1

theorem exec_linkDown (cause : DownCause) (hup : (s.link l).up = true) : exec (.linkDown l cause) s = .next (
    let t := s.updLink l fun _ => Link.down
    let t : State := { t with az := { t.az with
      peers := t.az.peers.map fun e => (e.1, { e.2 with links := e.2.links &&& ~~~ ((1 : BitVec 64) <<< l) }) } }
    let t := (t.count (0x1A00 + 8 * l)).setInput (160 + l) true
    { t with tide := { t.tide with retrains := (t.aoc, l) :: t.tide.retrains } }) := by
  show execLinkDown l cause s = _
  exact congrArg Host.Outcome.next (if_neg (by simp [State.live_of_azLive hlive, hup]))

theorem exec_linkUp (hexists : s.linkExists l = true) (hdown : (s.link l).up = false) :
    exec (.linkUp l) s = .next ((s.updLink l fun _ => { Link.down with up := true }).setInput (160 + l) false) := by
  show execLinkUp l s = _
  simp only [execLinkUp, hlive, hexists, hdown, Bool.not_true, Bool.or_self, Bool.false_eq_true, if_false]

/-! ### Membership (R431, R433, R434) -/

theorem exec_joinSend (hrefused : s.az.refused = false) (hlinks : s.upLinks ≠ [])
    (hout : s.az.view.contains (s.cfg.peerId.getD 0xFFFF) = false) : exec .joinSend s = .next (
      s.upLinks.foldl (fun s l => s.sendPlain l (s.discovery l) Wire.member 7 0xFFFF (specOf [(20, 1, 1), (22, 2, 0xFFFF)]))
        { s with az := { s.az with firstJoin := some (s.az.firstJoin.getD s.aoc) } }) := by
  show execJoinSend s = _
  simp only [execJoinSend, hlive, hrefused, List.isEmpty_eq_false_iff.2 hlinks, hout, Bool.not_true, Bool.or_self, Bool.false_eq_true, if_false]
  rfl

theorem exec_heartbeatSend : exec .heartbeatSend s = .next (
    if s.isCoord then (s.az.view.filter fun p => some p != s.cfg.peerId).foldl (fun s p => s.sendMember p 3 s.az.view.length) s
    else match s.az.coord with
      | some c => s.sendMember c 3 s.az.view.length
      | none => s) := by
  show execHeartbeatSend s = _
  exact congrArg Host.Outcome.next (if_neg (by simp [hlive]))

section
variable (hmember : s.isMember p = true) (hcoord : s.isCoord = true) (hnew : s.az.losses.contains p = false)
include hmember hcoord hnew

theorem exec_hbTimeout : exec (.hbTimeout p) s = .next { s with az := { s.az with losses := s.az.losses ++ [p] } } := by
  show execHbTimeout p s = _
  simp only [execHbTimeout, hlive, hmember, hcoord, hnew, Bool.not_true, Bool.or_self, Bool.false_eq_true, if_false, if_true]

theorem exec_lossReachTimeout (hloss : (s.peer p).lossOpen = true) :
    exec (.lossReachTimeout p) s = .next { s with az := { s.az with losses := s.az.losses ++ [p] } } := by
  show execLossReachTimeout p s = _
  simp only [execLossReachTimeout, hlive, hmember, hcoord, hnew, hloss, Bool.and_self, Bool.false_eq_true, if_false, if_true]

end

theorem exec_viewPublish (hcoord : s.isCoord = true) (hchange : s.az.joins ≠ [] ∨ s.az.losses ≠ [])
    (hgap : ∀ t, s.az.lastView = some t → t + 25000 ≤ s.aoc) :
    exec .viewPublish s = .next (s.publishView ((List.range 32768).filter fun p =>
      (s.az.view.contains p || s.az.joins.contains p) && !s.az.losses.contains p)) := by
  have hsome : (s.az.joins.isEmpty && s.az.losses.isEmpty) = false := by simpa [← imp_iff_not_or, or_iff_not_imp_left] using hchange
  have hlate : (s.az.lastView.any fun t => decide (s.aoc < t + 25000)) = false := by simpa [Option.any_eq_false] using hgap
  show execViewPublish s = _
  simp only [execViewPublish, hlive, hcoord, hsome, hlate, Bool.not_true, Bool.or_self, Bool.false_eq_true, if_false]

theorem exec_fleetOfOne {me : Nat} (hme : s.cfg.peerId = some me) (hview : s.az.view = []) (hrefused : s.az.refused = false)
    (hdue : (∃ t, s.az.firstJoin = some t ∧ t + 5000000 ≤ s.aoc) ∨ (s.bootPending = true ∧ s.upLinks = [])) :
    exec .fleetOfOne s = .next (s.adopt 1 [me]) := by
  have hgo : ((s.az.firstJoin.any fun t => decide (t + 5000000 ≤ s.aoc)) || (s.bootPending && s.upLinks.isEmpty)) = true := by
    simpa [Option.any_eq_true] using hdue
  show execFleetOfOne s = _
  simp only [execFleetOfOne, hme, hlive, hview, hgo, hrefused, List.isEmpty_nil, Bool.not_false, Bool.and_self, if_true]

end

theorem azlinkTimers_hold : azlinkTimers := by
  intro s p v l hlive c
  refine ⟨exec_resendTimeout hlive, exec_peerTimeout hlive, exec_ackTimer hlive, fun _ _ => exec_creditWait hlive,
    fun hup => ⟨exec_helloSend hlive hup, fun cause => exec_linkDown hlive cause hup⟩, exec_linkUp hlive, exec_joinSend hlive,
    fun hcoord => ?all, fun q hother hq => ?one,
    fun hmember hcoord hnew => ⟨exec_hbTimeout hlive hmember hcoord hnew, exec_lossReachTimeout hlive hmember hcoord hnew⟩,
    exec_viewPublish hlive, fun _ => exec_fleetOfOne hlive⟩
  case all => rw [exec_heartbeatSend hlive, if_pos hcoord]
  case one => simp only [exec_heartbeatSend hlive, hother, hq, Bool.false_eq_true, if_false]

/-! ### Reduction contexts (R454, R474) -/

section
variable {k : Nat} {x : RingCtx} (hlive : s.live = true) (hring : s.ring k = some x)
include hlive hring

theorem exec_ringFormTimeout (hst : x.st ≠ .ready) (hopen : x.openDesc ≠ none) :
    exec (.ringFormTimeout k) s = .next (s.openFails k E.peerGone) := by
  show execRingFormTimeout k s = _
  simp only [execRingFormTimeout, hring, hlive, bne_iff_ne.2 hst, Option.isSome_iff_ne_none.2 hopen, Bool.and_self, if_true]

theorem exec_ringReformTimeout (hst : x.st = .broken) (hopen : x.openDesc = none) : exec (.ringReformTimeout k) s =
    .next (((x.buckets.foldl (fun s b => s.endBucket k b.id { err := E.peerGone }) s).evFault E.peerGone
      { job := x.job, obj := k }).formAgain k) := by
  show execRingReformTimeout k s = _
  simp only [execRingReformTimeout, hring, hlive, hst, hopen, bne_self_eq_false, Option.isSome_none, Bool.not_true, Bool.or_self,
    Bool.false_eq_true, if_false, State.ringFault]

theorem exec_bucketBrokenTimeout {b : Nat} (hst : x.st = .broken) (hb : x.bucket b ≠ none) : exec (.bucketBrokenTimeout k b) s =
    .next ((s.endBucket k b { err := E.peerGone }).evFault E.peerGone { job := x.job, obj := k }) := by
  show execBucketBrokenTimeout k b s = _
  simp only [execBucketBrokenTimeout, hring, hlive, hst, Option.isNone_eq_false_iff.2 (Option.isSome_iff_ne_none.2 hb), bne_self_eq_false,
    Bool.not_true, Bool.or_self, Bool.false_eq_true, if_false, State.ringFault]

end

theorem ringTimeouts_hold : ringTimeouts := fun _ _ _ hlive hring =>
  ⟨exec_ringFormTimeout hlive hring, fun hst => ⟨exec_ringReformTimeout hlive hring hst, fun _ => exec_bucketBrokenTimeout hlive hring hst⟩⟩

/-- Settles O42: the timers of the fabric, then those of its reduction contexts. -/
theorem azlinkTimers : Obligations.AzlinkTimers := ⟨azlinkTimers_hold, ringTimeouts_hold⟩

end Sys2Proof.Machine
end

section
/-! SUPPORT. The landing and the events of a port: a sealed slot is examined, the oldest event leaves for the ring or the bootstrap block
(R479, R484, R492 to R496). Settles O43. -/

set_option Elab.async false

namespace Sys2Proof.Machine

variable {s : State} {p : Nat}

/-- What a port that is up is. -/
theorem State.portUp_iff : s.portUp p = true ↔ p < 2 ∧ s.fwUp = true ∧ s.pw.perst.getD p false = true := by
  simp [State.portUp, and_assoc]

/-- Firmware runs while a port is up. -/
theorem State.not_up_of_portUp (hup : s.portUp p = true) : (!s.fwUp || decide (2 ≤ p)) = false := by
  obtain ⟨hport, hfw, -⟩ := State.portUp_iff.1 hup
  simp [hfw, hport]

/-- A write of one whole slot covers its seal, so the slot is examined and what is sealed is taken (R484). -/
theorem State.writeSlot_whole {slot : Nat} {data : List Byte} (hlen : data.length = 64) :
    s.writeSlot p slot (64 * slot) data =
      ((s.updPort p fun q => { q with slots := wrBytes q.slots (64 * slot) data }).examine p slot).takeAll p := by
  have hall : data.take 64 = data := List.take_of_length_le hlen.le
  have hlow : Nat.max (64 * slot) (64 * slot) = 64 * slot := Nat.max_self _
  have hhigh : Nat.min (64 * slot + 64) (64 * slot + 64) = 64 * slot + 64 := Nat.min_self _
  simp only [State.writeSlot, hlen, hlow, hhigh, Nat.sub_self, List.drop_zero, Nat.add_sub_cancel_left, hall, Nat.le_add_right, and_self,
    if_true]

theorem exec_landingSealWrite {slot : Nat} {data : List Byte} (hup : s.portUp p = true) (hslot : slot < 4096) (hlen : data.length = 64) :
    exec (.landingSealWrite p (64 * slot) data false) s = .next
      (((s.updPort p fun q => { q with slots := wrBytes q.slots (64 * slot) data }).examine p slot).takeAll p) := by
  have hsome : data.isEmpty = false := by cases data <;> simp at hlen ⊢
  have hin : ¬ 262144 < 64 * slot + 64 := by omega
  have hfirst : 64 * slot / 64 = slot := by omega
  have hcount : (64 * slot + 64 - 1) / 64 - slot + 1 = 1 := by omega
  show execLandingSealWrite p (64 * slot) data false s = _
  simp only [execLandingSealWrite, hup, hsome, hlen, hin, hfirst, hcount, Bool.not_true, decide_false, Bool.or_self, Bool.false_eq_true, if_false,
    List.range_one, List.foldl_cons, List.foldl_nil, Nat.add_zero, State.writeSlot_whole hlen]

section
variable {e : Event} {rest : List Event}

theorem exec_eventWrite {r : EvRing} (hup : s.portUp p = true) (hblock : s.toBlock p = false) (hring : (s.port p).ring = some r)
    (hqueue : (s.port p).queue = e :: rest) (hcredit : r.credits ≠ 0) (hlast : r.credits = 1 → (s.port p).lcredits ≠ 0) :
    exec (.eventWrite p false) s = .next
      (((s.out (.hostWrite p (r.addr + 64 * ((s.port p).evseq.toNat % r.entries)) ((s.port p).nextCapsule e))).updPort p fun q =>
        { (q.shift e rest) with
          ring := some { r with credits := r.credits - 1, written := r.written + 1 }
          toAnnounce := q.toAnnounce ++ [if e.isResponse then 0 else 1] }).takeAll p) := by
  have hgo : (!s.portUp p || s.toBlock p || r.credits == 0 || (r.credits == 1 && (s.port p).lcredits == 0)) = false := by
    simpa [hup, hblock, hcredit] using hlast
  show execEventWrite p false s = _
  simp only [execEventWrite, hring, hqueue]
  exact congrArg Host.Outcome.next (if_neg (Bool.eq_false_iff.1 hgo))

theorem exec_evCredit (hup : s.portUp p = true) (hcredits : (s.port p).lcredits ≠ 0) (hqueue : (s.port p).queue = [])
    (hdue : (s.port p).takenAt + 50 ≤ s.aoc) : exec (.evCredit p) s = .next (s.post p (s.mkEvent 1 0 E.ok [])) := by
  show execEvCredit p s = _
  simp only [execEvCredit, State.not_up_of_portUp hup, beq_eq_false_iff_ne.2 hcredits, hqueue, Nat.not_lt.2 hdue, List.isEmpty_nil,
    Bool.not_true, decide_false, Bool.or_self, Bool.false_eq_true, if_false]

theorem exec_msixSend {r : EvRing} (hup : s.portUp p = true) (hring : (s.port p).ring = some r) (hsome : (s.port p).toAnnounce ≠ [])
    (hgap : ∀ t, (s.port p).lastMsix = some t → t + 25 * r.moderation ≤ s.aoc) :
    exec (.msixSend p) s = .next ((s.sendMsix p (if ∀ k ∈ (s.port p).toAnnounce, k = 0 then r.vecResp else r.vecAsync)).updPort p fun q =>
      { q with toAnnounce := [], lastMsix := some s.aoc }) := by
  have hlate : (match (s.port p).lastMsix with
      | some t => decide (s.aoc < t + 25 * r.moderation)
      | none => false) = false := by
    cases hlast : (s.port p).lastMsix with
    | none => rfl
    | some t => exact decide_eq_false (Nat.not_lt.2 (hgap t hlast))
  show execMsixSend p s = _
  simp only [execMsixSend, hring, hup, List.isEmpty_eq_false_iff.2 hsome, List.all_eq_true, beq_iff_eq, Bool.not_true, Bool.false_or]
  exact congrArg Host.Outcome.next (if_neg (Bool.eq_false_iff.1 hlate))

theorem exec_bootstrapEventWrite (hup : s.portUp p = true) (hblock : s.toBlock p = true) (hqueue : (s.port p).queue = e :: rest)
    (hfree : (s.port p).blockValid = false) : exec (.bootstrapEventWrite p) s =
      .next (((s.updPort p fun q => { (q.shift e rest) with block := q.nextCapsule e, blockValid := true }).sendMsix p 0).takeAll p) := by
  show execBootstrapEventWrite p s = _
  simp only [execBootstrapEventWrite, hqueue, State.not_up_of_portUp hup, hblock, hfree, Bool.not_true, Bool.or_self, Bool.false_eq_true, if_false]

end

/-- Settles O43: the landing, the ring, EV_CREDIT, MSI-X, the block. -/
theorem landingAndEvents : Obligations.LandingAndEvents := by
  intro s p hport hup q
  refine ⟨fun slot data hslot hlen => ?landing,
    fun r e rest hblock hring hqueue hcredit hlast => exec_eventWrite hup hblock hring hqueue hcredit hlast,
    exec_evCredit hup, fun r hring hsome hgap => exec_msixSend hup hring hsome hgap,
    fun e rest hqueue hblock hfree => exec_bootstrapEventWrite hup hblock hqueue hfree⟩
  rw [exec_landingSealWrite hup hslot hlen]
  cases hsealing : ((s.updPort p fun q => { q with slots := wrBytes q.slots (64 * slot) data }).port p).sealing slot
  all_goals simp only [State.examine, hsealing]

end Sys2Proof.Machine
end

section
/-! SUPPORT. The reset of a port, PERST and the registers a host may write: an aligned write of a whole register leaves its value, a write
of a cargo register acts on a closed feed only, and no register below 0x200 takes a write (R481, R601, R617 to R627). Settles O48. -/

set_option Elab.async false

namespace Sys2Proof.Machine

variable {s : State} {p : Nat}

/-! ### Port reset and PERST (R481, R550, R601) -/

section
variable (hport : p < 2)
include hport

theorem exec_portReset_alone (hup : s.fwUp = true) (hnone : s.groupEntry p = none) :
    exec (.portReset p) s = .next (((s.updPort p fun q => q.afterReset).shutFeeds p).fire (228 + p)) := by
  show execPortReset p s = _
  simp only [execPortReset, hup, hnone, Nat.not_le.2 hport, Bool.not_true, decide_false, Bool.or_self, Bool.false_eq_true, if_false]

/-- The reset drops the group that is open (R594). -/
theorem exec_portReset_group {k : Nat} (hup : s.fwUp = true) (hgroup : s.groupEntry p = some k) : exec (.portReset p) s =
    .next (((((s.dropXing k).count (abortCounter E.xingAborted)).updPort p fun q => q.afterReset).shutFeeds p).fire (228 + p)) := by
  show execPortReset p s = _
  simp only [execPortReset, hup, hgroup, Nat.not_le.2 hport, Bool.not_true, decide_false, Bool.or_self, Bool.false_eq_true, if_false]

theorem exec_perstRelease (hgood : s.pw.pwrGood = true) (hlate : s.pw.goodSince + 2500000 ≤ s.aoc) :
    exec (.perstRelease p) s = .next { s with pw := { s.pw with perst := lset s.pw.perst p true } } := by
  show execPerstRelease p s = _
  exact congrArg Host.Outcome.next (if_neg (by simp [hgood, hport, hlate]))

end

/-! ### Clearing writes (R623, R624) -/

theorem exec_bootRespValidClear (hup : s.portUp p = true) :
    exec (.bootRespValidClear p 1) s = .next (s.updPort p fun q => { q with blockValid := false }) := by
  have hone : ((1 : W64).getLsbD 0 && rsvOk 1 0xFFFFFFFFFFFFFFFE) = true := by decide
  show execBootRespValidClear p 1 s = _
  rw [execBootRespValidClear, if_pos hup, State.clearBlock, if_pos hone]

theorem exec_snapValidClear (hup : s.portUp p = true) (hvalid : s.snap.valid = true) :
    exec (.snapValidClear p ((1 : W64) <<< 63)) s = .next { s with snap := { Snapshot.reset with lawsReported := s.snap.lawsReported } } := by
  have htop : (((1 : W64) <<< 63).getLsbD 63 && rsvOk ((1 : W64) <<< 63) 0x7FFF00FFFFFF0000) = true := by decide
  show execSnapValidClear p ((1 : W64) <<< 63) s = _
  rw [execSnapValidClear, if_pos hup, State.clearSnap, if_pos (by rw [htop, hvalid]; rfl)]

/-! ### Register writes (R617 to R619, R625) -/

@[simp] theorem length_leBytes (n v : Nat) : (leBytes n v).length = n := by
  induction n generalizing v with
  | zero => rfl
  | succ n ih => simp [leBytes, ih]

/-- Little-endian bytes spell their number (R11). -/
theorem leNat_leBytes (n v : Nat) : leNat (leBytes n v) = v % 256 ^ n := by
  induction n generalizing v with
  | zero => simp [leNat, leBytes, Nat.mod_one]
  | succ n ih => rw [leBytes, leNat, ih, BitVec.toNat_ofNat, pow_succ' 256 n, Nat.mod_mul]

/-- An aligned write of all 8 bytes leaves the value written. -/
theorem mergeReg_whole {old off : Nat} (halign : off % 8 = 0) (v : W64) : mergeReg old off 8 v.toNat = v.toNat := by
  have hdrop : (leBytes 8 old).drop 8 = [] := List.drop_eq_nil_of_le (length_leBytes 8 old).le
  have hv : v.toNat < 2 ^ 64 := v.isLt
  simp only [mergeReg, patch, halign, List.take_zero, List.nil_append, Nat.zero_add, length_leBytes, hdrop, List.append_nil, leNat_leBytes]
  omega

/-- An open cargo feed keeps its registers. -/
theorem Cargo.write_open {c : Cargo} {off size v : Nat} (hopen : c.isOpen = true) : c.write off size v = c := if_pos hopen

/-- A closed one takes a whole register other than CARGO_RECORDS, whose value is bounded. -/
theorem Cargo.write_closed {c : Cargo} {off : Nat} (hclosed : c.isOpen = false) (halign : off % 8 = 0) (hlow : 0x600 ≤ off) (hhigh : off < 0x620)
    (hother : off ≠ 0x608) (v : W64) : c.write off 8 v.toNat =
      if off = 0x600 then { c with ring := v.toNat } else if off = 0x610 then { c with prod := v.toNat } else { c with cons := v.toNat } := by
  have hreg : off = 0x600 ∨ off = 0x610 ∨ off = 0x618 := by omega
  rcases hreg with rfl | rfl | rfl
  all_goals simp [Cargo.write, hclosed, mergeReg_whole]

/-- Only what an update makes of the port's own cargo feed counts. -/
theorem State.updCargo_congr {f g : Cargo → Cargo} (h : f (s.port p).cargo = g (s.port p).cargo) : s.updCargo p f = s.updCargo p g := by
  simp only [State.updCargo, State.updPort, h]

section
variable {off : Nat} (hup : s.portUp p = true) (halign : off % 8 = 0)
include hup halign

/-- A whole aligned register reaches its unit with the value written. -/
theorem registerWrite_reaches (v : W64) :
    (!s.portUp p || !((8 : Nat) == 4 || (8 : Nat) == 8) || off % 8 != 0) = false ∧ v.toNat % 2 ^ (8 * 8) = v.toNat :=
  ⟨by simp [hup, halign], Nat.mod_eq_of_lt v.isLt⟩

theorem exec_registerWrite_cargo (hlow : 0x600 ≤ off) (hhigh : off < 0x620) (v : W64) :
    exec (.registerWrite p off 8 v) s = .next (s.updCargo p fun c => c.write off 8 v.toNat) := by
  obtain ⟨hgo, hv⟩ := registerWrite_reaches hup halign v
  show execRegisterWrite p off 8 v s = _
  simp only [execRegisterWrite, hgo, hv, hlow, hhigh, and_self, Bool.false_eq_true, if_false, if_true]

theorem exec_registerWrite_readOnly (hlow : off < 0x200) (v : W64) : exec (.registerWrite p off 8 v) s = .next s := by
  obtain ⟨hgo, -⟩ := registerWrite_reaches hup halign v
  have hcargo : ¬ (0x600 ≤ off ∧ off < 0x620) := by omega
  have hctrl : off ≠ 0x620 := by omega
  have hblock : off ≠ 0x540 := by omega
  have hsnap : off ≠ 0x400 := by omega
  have hhalf : off ≠ 0x404 := by omega
  have hmsix : ¬ (0x7000 ≤ off ∧ off < 0x7200) := by omega
  show execRegisterWrite p off 8 v s = _
  simp only [execRegisterWrite, hgo, hcargo, hctrl, hblock, hsnap, hhalf, hmsix, false_and, Bool.false_eq_true, if_false]

end

/-- Settles O48. -/
theorem portsAndRegisters : Obligations.PortsAndRegisters := by
  intro s p hport
  refine ⟨fun hup => ⟨exec_portReset_alone hport hup, fun k => exec_portReset_group hport hup⟩, exec_perstRelease hport,
    fun hup => ⟨exec_bootRespValidClear hup, exec_snapValidClear hup, fun off v halign hlow hhigh => ?cargo,
      fun off v halign hlow => exec_registerWrite_readOnly hup halign hlow v⟩⟩
  rw [exec_registerWrite_cargo hup halign hlow hhigh]
  exact ⟨fun hopen => congrArg _ (State.updCargo_congr (Cargo.write_open hopen)),
    fun hclosed hother => congrArg _ (State.updCargo_congr (Cargo.write_closed hclosed halign hlow hhigh hother v))⟩

end Sys2Proof.Machine
end

section
/-! SUPPORT. Cargo that is read, opened and closed, a feed's block from its poll to its delivery, and a publication from its record to its
READY result (R488, R504 to R508, R625). Settles O47. -/

set_option Elab.async false

open Sys2Proof.Claim

namespace Sys2Proof.Machine

variable {s : State} {p : Nat}

/-! ### Cargo (R488, R507, R625) -/

section
variable {r : Running} (hport : p < 2) (hup : s.fwUp = true) (hrun : (s.port p).running = some r) (hwaits : r.awaitsCargo = true)
include hport hup hrun hwaits

/-- Records that the host has produced reach the capsule that waits for them, in time. -/
theorem exec_cargoReadDone {prod : W64} {data : CargoIn} (hopen : (s.port p).cargo.isOpen = true)
    (hprod : (s.port p).cargo.cursor + cargoRecords (r.arg 16 8) ≤ prod.toNat)
    (hlen : data.bytes.length = 4096 * cargoRecords (r.arg 16 8)) (htime : s.aoc ≤ r.since + 25000000) :
    let t := s.updCargo p fun c => { c with lastProd := prod.toNat }
    exec (.cargoReadDone p prod data) s = .next (if r.opcode = Cap.jobLoad then t.loadCargo p r data else t.stageCargo p r data.bytes) := by
  show execCargoReadDone p prod data s = _
  simp only [execCargoReadDone, hrun]
  exact congrArg Host.Outcome.next (if_neg (by simp [hup, hport, hwaits, hopen, hprod, hlen, htime]))

theorem exec_cargoTimeout (hlate : r.since + 25000000 ≤ s.aoc) : exec (.cargoTimeout p) s = .next (s.answer p E.capCargo []) := by
  show execCargoTimeout p s = _
  simp only [execCargoTimeout, hrun]
  exact congrArg Host.Outcome.next (if_neg (by simp [hup, hport, hwaits, hlate]))

end

@[simp] theorem State.updThread_ports (tid : Nat) (f : Ctx → Ctx) : (s.updThread tid f).ports = s.ports := by
  unfold State.updThread
  dsimp only
  split
  · split <;> rfl
  · rfl

/-- A group that ends leaves the cargo feeds of both ports. -/
theorem State.cargo_endGroup (k h : Nat) (c : Code) : ((s.updPort k fun q => q.endGroup h c).port p).cargo = (s.port p).cargo := by
  by_cases hp : p = k
  · subst hp
    rw [State.port_updPort_self]
    rfl
  · rw [State.port_updPort_ne hp]

theorem State.port_congr {t : State} (h : t.ports = s.ports) : t.port p = s.port p := by simp only [State.port, h]

@[simp] theorem State.count_ports (o : Nat) : (s.count o).ports = s.ports := rfl
@[simp] theorem State.setInput_ports (n : Nat) (b : Bool) : (s.setInput n b).ports = s.ports := rfl

/-- A crossing that aborts, a capsule group's included, leaves the cargo feeds. -/
theorem State.cargo_abortXing (k : Nat) (c : Code) : ((s.abortXing k c).port p).cargo = (s.port p).cargo := by
  unfold State.abortXing
  split
  · rfl
  · dsimp only
    split
    case h_5 =>
      rw [State.cargo_endGroup]
      exact congrArg Port.cargo (State.port_congr (by simp [apply_ite State.ports]))
    all_goals exact congrArg Port.cargo (State.port_congr (by simp [apply_ite State.ports]))

theorem State.cargo_conflict (es : List XEnt) : ((s.conflict es).port p).cargo = (s.port p).cargo :=
  List.foldlRecOn (motive := fun (t : State) => (t.port p).cargo = (s.port p).cargo) _ _ rfl fun _ ht _ _ => (State.cargo_abortXing _ _).trans ht

section
variable {f g : Cargo → Cargo} (hf : f (s.port p).cargo = g (s.port p).cargo)
include hf

/-- An update that opens or closes the cargo feed aborts the groups that hold it (R298). -/
theorem State.actCargo_turns (hturn : (g (s.port p).cargo).isOpen ≠ (s.port p).cargo.isOpen) :
    s.actCargo p f = (s.conflict [.cargo p]).updCargo p g := by
  rw [State.actCargo, if_neg (hf ▸ hturn)]
  exact State.updCargo_congr (by rw [State.cargo_conflict, hf])

/-- One that does neither touches no group. -/
theorem State.actCargo_keeps (hkeep : (g (s.port p).cargo).isOpen = (s.port p).cargo.isOpen) : s.actCargo p f = s.updCargo p g := by
  rw [State.actCargo, if_pos (hf ▸ hkeep)]
  exact State.updCargo_congr hf

end

section
variable (hup : s.portUp p = true)
include hup

theorem exec_cargoOpen : exec (.cargoOpen p) s = .next (s.actCargo p Cargo.open_) := by
  show execCargoOpen p s = _
  rw [execCargoOpen, if_pos hup]

theorem exec_cargoClose : exec (.cargoClose p) s = .next (s.actCargo p Cargo.close) := by
  show execCargoClose p s = _
  rw [execCargoClose, if_pos hup]

end

theorem cargoCommands_hold : cargoCommands := by
  intro s p r hport
  refine ⟨fun hup hrun hwaits => ⟨fun prod data => exec_cargoReadDone hport hup hrun hwaits, exec_cargoTimeout hport hup hrun hwaits⟩,
    fun hup => ⟨fun hclosed hrecords hring hprod hcons => ?opens, fun hopen => ?closes, fun hopen => ?busy, fun hclosed => ?shut⟩⟩
  case opens =>
    rw [exec_cargoOpen hup]
    refine congrArg _ (State.actCargo_turns ?_ (by simp [hclosed]))
    simp [Cargo.open_, hclosed, hrecords, hring, hprod, hcons]
  case closes =>
    rw [exec_cargoClose hup]
    exact congrArg _ (State.actCargo_turns (if_pos hopen) (by simp [hopen]))
  case busy =>
    rw [exec_cargoOpen hup]
    exact congrArg _ (State.actCargo_keeps (if_pos hopen) rfl)
  case shut =>
    rw [exec_cargoClose hup]
    exact congrArg _ (State.actCargo_keeps (if_neg (Bool.eq_false_iff.1 hclosed)) rfl)

/-! ### Feeds (R504 to R506) -/

section
variable {pos i : Nat} {f : Feed} {d : FeedDecl} (hfeed : s.openFeed pos i = some (f, d))
include hfeed

section
variable (hstays : f.closing = false) (hidle : f.pulling = false) (hroom : s.feedRoom pos d = true)
include hstays hidle hroom

theorem exec_feedPull (hprod : f.cursor + d.blockRecs ≤ f.prod) :
    exec (.feedPull pos i) s = .next (s.updJob pos fun j => j.updFeed i fun f => { f with pulling := true }) := by
  show execFeedPull pos i s = _
  simp only [execFeedPull, hfeed]
  exact congrArg Host.Outcome.next (if_neg (by simp [hstays, hidle, hroom, hprod]))

/-- PROD is taken, or a read of it that fails closes the feed (R505). -/
theorem exec_feedProdPoll (hshort : f.prod < f.cursor + d.blockRecs) (prod : W64) (ok : Bool) :
    exec (.feedProdPoll pos i prod ok) s = .next (
      if !ok then s.feedFails pos i else s.updJob pos fun j => j.updFeed i fun f => { f with prod := prod.toNat }) := by
  show execFeedProdPoll pos i prod ok s = _
  simp only [execFeedProdPoll, hfeed]
  exact congrArg Host.Outcome.next (if_neg (by simp [hstays, hidle, hroom, hshort]))

end

/-- A block whose buffer is resident and held by no crossing is delivered. -/
theorem exec_feedBlockDelivered {data : List Byte} {rs : List Run} (hpull : f.pulling = true) (hlen : data.length = d.blockRecs * d.recBytes)
    (hspan : s.spanOf pos (d.blockAddr f.blocks) data.length true = .runs rs)
    (hfree : s.mustHold pos (d.blockAddr f.blocks) data.length = false) :
    exec (.feedBlockDelivered pos i data true) s = .next (s.deliver pos i f d data) := by
  show execFeedBlockDelivered pos i data true s = _
  rw [hlen] at hspan hfree
  simp only [execFeedBlockDelivered, hfeed, hpull, hlen, hspan, hfree, Bool.not_true, ne_eq, not_true_eq_false, Bool.false_eq_true, if_false]

end

/-! ### Publication (R508, R509) -/

/-- A result that is EMPTY or RELEASED takes a publication for which the store has room (R508, R509). -/
theorem State.result_takes {h n : Nat} (hfree : (s.result h).st = .empty ∨ (s.result h).st = .released) (hroom : s.storeUsed + n ≤ 0x10000000) :
    ¬ ((s.result h).st = .copying ∨ (s.result h).st = .ready ∨ resultStore < s.storeUsed + n) := by
  rintro (hcopying | hready | hfull)
  · simp [hcopying] at hfree
  · simp [hready] at hfree
  · exact Nat.not_lt.2 hroom hfull

section
variable {pos i : Nat} {d : PubDecl} {c : PubChan} (hlive : s.live = true) (hdecl : (s.job pos).man.publish[i]? = some d)
  (hchan : (s.job pos).pubs[i]? = some c)
include hlive hdecl hchan

/-- The next publication of a channel goes by the record that its GIVE.C saw, or by the record as it stands. -/
theorem exec_publish {q : PubRec} (hq : q = pubRecOf (((c.markOf (c.served + 1)).map PubMark.record).getD (s.readJob pos d.recAddr 64)))
    (hrun : (s.job pos).st = .running) (hidle : c.copying = none) (hgiven : c.served < (s.ctr pos d.pubCtr).toNat)
    (hsound : s.badRange pos d.recAddr 64 = false) : exec (.publish pos i) s = .next (
      if s.pubCode pos q ≠ E.ok then s.jobFault pos (s.pubCode pos q) { job := pos, obj := q.handle }
      else if (s.result q.handle).st = .copying ∨ (s.result q.handle).st = .ready ∨ resultStore < s.storeUsed + q.length then s
      else (s.setResult q.handle { s.result q.handle with
          st := .copying, job := pos, length := q.length, data := [], owner := (s.job pos).owner }).updJob pos fun j =>
        j.updPub i fun c => { c with served := c.served + 1, copying := some (q.handle, q.addr) }) := by
  subst hq
  show execPublish pos i s = _
  cases hmark : c.markOf (c.served + 1)
  all_goals
    simp only [execPublish, hdecl, hchan, hmark, Option.map_none, Option.map_some, Option.getD_none, Option.getD_some]
    exact congrArg Host.Outcome.next (.trans (if_neg (by simp [hlive, hrun, hidle, hgiven])) (if_neg (Bool.eq_false_iff.1 hsound)))

/-- A copy whose buffer is resident and sound ends, its result is READY and its counter advances. -/
theorem exec_publishCopyDone {h a : Nat} {data : List Byte} {t : State} (hcopy : c.copying = some (h, a))
    (hst : (s.job pos).st = .running ∨ (s.job pos).st = .ending)
    (ht : t = ((s.sees pos [(a, (s.result h).length)] []).2.1).updJob pos fun j => j.updPub i fun c =>
      { c with copying := none, marks := c.marks.filter fun m => decide (c.served < m.hi) })
    (hresident : s.absentPages pos a (s.result h).length = []) (hsound : t.readsBad pos [(a, (s.result h).length)] = false)
    (hread : t.readThrough pos a (s.result h).length = some data) :
    exec (.publishCopyDone pos i) s = .next (((t.pubContent pos d.recAddr c data).2.publishResult pos h
      (t.pubContent pos d.recAddr c data).1).bumpCtr pos d.ackCtr) := by
  have hjob : ((s.job pos).st == .running || (s.job pos).st == .ending) = true := by simpa using hst
  show execPublishCopyDone pos i s = _
  simp only [execPublishCopyDone, hdecl, hchan, hcopy, Option.bind_some, Option.map_some, hlive, hjob, hresident, List.isEmpty_nil, Bool.not_true,
    Bool.or_self, Bool.false_eq_true, if_false, ← ht, hsound, hread]

end

/-- A record and a buffer as the GIVE.C saw them are the content (R508). -/
theorem State.pubContent_unbroken {pos recAddr : Nat} {c : PubChan} {data : List Byte}
    (h : ∀ m, c.markOf c.served = some m → s.pubBroken pos recAddr m = false) : s.pubContent pos recAddr c data = (data, s) := by
  unfold State.pubContent
  split
  next m hm => rw [h m hm]; rfl
  next => rfl

theorem feedsAndPublication_hold : feedsAndPublication := by
  intro s pos i
  refine ⟨fun f d hfeed => ⟨fun hstays hidle hroom => ⟨exec_feedPull hfeed hstays hidle hroom, fun hshort prod => ⟨?polled, ?failed⟩⟩,
      fun data rs => exec_feedBlockDelivered hfeed⟩,
    fun d c hlive hdecl hchan => ⟨fun hrun hidle hgiven hsound => ⟨fun hcode hfree hroom => ?begins, fun hcode => ?faults⟩,
      fun h a data hcopy hst hresident hsound hread =>
        ⟨exec_publishCopyDone hlive hdecl hchan hcopy hst rfl hresident hsound hread, State.pubContent_unbroken⟩⟩⟩
  case polled => exact exec_feedProdPoll hfeed hstays hidle hroom hshort prod true
  case failed => exact exec_feedProdPoll hfeed hstays hidle hroom hshort prod false
  case begins =>
    rw [exec_publish hlive hdecl hchan rfl hrun hidle hgiven hsound, if_neg (not_not.2 hcode), if_neg (State.result_takes hfree hroom)]
  case faults => rw [exec_publish hlive hdecl hchan rfl hrun hidle hgiven hsound, if_pos hcode]

/-- Settles O47: cargo, then feeds and publication. -/
theorem cargoFeedsPublication : Obligations.CargoFeedsPublication := ⟨cargoCommands_hold, feedsAndPublication_hold⟩

end Sys2Proof.Machine
end

section
/-! SUPPORT. The power sequencer: what a change of state keeps of the power unit, a rising edge that starts the rails, and each loss of power
with its cause (R541 to R543, R597 to R608). Settles O50. -/

set_option Elab.async false

namespace Sys2Proof.Machine

variable {s : State}

/-! ### Power-up (R597, R599, R608) -/

@[simp] theorem State.setDev_pwrEn (d : DevState) : (s.setDev d).pw.pwrEn = s.pw.pwrEn := by
  unfold State.setDev
  split <;> rfl

theorem exec_alwaysOnResetRelease (hdev : s.dev = .off) (hlow : s.pw.pwrEn = false) : exec .alwaysOnResetRelease s = .next
    (let t := ({ s with aoc := 0 } : State).setDev .alwaysOn
     { t with pw := { t.pw with railsStarting := false, lowSince := some 0 } }) := by
  have hkept : (({ s with aoc := 0 } : State).setDev .alwaysOn).pw.pwrEn = false := (State.setDev_pwrEn _).trans hlow
  show execAlwaysOnResetRelease s = _
  refine congrArg Host.Outcome.next ((if_neg (by simp [hdev])).trans ?_)
  dsimp only
  generalize ({ s with aoc := 0 } : State).setDev .alwaysOn = t at hkept ⊢
  simp only [hkept, Bool.false_eq_true, if_false]

/-- A rising edge that needs no low time and meets no trip starts the rails. -/
theorem State.risingEdge_starts (hneed : s.pw.needEdge = false) (htrip : s.pw.tripHold = false) :
    s.risingEdge = { s with pw := { s.pw with railsStarting := true, heldEdge := false } } := by
  simp only [State.risingEdge, hneed, htrip, Bool.false_and, Bool.false_eq_true, if_false]

theorem exec_pwrEnRise (hdev : s.dev = .alwaysOn) (hlow : s.pw.pwrEn = false) (hneed : s.pw.needEdge = false) (htrip : s.pw.tripHold = false) :
    exec .pwrEnRise s = .next { s.fire 269 with pw := { s.pw with
      pwrEn := true, statusUnread := true, railsStarting := true, heldEdge := false, lowSince := none } } := by
  have hfired : (s.fire 269).dev = .alwaysOn := (State.fire_dev _).trans hdev
  have hpowered : (s.fire 269).powered = true := by simp [State.powered, hdev]
  show execPwrEnRise s = _
  refine congrArg Host.Outcome.next ((if_neg (by simp [hlow])).trans ((if_pos hfired).trans ?_))
  rw [State.risingEdge_starts (s := { s.fire 269 with pw := { (s.fire 269).pw with pwrEn := true, statusUnread := (s.fire 269).powered } })
    ((congrArg Power.needEdge (State.fire_pw _)).trans hneed) ((congrArg Power.tripHold (State.fire_pw _)).trans htrip), hpowered, State.fire_pw]

theorem exec_railsInRegulation (hdev : s.dev = .alwaysOn) (hstarting : s.pw.railsStarting = true) : exec .railsInRegulation s = .next
    (let t := s.setDev .idle
     { t with pw := { t.pw with railsStarting := false, pwrGood := true, goodSince := t.aoc }, boot := { t.boot with booting := true } }) := by
  show execRailsInRegulation s = _
  exact congrArg Host.Outcome.next (if_neg (by simp [hdev, hstarting]))

/-- In ALWAYS-ON, PWR_EN that falls stops the rails. -/
theorem exec_pwrEnFall_alwaysOn (hhigh : s.pw.pwrEn = true) (hdev : s.dev = .alwaysOn) : exec .pwrEnFall s = .next { s.fire 269 with
    pw := { s.pw with
      pwrEn := false, lowSince := some s.aoc, thermDrive := false, heldEdge := false, statusUnread := true, railsStarting := false } } := by
  have hfired : (s.fire 269).dev = .alwaysOn := (State.fire_dev _).trans hdev
  have hpowered : (s.fire 269).powered = true := by simp [State.powered, hdev]
  show execPwrEnFall s = _
  refine congrArg Host.Outcome.next ((if_neg (by simp [hhigh])).trans ((if_pos (by simp [State.fwUp, hdev])).trans ?_))
  simp only [hpowered, State.fire_pw, State.fire_aoc]

/-! ### Losses of power and trips (R543, R598, R599, R606 to R608) -/

theorem exec_powerDownWritebackLimit (hdown : s.pw.powerDown = true) (hup : s.fwUp = true)
    (hlate : ∀ t, s.pw.lowSince = some t → t + 1250000 ≤ s.aoc) : exec .powerDownWritebackLimit s = .next s.finishDown := by
  show execPowerDownWritebackLimit s = _
  cases hlow : s.pw.lowSince with
  | none => simp only [execPowerDownWritebackLimit, hlow, hdown, hup, Bool.true_or, Bool.not_true, Bool.or_self, Bool.false_eq_true, if_false]
  | some t =>
    simp only [execPowerDownWritebackLimit, hlow, hdown, hup, hlate t hlow, decide_true, Bool.true_or, Bool.not_true, Bool.or_self,
      Bool.false_eq_true, if_false]

section
variable (hup : s.fwUp = true)
include hup

/-- While firmware runs, a sudden loss of the rails records its own cause. -/
theorem State.suddenOff_cause (source cause : Nat) : s.suddenOff source cause =
    { (s.fire source).dropRails cause with pw := { ((s.fire source).dropRails cause).pw with needEdge := true, heldEdge := false } } := by
  simp only [State.suddenOff, hup, if_true]

theorem exec_powerEmergency (surge : Bool) : exec (.powerEmergency surge) s = .next (s.suddenOff 2 (if surge then 3 else 2)) := by
  show execPowerEmergency surge s = _
  rw [execPowerEmergency, if_pos (State.powered_of_fwUp hup)]

theorem exec_railFault :
    exec .railFault s = .next { s.suddenOff 14 7 with pw := { (s.suddenOff 14 7).pw with lastCause := 7 } } := by
  show execRailFault s = _
  exact congrArg Host.Outcome.next (if_pos (by rw [hup, Bool.true_or]))

theorem exec_thermalTrip (dram : Bool) : exec (.thermalTrip dram) s = .next (s.trip (if dram then 4 else 3) (if dram then 5 else 4)) := by
  show execThermalTrip dram s = _
  rw [execThermalTrip, if_pos (State.powered_of_fwUp hup)]

theorem exec_thermtripNExternal (hfree : s.pw.thermDrive = false) : exec .thermtripNExternal s = .next (s.trip 13 6) := by
  show execThermtripNExternal s = _
  rw [execThermtripNExternal, if_pos (by rw [State.powered_of_fwUp hup, hfree]; rfl)]

end

theorem exec_vinLossOff (hdev : s.dev ≠ .off) : exec .vinLossOff s = .next (let t := (s.dropRails 0).setDev .off
    { t with
      aoc := 0, snap := Snapshot.reset
      boot := { t.boot with log := t.boot.log.map fun e => (e.1, { e.2 with last := none }) }
      ms := { t.ms with flash := { t.ms.flash with lastCheckpoint := none } }
      pw := { Power.reset with pwrEn := t.pw.pwrEn, bootWpN := t.pw.bootWpN, prsnt := t.pw.prsnt, smbAddr := t.pw.smbAddr } }) := by
  show execVinLossOff s = _
  exact congrArg Host.Outcome.next (if_neg (by simp [State.powered, hdev]))

theorem exec_tripCooldown (hdev : s.dev = .alwaysOn) (hheld : s.pw.heldEdge = true) (htrip : s.pw.tripHold = true) (hhigh : s.pw.pwrEn = true)
    (hcool : s.pw.cool = true) : exec .tripCooldown s =
      .next { s with pw := { s.pw with railsStarting := true, needEdge := false, tripHold := false, heldEdge := false } } := by
  show execTripCooldown s = _
  exact congrArg Host.Outcome.next (if_pos (by simp [hdev, hheld, htrip, hhigh, hcool]))

/-- Settles O50. -/
theorem powerSequence : Obligations.PowerSequence := by
  intro s
  refine ⟨exec_alwaysOnResetRelease, exec_pwrEnRise, exec_railsInRegulation, exec_pwrEnFall_alwaysOn, exec_powerDownWritebackLimit,
    exec_vinLossOff, fun hup => ?losses, exec_tripCooldown⟩
  intro off trip
  have hoff (source cause : Nat) : s.suddenOff source cause = off source cause := State.suddenOff_cause hup source cause
  have htrip (source cause : Nat) : s.trip source cause = trip source cause := by simp only [State.trip, hoff, trip]
  exact ⟨fun surge => by rw [exec_powerEmergency hup, hoff], by rw [exec_railFault hup, hoff], by rw [exec_thermalTrip hup, htrip]; rfl,
    by rw [exec_thermalTrip hup, htrip]; rfl, fun hfree => by rw [exec_thermtripNExternal hup hfree, htrip]⟩

end Sys2Proof.Machine
end

section
/-! SUPPORT. The management interface: with power every register answers its bytes (R614 to R616). Settles O52. -/

set_option Elab.async false

namespace Sys2Proof.Machine

variable {s : State}

section
variable (hpowered : s.powered = true)
include hpowered

/-- With power a read is answered (R614). -/
theorem State.smbus_answers (cmd : Nat) (bs : List Byte) : s.smbus cmd bs = s.out (.smbus cmd bs) := if_pos hpowered

/-- Reading STATUS releases the alert (R614). -/
theorem exec_status : exec .status s =
    .next { s.out (.smbus 1 (leBytes 2 s.statusWord)) with pw := { s.pw with statusUnread := false } } := by
  show execStatus s = _
  rw [execStatus, if_pos hpowered, State.smbus_answers hpowered]
  rfl

/-- VIN is measured as it is read. -/
theorem exec_vin (mv : W16) : exec (.vin mv) s = .next (({ s with pw := { s.pw with vin := mv } } : State).out (.smbus 2 (leBytes 2 mv.toNat))) := by
  show execVin mv s = _
  rw [execVin, if_pos hpowered]
  exact congrArg Host.Outcome.next (State.smbus_answers (s := { s with pw := { s.pw with vin := mv } }) hpowered _ _)

/-- IIN is measured as it is read. -/
theorem exec_iin (v : W16) : exec (.iin v) s = .next (({ s with pw := { s.pw with iin := v } } : State).out (.smbus 3 (leBytes 2 v.toNat))) := by
  show execIin v s = _
  rw [execIin, if_pos hpowered]
  exact congrArg Host.Outcome.next (State.smbus_answers (s := { s with pw := { s.pw with iin := v } }) hpowered _ _)

/-- A cap within its range is taken (R614). -/
theorem exec_pcap_write {v : W16} (hlow : 400 ≤ v.toNat) (hhigh : v.toNat ≤ 1500) :
    exec (.pcap (some (v, true))) s = .next { s with pw := { s.pw with pcap := v } } := by
  show execPcap (some (v, true)) s = _
  exact congrArg Host.Outcome.next (if_pos (by simp [hpowered, hlow, hhigh]))

theorem exec_alertResponse (hunread : s.pw.statusUnread = true) :
    exec .alertResponse s = .next (s.out (.alertAddress (0x58 + s.pw.smbAddr))) := by
  show execAlertResponse s = _
  rw [execAlertResponse, if_pos (by rw [hpowered, hunread]; rfl)]

end

/-- A cap with a bad PEC changes nothing (R614). -/
theorem exec_pcap_badPec (v : W16) : exec (.pcap (some (v, false))) s = .next s := by
  show execPcap (some (v, false)) s = _
  exact congrArg Host.Outcome.next (if_neg (by simp))

/-- Settles O52: what a read measures or releases, and the registers that answer from the state. -/
theorem managementInterface : Obligations.ManagementInterface := by
  intro s hdev answers
  have hpowered : s.powered = true := bne_iff_ne.2 hdev
  have hread (cmd : Nat) (bs : List Byte) : Host.Outcome.next (s.smbus cmd bs) = answers cmd bs s := congrArg _ (State.smbus_answers hpowered cmd bs)
  exact ⟨⟨_, exec_status hpowered, rfl⟩, exec_vin hpowered, exec_iin hpowered, hread 4 _, hread 5 _, hread 6 _, hread 7 _, hread 8 _,
    fun v => exec_pcap_write hpowered, exec_pcap_badPec, hread 9 _, hread 10 _, hread 11 _, hread 12 _, exec_alertResponse hpowered⟩

end Sys2Proof.Machine
end

section
/-! SUPPORT. The debug port: the port takes one order at a time, whose checks give its code (R571 to R577). Settles O53. -/

set_option Elab.async false

namespace Sys2Proof.Machine

variable {s : State} {o : List Byte}

/-- A challenge that was issued 60 s ago is gone (R571). -/
theorem exec_challengeExpiry {c : Challenge} (hc : s.boot.challenge = some c) (hlate : c.issued + 1500000000 ≤ s.aoc) :
    exec .challengeExpiry s = .next { s with boot := { s.boot with challenge := none } } := by
  show execChallengeExpiry s = _
  simp only [execChallengeExpiry, hc, hlate, if_true]

section
variable (hup : s.fwUp = true)
include hup

theorem exec_getChallenge : exec .getChallenge s = .next (({ (s.takeRandom 32).2 with
      boot := { (s.takeRandom 32).2.boot with challenge := some { value := (s.takeRandom 32).1, issued := (s.takeRandom 32).2.aoc } } } : State).out
    (.debug (identityKey ++ (s.takeRandom 32).1))) := by
  show execGetChallenge s = _
  exact congrArg Host.Outcome.next (if_neg (by simp [hup]))

/-- With no order under way, one of the kind or of no defined kind uses its challenge up, and then acts or is answered its code (R571,
R573). -/
theorem State.order_taken {kind : Nat} {f : State → State} (hidle : s.boot.order = none)
    (hkind : fld o 8 1 = kind ∨ fld o 8 1 ∉ ([1, 2, 3] : List Nat)) : s.order kind o f =
      if s.orderCode o = E.ok then f (s.useChallenge o) else (s.useChallenge o).orderDone (s.orderCode o) := by
  have htaken : (([1, 2, 3] : List Nat).contains (fld o 8 1) && fld o 8 1 != kind) = false := by
    rcases hkind with hkind | hkind
    · rw [hkind, bne_self_eq_false, Bool.and_false]
    · rw [List.contains_eq_mem, decide_eq_false hkind, Bool.false_and]
  exact if_neg (by simp only [hup, hidle, htaken, Bool.not_true, Option.isSome_none, Bool.or_self, Bool.false_eq_true, not_false_eq_true])

end

/-- Each order is taken by the kind that its command names. -/
theorem exec_order (s : State) (o : List Byte) :
    ∀ x ∈ ([(1, .orderUnlock o), (2, .orderEnrol o), (3, .orderErase o)] : List (Nat × Instr)), ∃ f, exec x.2 s = .next (s.order x.1 o f) :=
  List.forall_iff_forall_mem.1 ⟨⟨_, rfl⟩, ⟨_, rfl⟩, ⟨_, rfl⟩⟩

/-- Settles O53. -/
theorem debugPort : Obligations.DebugPort := by
  intro s o hup t answers
  refine ⟨⟨_, _, rfl, exec_getChallenge hup⟩, fun c hc hlate => exec_challengeExpiry hc hlate,
    fun hidle => ⟨fun x hx hkind hcode => ?refused, fun hkind hcode => ?unlock, fun hkind hcode => ?erase, fun hkind hcode => ?enrol⟩⟩
  case refused =>
    obtain ⟨f, hf⟩ := exec_order s o x hx
    rw [hf, State.order_taken hup hidle hkind, if_neg hcode]
    rfl
  case unlock =>
    show execOrderUnlock o s = _
    rw [execOrderUnlock, State.order_taken hup hidle (.inl hkind), if_pos hcode]
    rfl
  case erase =>
    show execOrderErase o s = _
    rw [execOrderErase, State.order_taken hup hidle (.inl hkind), if_pos hcode]
  case enrol =>
    show execOrderEnrol o s = _
    rw [execOrderEnrol, State.order_taken hup hidle (.inl hkind), if_pos hcode]
    cases t.storedOwner
    · rfl
    · rfl

end Sys2Proof.Machine
end

section
/-! SUPPORT. The interrupt unit: what firing a source does to it, and each command under the conditions of its rule (R540, R551 to R564).
Settles O54 and O55. -/

set_option Elab.async false

namespace Sys2Proof.Machine

variable {s : State}

/-! ### Register writes (R551, R552) -/

theorem State.fwAwake_iff : s.fwAwake = true ↔ s.fwUp = true ∧ s.iu.asleep = false := by simp [State.fwAwake]

/-- MASK, PRIO and TARGETS of a source as a write of IU_SRC gives them. -/
def IuSrc.written (v : W64) (x : IuSrc) : IuSrc :=
  { x with targets := BitVec.ofNat 8 (bits v.toNat 32 8), mask := v.getLsbD 8, prio := bits v.toNat 0 4 }

/-- A write that sets no reserved bit reaches a source that is not privileged; bit 10 takes PENDING from an edge source. -/
theorem State.writeSrc_takes {n : Nat} {v : W64} (hlow : 16 ≤ n) (hhigh : n < 512) (hv : rsvOk v 0xFFFFFF00FFF802F0 = true) :
    s.writeSrc n v = s.updSrc n fun x => if v.getLsbD 10 && !isLevel n then { x.written v with pending := false } else x.written v := by
  have hpriv : isPriv n = false := decide_eq_false (Nat.not_lt.2 hlow)
  have hgo : (decide (512 ≤ n) || !rsvOk v 0xFFFFFF00FFF802F0) = false := by simp [hhigh, hv]
  simp only [State.writeSrc, hpriv, hgo, Bool.not_false, Bool.and_true, Bool.false_eq_true, if_false, IuSrc.written]

/-- A timer whose compare value lies ahead does not fire. -/
theorem State.timerFire_waits {k : Nat} (hahead : s.aoc < (s.compareOf k).toNat) : s.timerFire k = s := if_pos (by simp [hahead])

section
variable (hup : s.fwAwake = true)
include hup

theorem exec_iuSrcWrite {n : Nat} {v : W64} (hlow : 16 ≤ n) (hhigh : n < 512) (hv : rsvOk v 0xFFFFFF00FFF802F0 = true)
    (hbit : v.getLsbD 10 = false) :
    exec (.iuSrcWrite (.src n) v) s = .next (s.updSrc n (IuSrc.written v)) := by
  show execIuSrcWrite (.src n) v s = _
  simp only [execIuSrcWrite, hup, State.writeSrc_takes hlow hhigh hv, hbit, Bool.false_and, Bool.not_true, Bool.false_eq_true, if_false]

theorem exec_iuPendingClear {n : Nat} {v : W64} (hlow : 16 ≤ n) (hhigh : n < 512) (hv : rsvOk v 0xFFFFFF00FFF802F0 = true)
    (hbit : v.getLsbD 10 = true) (hedge : isLevel n = false) :
    exec (.iuPendingClear n v) s = .next (s.updSrc n fun x => { x.written v with pending := false }) := by
  show execIuPendingClear n v s = _
  simp only [execIuPendingClear, hup, State.writeSrc_takes hlow hhigh hv, hbit, hedge, Bool.not_false, Bool.and_self, if_true]

theorem exec_thresholdWrite {core : Nat} {v : W64} (hcore : core < 8) (hv : v.toNat < 16) :
    exec (.iuSrcWrite (.threshold core) v) s = .next (s.updIuCore core fun k => { k with threshold := bits v.toNat 0 4 }) := by
  show execIuSrcWrite (.threshold core) v s = _
  simp only [execIuSrcWrite, hup, hcore, hv, decide_true, Bool.and_self, Bool.not_true, Bool.false_eq_true, if_false, if_true]

/-- A doorbell rings the sources of the bits that are set (R553). -/
theorem exec_iuDoorbell {core : Nat} {ring : W32} (hcore : core < 8) (hring : ring.toNat < 256) : exec (.iuDoorbell core ring) s =
    .next ((List.range 8).foldl (fun (s : State) k => if ring.getLsbD k then s.fire (248 + k) else s) s) := by
  show execIuDoorbell core ring s = _
  exact congrArg Host.Outcome.next (if_neg (by simp [hup, hcore, hring]))

/-! ### Delivery, claim and completion (R554 to R559) -/

theorem exec_iuDelivery {n c : Nat} (hone : (List.range 15).flatMap (fun i => s.eligibleAt (15 - i)) = [n]) (hcore : s.targetOf n = some c) :
    exec .iuDelivery s = .next (s.startDelivery n c) := by
  show execIuDelivery s = _
  simp only [execIuDelivery, hup, hone, hcore, List.foldl_cons, List.foldl_nil, Bool.not_true, Bool.false_eq_true, if_false]

theorem exec_iuDeliveryLand {core n : Nat} (hdelivery : s.deliveryTo core = some n) (hslot : (s.iuCore core).claim = none) :
    exec (.iuDeliveryLand core) s = .next ((s.updSrc n fun x => { x with delivering := false, deliverTo := 0, deliverPrio := 0 }).updIuCore core
      fun k => { k with claim := some (n, (s.iuSrc n).deliverPrio) }) := by
  show execIuDeliveryLand core s = _
  simp only [execIuDeliveryLand, hdelivery, hup, hslot, Option.isSome_none, Bool.not_true, Bool.or_self, Bool.false_eq_true, if_false]

theorem exec_iuCoreClaim {core n prio : Nat} (hclaim : (s.iuCore core).claim = some (n, prio)) : exec (.iuCoreClaim core) s =
    .next ((s.updSrc n fun x => { x with active := true }).updIuCore core fun k => { k with claim := none, stack := (n, prio) :: k.stack }) := by
  show execIuCoreClaim core s = _
  simp only [execIuCoreClaim, hclaim, hup, Bool.not_true, Bool.false_eq_true, if_false]

/-- Completing the source on top of the stack; a source that is not privileged starts no delivery by it (R559). -/
theorem exec_iuCoreComplete {core n prio : Nat} {rest : List (Nat × Nat)} (hcore : core < 8) (htop : (s.iuCore core).stack = (n, prio) :: rest)
    (hlow : 16 ≤ n) (hhigh : n < 512) : exec (.iuCoreComplete core (BitVec.ofNat 32 n)) s = .next ((s.updSrc n fun x =>
      { x with active := false, input := x.input && !isReport n }).updIuCore core fun k => { k with stack := rest }) := by
  have hpriv : isPriv n = false := decide_eq_false (Nat.not_lt.2 hlow)
  have hn : (BitVec.ofNat 32 n).toNat = n := by rw [BitVec.toNat_ofNat]; omega
  have hgo : (!s.fwAwake || decide (8 ≤ core) || decide (512 ≤ n)) = false := by simp [hup, hcore, hhigh]
  show execIuCoreComplete core (BitVec.ofNat 32 n) s = _
  simp only [execIuCoreComplete, hn, hgo, htop, State.completeSrc, hpriv, Bool.false_and, Bool.false_eq_true, if_false, if_true]

/-- A completion of any other source is only counted (R556). -/
theorem exec_iuCoreComplete_bad {core : Nat} {n : W32} (hcore : core < 8) (hhigh : n.toNat < 512)
    (hother : ∀ prio rest, (s.iuCore core).stack ≠ (n.toNat, prio) :: rest) :
    exec (.iuCoreComplete core n) s = .next (s.updIuCore core fun k => { k with bad := Nat.min 15 (k.bad + 1) }) := by
  have hgo : (!s.fwAwake || decide (8 ≤ core) || decide (512 ≤ n.toNat)) = false := by simp [hup, hcore, hhigh]
  show execIuCoreComplete core n s = _
  cases hstack : (s.iuCore core).stack with
  | nil => simp only [execIuCoreComplete, hgo, hstack, Bool.false_eq_true, if_false]
  | cons top rest =>
    have hne : top.1 ≠ n.toNat := fun h => hother top.2 rest (by rw [hstack, ← h])
    simp only [execIuCoreComplete, hgo, hstack, hne, Bool.false_eq_true, if_false]

/-! ### Timers and sleep (R540, R561 to R564) -/

/-- A compare value that lies ahead arms its timer. -/
theorem exec_aotCompareWrite {k : Nat} {v : W64} (hk : k < 8) (hv : s.aoc < v.toNat) : exec (.aotCompareWrite k v) s = .next
    { s with iu := { s.iu with compare := tset compareReset k v s.iu.compare, fired := tset false k false s.iu.fired } } := by
  show execAotCompareWrite k v s = _
  refine congrArg Host.Outcome.next ((if_neg (by simp [hup, hk])).trans (State.timerFire_waits (hv.trans_eq ?_)))
  rw [State.compareOf, tget_tset_self]

theorem exec_controlDomainSleep (hmay : s.maySleepControl = true) :
    exec .controlDomainSleep s = .next { s with iu := { s.iu with asleep := true, latches := [] } } := by
  show execControlDomainSleep s = _
  rw [execControlDomainSleep, if_pos (by rw [hup, hmay]; rfl)]

end

theorem exec_aotTimerFire {k : Nat} (hdev : s.dev ≠ .off) (hk : k < 8) (hidle : tget false k s.iu.fired = false)
    (hdue : (s.compareOf k).toNat ≤ s.aoc) : exec (.aotTimerFire k) s = .next (let t := s.fire (256 + k)
      { t with iu := { t.iu with fired := tset false k true t.iu.fired } }) := by
  show execAotTimerFire k s = _
  exact congrArg Host.Outcome.next ((if_neg (by simp [hdev, hk])).trans (if_neg (by simp [hidle, hdue])))

/-- A latch that wakes the domain brings the retained state back, or after a parity error the unit's reset, which is fatal. -/
theorem exec_controlDomainWake {n : Nat} (hup : s.fwUp = true) (hn : n < 270) (hasleep : s.iu.asleep = true) (hwakes : s.wakes n = true)
    (parityOk : Bool) : let t : State := { s with iu := { s.iu with asleep := false, latches := [] } }
    exec (.controlDomainWake parityOk) s = .next (if parityOk then s.iu.latches.foldl (fun (s : State) n => s.fire n) t
      else ({ t with iu := { t.iu with srcs := [], cores := [] } } : State).enterFaulted 15 E.uncorrectable 0 0xFFFFFFFF 0xFFFF) := by
  have hany : ((List.range 270).any fun n => s.wakes n) = true := List.any_eq_true.2 ⟨n, List.mem_range.2 hn, hwakes⟩
  show execControlDomainWake parityOk s = _
  exact congrArg Host.Outcome.next (if_neg (by rw [hup, hasleep, hany]; simp))

/-- Settles O54: registers, delivery, claim, completion, timers, sleep and wake. -/
theorem interruptUnit : Obligations.InterruptUnit := by
  intro s hup
  refine ⟨fun hawake => ?awake, fun k hk hidle hdue => exec_aotTimerFire (bne_iff_ne.1 (State.powered_of_fwUp hup)) hk hidle hdue,
    fun n hn hasleep hwakes => ⟨exec_controlDomainWake hup hn hasleep hwakes true, exec_controlDomainWake hup hn hasleep hwakes false⟩⟩
  have hfw : s.fwAwake = true := State.fwAwake_iff.2 ⟨hup, hawake⟩
  exact ⟨fun n v hlow hhigh hv => ⟨exec_iuSrcWrite hfw hlow hhigh hv, exec_iuPendingClear hfw hlow hhigh hv⟩,
    fun core hcore v => exec_thresholdWrite hfw hcore, fun core hcore ring => exec_iuDoorbell hfw hcore,
    fun n c => exec_iuDelivery hfw, fun core n => exec_iuDeliveryLand hfw, fun core n prio => exec_iuCoreClaim hfw,
    fun core n prio rest hcore => exec_iuCoreComplete hfw hcore, fun core n hcore => exec_iuCoreComplete_bad hfw hcore,
    fun k hk v => exec_aotCompareWrite hfw hk, exec_controlDomainSleep hfw⟩

/-! ### Doorbells (R553, R557) -/

@[simp] theorem State.fire_ms (n : Nat) : (s.fire n).ms = s.ms := by simp only [State.fire, apply_ite State.ms, ite_self]
@[simp] theorem State.fire_jobs (n : Nat) : (s.fire n).jobs = s.jobs := by simp only [State.fire, apply_ite State.jobs, ite_self]
@[simp] theorem State.fire_iuCores (n : Nat) : (s.fire n).iu.cores = s.iu.cores := by
  simp only [State.fire, apply_ite State.iu, apply_ite IntUnit.cores, ite_self]

/-- While the control domain is awake a source that fires becomes PENDING, or merges into the delivery under way (R557). -/
theorem State.fire_awake (hup : s.fwAwake = true) (n : Nat) :
    s.fire n = if (s.iuSrc n).delivering then s else s.updSrc n fun x => { x with pending := true } := by
  obtain ⟨hfw, hawake⟩ := State.fwAwake_iff.1 hup
  have hdev : (s.dev == .off || s.dev == .alwaysOn) = false := by cases h : s.dev <;> simp_all [State.fwUp]
  rw [State.fire, if_neg (Bool.eq_false_iff.1 hdev), if_neg (Bool.eq_false_iff.1 hawake)]
  rfl

theorem State.fire_fwAwake (hup : s.fwAwake = true) (n : Nat) : (s.fire n).fwAwake = true := by
  rw [State.fire_awake hup]
  split
  · exact hup
  · exact hup

/-- A source as firing leaves it. -/
def IuSrc.fired (x : IuSrc) : IuSrc := if x.delivering then x else { x with pending := true }

theorem State.iuSrc_fire_self (hup : s.fwAwake = true) (n : Nat) : (s.fire n).iuSrc n = (s.iuSrc n).fired := by
  rw [State.fire_awake hup, IuSrc.fired]
  split
  · rfl
  · exact tget_tset_self

theorem State.iuSrc_fire_ne (hup : s.fwAwake = true) {m n : Nat} (h : m ≠ n) : (s.fire n).iuSrc m = s.iuSrc m := by
  rw [State.fire_awake hup]
  split
  · rfl
  · exact tget_tset_ne h

/-- The doorbell of one bit of RING. -/
def State.bell (s : State) (ring : W32) (k : Nat) : State := if ring.getLsbD k then s.fire (248 + k) else s

/-- What the doorbells below `m` leave: their sources fired where the bit is set, and every other source, the cores, memory and the jobs as
they were. -/
structure Rung (s u : State) (ring : W32) (m : Nat) : Prop where
  awake : u.fwAwake = true
  bells : ∀ k < m, u.iuSrc (248 + k) = if ring.getLsbD k then (s.iuSrc (248 + k)).fired else s.iuSrc (248 + k)
  others : ∀ n, n < 248 ∨ 248 + m ≤ n → u.iuSrc n = s.iuSrc n
  cores : u.iu.cores = s.iu.cores
  ms : u.ms = s.ms
  jobs : u.jobs = s.jobs

/-- The next doorbell touches its own source alone. -/
theorem Rung.next {u : State} {ring : W32} {m : Nat} (h : Rung s u ring m) : Rung s (u.bell ring m) ring (m + 1) := by
  have hself : u.iuSrc (248 + m) = s.iuSrc (248 + m) := h.others _ (.inr le_rfl)
  unfold State.bell
  split
  next hbit =>
    refine ⟨State.fire_fwAwake h.awake _, fun k hk => ?_, fun n hn => ?_, by simp [h.cores], by simp [h.ms], by simp [h.jobs]⟩
    · rcases Nat.lt_succ_iff_lt_or_eq.1 hk with hlt | rfl
      · rw [State.iuSrc_fire_ne h.awake (by omega), h.bells k hlt]
      · rw [State.iuSrc_fire_self h.awake, hself, if_pos hbit]
    · rw [State.iuSrc_fire_ne h.awake (by omega), h.others n (by omega)]
  next hbit =>
    refine ⟨h.awake, fun k hk => ?_, fun n hn => h.others n (by omega), h.cores, h.ms, h.jobs⟩
    rcases Nat.lt_succ_iff_lt_or_eq.1 hk with hlt | rfl
    · exact h.bells k hlt
    · rw [hself, if_neg hbit]

theorem rung_foldl (hup : s.fwAwake = true) (ring : W32) (m : Nat) : Rung s ((List.range m).foldl (fun s k => s.bell ring k) s) ring m := by
  induction m with
  | zero => exact ⟨hup, fun k hk => absurd hk (Nat.not_lt_zero k), fun _ _ => rfl, rfl, rfl, rfl⟩
  | succ m ih =>
    rw [List.range_succ, List.foldl_append]
    exact ih.next

/-- Settles O55. -/
theorem doorbellFires : Obligations.DoorbellFires := by
  intro s core ring hup hawake hcore hring
  have hfw : s.fwAwake = true := State.fwAwake_iff.2 ⟨hup, hawake⟩
  obtain ⟨-, hbells, hothers, hcores, hms, hjobs⟩ := rung_foldl hfw ring 8
  refine ⟨_, exec_iuDoorbell hfw hcore hring, fun k hk => (hbells k hk).trans ?_, hothers, hcores, hms, hjobs⟩
  cases hbit : ring.getLsbD k
  · simp
  · cases hdelivering : (s.iuSrc (248 + k)).delivering <;> simp [IuSrc.fired, hdelivering]

end Sys2Proof.Machine
end

section
/-! SUPPORT. The state after reset. Settles O59. -/

set_option Elab.async false

namespace Sys2Proof.Claim

open Sys2Proof.Machine

/-- No source of the interrupt unit waits: a level source has no input, an edge source was never fired. -/
theorem iuPending_reset (n : Nat) : State.reset.iuPending n = false := by
  have hinput : State.reset.inputOf n = false := by
    unfold State.inputOf
    split_ifs <;> rfl
  unfold State.iuPending
  simp only [hinput]
  split
  · rfl
  · rfl

/-- Settles O59: each part is read off the reset record. -/
theorem resetState : Obligations.ResetState :=
  ⟨⟨rfl, rfl, rfl⟩, rfl, rfl, rfl, rfl, fun _ => rfl, rfl, rfl, rfl, rfl, fun _ => ⟨rfl, rfl⟩, iuPending_reset, fun _ => rfl⟩

end Sys2Proof.Claim
end

section
/-! SUPPORT. The canonical form of memory and of the timers' tables, operation by operation: an operation either leaves them alone, or writes
them by an operation on tables that keeps the form. Where an operation answers more than a state, its lemma is about what it answers, `r`,
and takes the state out of it. First what the commands share. -/

set_option Elab.async false

namespace Sys2Proof.Claim

open Sys2Proof.Machine

variable {s u : State}

/-! ### The form -/

/-- Memory and timers as they were, or changed by operations that keep the form. -/
theorem canonical.kept (h : canonical s) (hk : s.Kept u) : canonical u := by
  obtain ⟨hmem, hcompare, hfired⟩ := hk
  rwa [canonical, hmem, hcompare, hfired]

theorem canonical.ite {p : Prop} [Decidable p] (h : canonical s) (hu : canonical u) : canonical (if p then s else u) := by
  split
  · exact h
  · exact hu

/-- A fold whose accumulator `π` sees a state in. -/
theorem canonical.foldlOn {α β : Type} {b : β} {l : List α} (π : β → State) {f : β → α → β} (h : canonical (π b))
    (hf : ∀ b a, canonical (π b) → canonical (π (f b a))) : canonical (π (l.foldl f b)) := by
  induction l generalizing b with
  | nil => exact h
  | cons a r ih => exact ih (hf b a h)

theorem canonical.foldl {α : Type} {l : List α} {f : State → α → State} (h : canonical s) (hf : ∀ u a, canonical u → canonical (f u a)) :
    canonical (l.foldl f s) :=
  h.foldlOn id hf

theorem canonical.foldlFst {α β : Type} {l : List α} {f : State × β → α → State × β} {b : State × β} (h : canonical b.1)
    (hf : ∀ b a, canonical b.1 → canonical (f b a).1) : canonical (l.foldl f b).1 :=
  h.foldlOn Prod.fst hf

theorem canonical.foldlSnd {α β : Type} {l : List α} {f : β × State → α → β × State} {b : β × State} (h : canonical b.2)
    (hf : ∀ b a, canonical b.2 → canonical (f b a).2) : canonical (l.foldl f b).2 :=
  h.foldlOn Prod.snd hf

theorem canonical.foldlAcc {α : Type} {l : List α} {f : Machine.Acc → α → Machine.Acc} {b : Machine.Acc} (h : canonical b.s)
    (hf : ∀ b a, canonical b.s → canonical (f b a).s) : canonical (l.foldl f b).s :=
  h.foldlOn Acc.s hf

theorem canonical.foldlLay {α : Type} {l : List α} {f : LayRun → α → LayRun} {b : LayRun} (h : canonical b.a.s)
    (hf : ∀ b a, canonical b.a.s → canonical (f b a).a.s) : canonical (l.foldl f b).a.s :=
  h.foldlOn (fun b : LayRun => b.a.s) hf

theorem canonical.foldlStarts {α : Type} {l : List α} {f : Starts → α → Starts} {b : Starts} (h : canonical b.s)
    (hf : ∀ b a, canonical b.s → canonical (f b a).s) : canonical (l.foldl f b).s :=
  h.foldlOn Starts.s hf

/-- An update of other fields leaves the form. -/
theorem canonical.same (h : canonical s) (hmem : u.ms.mem = s.ms.mem := by rfl) (hcompare : u.iu.compare = s.iu.compare := by rfl)
    (hfired : u.iu.fired = s.iu.fired := by rfl) : canonical u :=
  h.kept ⟨hmem, hcompare, hfired⟩

/-- Memory takes a value in canonical form. -/
theorem canonical.withMs (h : canonical s) {m : MemSys} (hm : Memory.wf m.mem = true) : canonical { s with ms := m } := ⟨hm, h.2⟩

theorem canonical.updMs (h : canonical s) {f : MemSys → MemSys} (hf : ∀ m, (f m).mem = m.mem := by intro; rfl) : canonical (s.updMs f) :=
  h.kept (State.kept_updMs hf)

/-- The command completes, and keeps the form. -/
def Answers (s : State) (o : Outc) : Prop := ∃ t, o = .next t ∧ (canonical s → canonical t)

theorem Answers.next (h : canonical s → canonical u) : Answers s (.next u) := ⟨u, rfl, h⟩

/-! ### State access -/

theorem canonical.setCore {c x} (h : canonical s) : canonical (s.setCore c x) := h.kept State.kept_setCore
theorem canonical.updCore {c f} (h : canonical s) : canonical (s.updCore c f) := h.kept State.kept_updCore
theorem canonical.setJob {p j} (h : canonical s) : canonical (s.setJob p j) := h.kept State.kept_setJob
theorem canonical.updJob {p f} (h : canonical s) : canonical (s.updJob p f) := h.kept State.kept_updJob
theorem canonical.setPort {p x} (h : canonical s) : canonical (s.setPort p x) := h.kept State.kept_setPort
theorem canonical.updPort {p f} (h : canonical s) : canonical (s.updPort p f) := h.kept State.kept_updPort
theorem canonical.updEngine {cls num f} (h : canonical s) : canonical (s.updEngine cls num f) := h.kept State.kept_updEngine
theorem canonical.updSpan {p f} (h : canonical s) : canonical (s.updSpan p f) := h.kept State.kept_updSpan
theorem canonical.countBy {off n} (h : canonical s) : canonical (s.countBy off n) := h.kept State.kept_countBy
theorem canonical.count {off} (h : canonical s) : canonical (s.count off) := h.kept State.kept_count
theorem canonical.takeFree {r} (h : canonical s) (e : s.takeFree = r) : canonical r.2 := e ▸ h.kept State.kept_takeFree
theorem canonical.takeRandom {n r} (h : canonical s) (e : s.takeRandom n = r) : canonical r.2 := e ▸ h.kept State.kept_takeRandom
theorem canonical.out {o} (h : canonical s) : canonical (s.out o) := h.kept State.kept_out
theorem canonical.setCtxAt {t c} (h : canonical s) : canonical (s.setCtxAt t c) := h.kept State.kept_setCtxAt

theorem canonical.setCtxIn {t c} (h : canonical s) : canonical (s.setCtxIn t c) := by
  unfold State.setCtxIn
  split
  · exact h.updCore
  · exact h.setCtxAt

/-! ### Events, job faults and what ends with a job -/

theorem canonical.post {p e} (h : canonical s) : canonical (s.post p e) := h.kept State.kept_post
theorem canonical.postBoth {e} (h : canonical s) : canonical (s.postBoth e) := h.kept State.kept_postBoth
theorem canonical.postOwner {pos e} (h : canonical s) : canonical (s.postOwner pos e) := h.kept State.kept_postOwner
theorem canonical.evFault {code f} (h : canonical s) : canonical (s.evFault code f) := h.kept State.kept_evFault
theorem canonical.evDoneJob {pos r code lost} (h : canonical s) : canonical (s.evDoneJob pos r code lost) := h.kept State.kept_evDoneJob
theorem canonical.respond {p r code data} (h : canonical s) : canonical (s.respond p r code data) := h.kept State.kept_respond
theorem canonical.settleTaken {p n} (h : canonical s) : canonical (s.settleTaken p n) := h.kept State.kept_settleTaken
theorem canonical.answer {p code data} (h : canonical s) : canonical (s.answer p code data) := h.kept State.kept_answer
theorem canonical.answerJob {opcode pos code} (h : canonical s) : canonical (s.answerJob opcode pos code) := h.kept State.kept_answerJob
theorem canonical.fire {n} (h : canonical s) : canonical (s.fire n) := h.kept State.kept_fire
theorem canonical.setInput {n b} (h : canonical s) : canonical (s.setInput n b) := h.kept State.kept_setInput

/-! ### Counters, publications and threads -/

theorem canonical.updThread {tid f} (h : canonical s) : canonical (s.updThread tid f) := h.kept State.kept_updThread
theorem canonical.wakeCore {core} (h : canonical s) : canonical (s.wakeCore core) := h.kept State.kept_wakeCore
theorem canonical.wake {tid f} (h : canonical s) : canonical (s.wake tid f) := h.kept State.kept_wake
theorem canonical.setDev {d} (h : canonical s) : canonical (s.setDev d) := h.kept State.kept_setDev
theorem canonical.settleDev (h : canonical s) : canonical s.settleDev := h.kept State.kept_settleDev
theorem canonical.abortXing {k code} (h : canonical s) : canonical (s.abortXing k code) := h.kept State.kept_abortXing
theorem canonical.abortWhere {p code} (h : canonical s) : canonical (s.abortWhere p code) := h.kept State.kept_abortWhere
theorem canonical.endJob {pos r code} (h : canonical s) : canonical (s.endJob pos r code) := h.kept State.kept_endJob
theorem canonical.jobFault {pos code f} (h : canonical s) : canonical (s.jobFault pos code f) := h.kept State.kept_jobFault
theorem canonical.threadFault {tid pc code} (h : canonical s) : canonical (s.threadFault tid pc code) := h.kept State.kept_threadFault
theorem canonical.laneFault {core head code} (h : canonical s) : canonical (s.laneFault core head code) := h.kept State.kept_laneFault
theorem canonical.engineFault {d code} (h : canonical s) : canonical (s.engineFault d code) := h.kept State.kept_engineFault
theorem canonical.dropJob {pos code} (h : canonical s) : canonical (s.dropJob pos code) := h.kept State.kept_dropJob
theorem canonical.faultCapsules (h : canonical s) : canonical s.faultCapsules := h.kept State.kept_faultCapsules
theorem canonical.snapDetect {code laws loc} (h : canonical s) : canonical (s.snapDetect code laws loc) := h
theorem canonical.abandon {code} (h : canonical s) : canonical (s.abandon code) := h.kept State.kept_abandon
theorem canonical.abandonMoor {code} (h : canonical s) : canonical (s.abandonMoor code) := h.kept State.kept_abandonMoor

theorem canonical.enterFaulted {source code laws loc core} (h : canonical s) : canonical (s.enterFaulted source code laws loc core) :=
  h.kept State.kept_enterFaulted

theorem canonical.lostLaw {law loc core} (h : canonical s) : canonical (s.lostLaw law loc core) := h.kept State.kept_lostLaw
theorem canonical.advance {tid} (h : canonical s) : canonical (s.advance tid) := h.kept State.kept_advance
theorem canonical.wakeCounter {pos id} (h : canonical s) : canonical (s.wakeCounter pos id) := h.kept State.kept_wakeCounter
theorem canonical.settleReleases {pos} (h : canonical s) : canonical (s.settleReleases pos) := h.kept State.kept_settleReleases
theorem canonical.bindSlot {pos slot odd} (h : canonical s) : canonical (s.bindSlot pos slot odd) := h.kept State.kept_bindSlot
theorem canonical.addCtr {pos id amt r} (h : canonical s) (e : s.addCtr pos id amt = r) : canonical r.2 := e ▸ h.kept State.kept_addCtr
theorem canonical.doneCtr {d} (h : canonical s) : canonical (s.doneCtr d) := h.kept State.kept_doneCtr
theorem canonical.bumpCtr {pos id} (h : canonical s) : canonical (s.bumpCtr pos id) := h.kept State.kept_bumpCtr

/-! ### The record of the Spans -/

theorem canonical.spanGuard {pa n} (h : canonical s) : canonical (s.spanGuard pa n) := h.kept State.kept_spanGuard

/-! ### Page tables -/

theorem canonical.putEntry {a bs} (h : canonical s) : canonical (s.putEntry a bs) := by
  unfold State.putEntry
  split
  · exact h
  · exact h.withMs (Memory.wf_wrBytes h.1)

theorem canonical.putLeaf {pos x} (h : canonical s) : canonical (s.putLeaf pos x) := h.foldl fun _ _ h => h.putEntry

theorem canonical.putTables {pos} (h : canonical s) : canonical (s.putTables pos) := by
  unfold State.putTables
  extract_lets _ u
  have hu : canonical u := h.foldl fun _ _ h => h.putEntry
  exact hu.foldl fun _ _ h => h.putLeaf

theorem canonical.setPte {pos page f} (h : canonical s) : canonical (s.setPte pos page f) := by
  unfold State.setPte
  extract_lets u u1
  have hu : canonical u := h.updJob
  have hu1 : canonical u1 := hu.foldl fun _ _ h => h.putLeaf
  exact hu1.foldl fun _ _ h => h.updCore

theorem canonical.tlbWalk {core va r} (h : canonical s) (e : s.tlbWalk core va = r) : canonical r.2 := by
  subst e
  unfold State.tlbWalk
  extract_lets _ _ _ _
  split
  · exact h
  · split
    · exact h
    · extract_lets _ _ u _
      have hu : canonical u := h.updMs
      split
      · exact h
      · exact hu.updCore

/-! ### Crossings -/

theorem canonical.openXing {k x} (h : canonical s) : canonical (s.openXing k x) := h.kept State.kept_openXing
theorem canonical.dropXing {k} (h : canonical s) : canonical (s.dropXing k) := h
theorem canonical.updXing {k f} (h : canonical s) : canonical (s.updXing k f) := h
theorem canonical.xingFull (h : canonical s) : canonical s.xingFull := h.count
theorem canonical.conflict {es} (h : canonical s) : canonical (s.conflict es) := h.kept State.kept_conflict
theorem canonical.conflictRange {pa n} (h : canonical s) : canonical (s.conflictRange pa n) := h.kept State.kept_conflictRange
theorem canonical.beats {reads wset} (h : canonical s) : canonical (s.beats reads wset) := h.abortWhere

theorem canonical.cross {x} {fail : Code → State → State} {land : State → State} (h : canonical s)
    (hfail : ∀ code u, canonical u → canonical (fail code u)) (hland : ∀ u, canonical u → canonical (land u)) :
    canonical (s.cross x fail land) :=
  .ite (hfail _ _ h.xingFull) (.ite h (.ite (hfail _ _ h) (.ite h.enterFaulted (hland _ h.beats.count))))

theorem canonical.landXing {k x} (h : canonical s) : canonical (s.landXing k x) := h.dropXing.beats.count

/-! ### Memory: errors, stores, swap records -/

theorem canonical.markRow {row} (h : canonical s) : canonical (s.markRow row) := h.kept State.kept_markRow
theorem canonical.tallyRow {row word} (h : canonical s) : canonical (s.tallyRow row word) := h.kept State.kept_tallyRow

theorem canonical.checkRead {pa n ecc r} (h : canonical s) (e : s.checkRead pa n ecc = r) : canonical r.2 :=
  e ▸ h.kept State.kept_checkRead

theorem canonical.dirty {pos page va n} (h : canonical s) : canonical (s.dirty pos page va n) := by
  unfold State.dirty
  split
  · exact h
  · exact .ite h (.ite h h.abortWhere.setPte)

theorem canonical.touch {page} (h : canonical s) : canonical (s.touch page) := h.kept State.kept_touch

theorem canonical.poke {a bs} (h : canonical s) : canonical (s.poke a bs) := by
  obtain ⟨hmem, htimers⟩ := h
  rw [canonical, State.poke_mem, State.poke_timers.1, State.poke_timers.2]
  exact ⟨Memory.wf_wrBytes hmem, htimers⟩

theorem canonical.youngPage {flashPage} (h : canonical s) : canonical (s.youngPage flashPage) := h.kept State.kept_youngPage
theorem canonical.faultIn {pos page stack acct} (h : canonical s) : canonical (s.faultIn pos page stack acct) := h.kept State.kept_faultIn

theorem canonical.putRecord {tid off bs} (h : canonical s) : canonical (s.putRecord tid off bs) := by
  unfold State.putRecord
  split
  · exact h
  · exact h.foldl fun _ _ h => h.poke

theorem canonical.readRecord {tid ecc r} (h : canonical s) (e : s.readRecord tid ecc = r) : canonical r.2 := by
  subst e
  unfold State.readRecord
  split
  · exact h
  · split
    next e => exact (h.checkRead e :)

theorem canonical.writeJob {pos va bs} (h : canonical s) : canonical (s.writeJob pos va bs) := by
  unfold State.writeJob
  split
  · exact h.foldl fun _ _ h => h.dirty.touch.poke
  · exact h

/-! ### Engine operations -/

theorem canonical.charge {cls num a c} (h : canonical s) : canonical (s.charge cls num a c) := by
  unfold State.charge
  extract_lets _ u _
  have hu : canonical u := h.updEngine
  exact hu.same

theorem canonical.wakeEngine {cls num} (h : canonical s) : canonical (s.wakeEngine cls num) := h.foldl fun _ _ h => h.wake
theorem canonical.freeEntry {cls num serial} (h : canonical s) : canonical (s.freeEntry cls num serial) := h.updEngine.wakeEngine
theorem canonical.saveDesc {cls num serial f} (h : canonical s) : canonical (s.saveDesc cls num serial f) := h.updEngine

theorem canonical.complete {cls num d e} (h : canonical s) : canonical (s.complete cls num d e) := by
  unfold State.complete
  extract_lets u u1
  have hu : canonical u := .ite h h.writeJob
  have hu1 : canonical u1 := hu.freeEntry.doneCtr
  exact .ite hu1 hu1.engineFault

theorem canonical.suspend {cls num d shore pages} (h : canonical s) : canonical (s.suspend cls num d shore pages) := by
  unfold State.suspend
  extract_lets u
  have hu : canonical u := h.foldl fun _ _ h => h.faultIn
  exact .ite hu hu.saveDesc.updEngine

theorem canonical.atStatus {cls num d shore} {go : State} (h : canonical s) (hgo : canonical go) :
    canonical (s.atStatus cls num d shore go) := by
  unfold State.atStatus
  split
  · exact hgo
  · split
    · exact .ite h hgo
    · exact h.suspend
    · exact hgo

theorem canonical.finish {cls num d shore e} (h : canonical s) : canonical (s.finish cls num d shore e) := h.atStatus h.complete
theorem canonical.meetFinds {fs} (h : canonical s) : canonical (s.meetFinds fs) := h.foldl fun _ _ h => h.checkRead rfl

theorem canonical.sees {pos ranges fs r} (h : canonical s) (e : s.sees pos ranges fs = r) : canonical r.2.1 := by
  subst e
  unfold State.sees
  extract_lets _ _ u
  have hu : canonical u := .meetFinds (h.foldl fun _ _ h => h.touch)
  exact hu

theorem canonical.readSees {pos ranges fs r} (h : canonical s) (e : s.readSees pos ranges fs = r) : canonical r.2 := by
  subst e
  exact (h.sees rfl :)

theorem canonical.setStream {pos i v} (h : canonical s) : canonical (s.setStream pos i v) := h.updJob

end Sys2Proof.Claim
end

section
/-! SUPPORT. The canonical form under operations by rows, links, flash, the logbook, window operations, vector and Keel operations. -/

set_option Elab.async false

namespace Sys2Proof.Claim

open Sys2Proof.Machine

variable {s u : State}

/-! ### Operations by rows -/

theorem canonical.putOp {pos held w r} (h : canonical s) (e : s.putOp pos held w = r) : canonical r.1 := by
  subst e
  exact .foldl (.ite h h.writeJob) fun _ _ h => h.writeJob

theorem canonical.flush {pos held} (h : canonical s) : canonical (s.flush pos held) := h.foldl fun _ _ h => h.writeJob

theorem canonical.accTake {pos r} {a : Machine.Acc} (h : canonical a.s) : canonical (Acc.take pos a r).s :=
  h.foldlFst fun _ _ h => h.putOp rfl

theorem canonical.accRow {pos reads body i} {a : Machine.Acc} (h : canonical a.s) : canonical (Acc.row pos reads body a i).s := by
  unfold Acc.row
  split
  · exact h
  · extract_lets _ _ _ _
    split
    · exact (h.sees rfl :)
    · split
      · exact (h.sees rfl :)
      · split
        · exact (h.sees rfl :)
        · exact (h.sees rfl).accTake

theorem canonical.rows {pos i n reads body p fs} (h : canonical s) : canonical (s.rows pos i n reads body p fs).s :=
  h.foldlAcc fun _ _ h => h.accRow

theorem canonical.accDone {cls num d e} {a : Machine.Acc} (h : canonical a.s) : canonical (a.done cls num d e) := h.flush.complete

theorem canonical.runOp {cls op r outs o} (h : canonical s) : canonical (s.runOp cls op r outs o) := by
  unfold State.runOp
  split
  · exact h
  · exact .ite h (.ite h.rows.saveDesc h.rows.accDone)

/-! ### Packets and links -/

theorem canonical.updPeer {p f} (h : canonical s) : canonical (s.updPeer p f) := h
theorem canonical.updLink {l f} (h : canonical s) : canonical (s.updLink l f) := h
theorem canonical.updVc {p v f} (h : canonical s) : canonical (s.updVc p v f) := h.updPeer
theorem canonical.emit {l da p} (h : canonical s) : canonical (s.emit l da p) := h.out

theorem canonical.linkTx {l da p} (h : canonical s) : canonical (s.linkTx l da p) :=
  .ite h (.ite (.ite h.updLink h.emit) (.ite h.emit (.ite h.updLink h.updLink.emit)))

theorem canonical.drainLink {l} (h : canonical s) : canonical (s.drainLink l) := h.updLink.foldl fun _ _ h => h.linkTx

theorem canonical.transmit {p k} (h : canonical s) : canonical (s.transmit p k) := by
  unfold State.transmit
  split
  · exact h
  · exact h.linkTx

theorem canonical.azPump {p v n} (h : canonical s) : canonical (s.azPump p v n) := by
  induction n generalizing s with
  | zero => exact h
  | succ n ih =>
    unfold State.azPump
    extract_lets _
    split
    · exact h
    · split
      · exact h
      · exact ih h.updPeer.updVc.transmit

theorem canonical.azPumpAll {p v} (h : canonical s) : canonical (s.azPumpAll p v) := h.azPump
theorem canonical.azSend {p k o} (h : canonical s) : canonical (s.azSend p k o) := h.updVc.azPumpAll
theorem canonical.resendFrom {p v psn} (h : canonical s) : canonical (s.resendFrom p v psn) := h.foldl fun _ _ h => h.transmit

theorem canonical.takeGrant {p v r} (h : canonical s) (e : s.takeGrant p v = r) : canonical r.2 := by
  subst e
  unfold State.takeGrant
  extract_lets _ _ _ u u1 _
  have hu : canonical u := h.updVc
  have hu1 : canonical u1 := hu.updPeer
  exact hu1.same

theorem canonical.sendAck {p v} (h : canonical s) : canonical (s.sendAck p v) := by
  unfold State.sendAck
  extract_lets _
  split
  next e => exact (h.takeGrant e).updVc.transmit

theorem canonical.sendNack {p v code psn winref} (h : canonical s) : canonical (s.sendNack p v code psn winref) := h.transmit

/-! ### Flash units and pages -/

theorem canonical.updFlash {g} (h : canonical s) : canonical (s.updFlash g) := h.updMs
theorem canonical.spoil {us} (h : canonical s) : canonical (s.spoil us) := h.updMs

theorem canonical.flashRead {unit r x} (h : canonical s) (e : s.flashRead unit r = x) : canonical x.2 := by
  subst e
  unfold State.flashRead
  extract_lets u u1 _ u2
  have hu : canonical u := h.youngPage
  have hu1 : canonical u1 := hu.countBy
  have hu2 : canonical u2 := hu1.same
  split
  · exact hu
  · extract_lets u3
    have hu3 : canonical u3 := hu2.updFlash
    split
    · exact hu3
    · exact hu3.count.spoil

theorem canonical.readPage {page r x} (h : canonical s) (e : s.readPage page r = x) : canonical x.2 := by
  subst e
  unfold State.readPage
  split
  · extract_lets _ x
    split
    · unfold x
      refine h.foldlSnd fun b _ hb => ?_
      split
      · exact hb.flashRead rfl
      · exact hb
    · refine canonical.spoil ?_
      unfold x
      refine h.foldlSnd fun b _ hb => ?_
      split
      · exact hb.flashRead rfl
      · exact hb
  · exact h.foldlSnd fun _ _ h => (h.flashRead rfl :)

theorem canonical.readPages {pages reads r} (h : canonical s) (e : s.readPages pages reads = r) : canonical r.2 := by
  subst e
  exact h.foldlSnd fun _ _ h => (h.readPage rfl :)

theorem canonical.readUnit {unit r x} (h : canonical s) (e : s.readUnit unit r = x) : canonical x.2 := by
  subst e
  unfold State.readUnit
  split
  · exact h.readPage rfl
  · exact h.flashRead rfl

theorem canonical.flashReport {ok} (h : canonical s) : canonical (s.flashReport ok) := h.setInput

/-! ### The logbook -/

theorem canonical.setLog {id r} (h : canonical s) : canonical (s.setLog id r) := .fire h

theorem canonical.logStore {id bs r} (h : canonical s) (e : s.logStore id bs = r) : canonical r.2 := by
  subst e
  unfold State.logStore
  split
  · exact h.xingFull
  · split
    · split
      · exact h.beats.setLog.count
      · exact h

theorem canonical.logFirmware {id bs} (h : canonical s) : canonical (s.logFirmware id bs) := .ite h (h.logStore rfl)

@[simp] theorem execMapCheckpoint_answers : Answers s (execMapCheckpoint s) := by
  unfold execMapCheckpoint
  refine .next fun h => ?_
  extract_lets _
  split
  · exact h
  · split
    next e =>
      split
      next e1 =>
        split
        next e2 => exact .ite (((h.takeFree e).takeFree e1).logStore e2) (((h.takeFree e).takeFree e1).logStore e2).updFlash

@[simp] theorem execLifetimeStore_answers : Answers s (execLifetimeStore s) := .next fun h => .ite h.logFirmware h

/-! ### Keys and banks -/

theorem canonical.freshKey {r} (h : canonical s) (e : s.freshKey = r) : canonical r.2 := by
  subst e
  unfold State.freshKey
  split
  next e => exact (h.takeRandom e :)

theorem canonical.eraseTier (h : canonical s) : canonical s.eraseTier := by
  unfold State.eraseTier
  extract_lets u
  have hu : canonical u := h.withMs (twfFrom_filter h.1)
  exact hu.updFlash

theorem canonical.bankCode {bank readOk owner r} (h : canonical s) (e : s.bankCode bank readOk owner = r) : canonical r.2 := by
  subst e
  unfold State.bankCode
  split
  · exact h
  · split
    · split
      next e => exact (h.takeFree e :)
    · exact h

/-! ### The end of a boot -/

theorem canonical.raiseRollback {floor} (h : canonical s) : canonical (s.raiseRollback floor) := .ite h (.ite h (.logFirmware h))

theorem canonical.bootDone (h : canonical s) : canonical s.bootDone := by
  unfold State.bootDone
  split
  · exact h
  · extract_lets _ u u1
    have hu : canonical u := h
    have hu1 : canonical u1 := hu.postBoth
    split
    · exact hu1.raiseRollback
    · exact hu1

/-! ### Window operations and transfers -/

theorem canonical.setWin {w x} (h : canonical s) : canonical (s.setWin w x) := h
theorem canonical.dropOwner {serial} (h : canonical s) : canonical (s.dropOwner serial) := h
theorem canonical.azStart {num serial} (h : canonical s) : canonical (s.azStart num serial) := h.updEngine

theorem canonical.putOne {num d fs r} (h : canonical s) (e : s.putOne num d fs = r) : canonical r.2.1 := by
  subst e
  unfold State.putOne
  extract_lets _ _
  split
  · exact h.saveDesc
  · exact h.foldl fun _ _ h => h.faultIn
  · split
    next e => exact (h.sees e).saveDesc
    next e => exact (h.sees e).saveDesc.azSend

theorem canonical.sendRead {peer winref off n o} (h : canonical s) : canonical (s.sendRead peer winref off n o) := by
  unfold State.sendRead
  extract_lets _ _ _ u
  have hu : canonical u := h
  exact hu.azSend

theorem canonical.endReads {p} (h : canonical s) : canonical (s.endReads p) := h

theorem canonical.getOne {num d r} (h : canonical s) (e : s.getOne num d = r) : canonical r.2 := by
  subst e
  unfold State.getOne
  extract_lets _ u
  have hu : canonical u := h.saveDesc
  split
  · exact h.saveDesc
  · exact h.foldl fun _ _ h => h.faultIn
  · exact hu.sendRead

theorem canonical.azFill {serial n fs} (h : canonical s) : canonical (s.azFill serial n fs) := by
  induction n generalizing s fs with
  | zero => exact h
  | succ n ih =>
    unfold State.azFill
    split
    · exact h
    next num d _ =>
      extract_lets _
      split
      · exact h
      · have hsent : canonical (if d.opcode = 0x0803 then s.putOne num d fs else ((s.getOne num d).1, (s.getOne num d).2, fs)).2.1 := by
          split
          · exact h.putOne rfl
          · exact h.getOne rfl
        split
        next e =>
          rw [e] at hsent
          exact ih hsent
        next e =>
          rw [e] at hsent
          exact hsent

theorem canonical.azEnd {serial} (h : canonical s) : canonical (s.azEnd serial) := by
  unfold State.azEnd
  split
  · exact h
  · exact .ite h (.ite h (h.atStatus h.dropOwner.finish))

theorem canonical.azStep {serial fs} (h : canonical s) : canonical (s.azStep serial fs) := h.azFill.azEnd

theorem canonical.fate {o code data r} (h : canonical s) (e : s.fate o code data = some r) : canonical r := by
  have hdone {num serial} {f : Desc → Desc} : canonical ((s.saveDesc 8 num serial f).azEnd serial) := h.saveDesc.azEnd
  unfold State.fate at e
  split at e
  · exact Option.some.inj e ▸ h
  · split at e
    · exact Option.some.inj e ▸ h
    · exact Option.some.inj e ▸ hdone
  · split at e
    · exact Option.some.inj e ▸ h
    · extract_lets a done at e
      split at e
      · exact Option.some.inj e ▸ hdone
      · split at e
        · exact Option.some.inj e ▸ hdone
        · cases e
        · split at e
          · exact Option.some.inj e ▸ hdone
          · split at e
            · cases e
            · exact Option.some.inj e ▸ h.writeJob.saveDesc.azEnd
  · exact Option.some.inj e ▸ h.saveDesc

theorem canonical.fail {o code} (h : canonical s) : canonical (s.fail o code) := by
  unfold State.fail
  cases e : s.fate o code [] with
  | none => exact h
  | some u => exact h.fate e

theorem canonical.peerGone {p} (h : canonical s) : canonical (s.peerGone p) := by
  unfold State.peerGone
  extract_lets _ _ _ u u1
  have hu : canonical u := h.updPeer
  have hu1 : canonical u1 := hu.endReads
  exact hu1.foldl fun _ _ h => h.fail

theorem canonical.azWindow {r op ok f detail} (h : canonical s) : canonical (s.azWindow r op ok f detail) := by
  unfold State.azWindow
  split
  · exact h
  · exact h.atStatus (.ite h.finish (.ite h.finish (h.cross (fun _ _ h => .ite h h.finish) fun _ h => h.setWin.finish)))

@[simp] theorem execAzWinOpen_answers {r} : Answers s (execAzWinOpen r s) := .next fun h => h.azWindow
@[simp] theorem execAzWinClose_answers {r} : Answers s (execAzWinClose r s) := .next fun h => h.azWindow

theorem canonical.azTransfer {r op} (h : canonical s) : canonical (s.azTransfer r op) := by
  unfold State.azTransfer
  split
  · exact h.foldl fun _ _ h => h.azStep
  · exact .ite h.finish h.azStart.azStep

@[simp] theorem execAzPut_answers {r} : Answers s (execAzPut r s) := .next fun h => h.azTransfer
@[simp] theorem execAzGet_answers {r} : Answers s (execAzGet r s) := .next fun h => h.azTransfer

/-! ### Vector operations -/

theorem canonical.vec {r op unit body} (h : canonical s) : canonical (s.vec r op unit body) := h.runOp
@[simp] theorem execVecMap_answers {r} : Answers s (execVecMap r s) := .next fun h => h.vec
@[simp] theorem execVecReduce_answers {r} : Answers s (execVecReduce r s) := .next fun h => h.vec
@[simp] theorem execVecNormFwd_answers {r} : Answers s (execVecNormFwd r s) := .next fun h => h.vec
@[simp] theorem execVecNormBwd_answers {r} : Answers s (execVecNormBwd r s) := .next fun h => h.vec
@[simp] theorem execVecSoftmaxFwd_answers {r} : Answers s (execVecSoftmaxFwd r s) := .next fun h => h.vec
@[simp] theorem execVecSoftmaxBwd_answers {r} : Answers s (execVecSoftmaxBwd r s) := .next fun h => h.vec
@[simp] theorem execVecOpt_answers {r} : Answers s (execVecOpt r s) := .next fun h => h.vec

/-! ### Keel operations -/

theorem canonical.keel {r op body ending} (h : canonical s) : canonical (s.keel r op body ending) := h.runOp
@[simp] theorem execKeelExp_answers {r} : Answers s (execKeelExp r s) := .next fun h => h.keel
@[simp] theorem execKeelExpmax_answers {r} : Answers s (execKeelExpmax r s) := .next fun h => h.keel
@[simp] theorem execKeelEncode_answers {r} : Answers s (execKeelEncode r s) := .next fun h => h.keel
@[simp] theorem execKeelAdd_answers {r} : Answers s (execKeelAdd r s) := .next fun h => h.keel
@[simp] theorem execKeelDecode_answers {r} : Answers s (execKeelDecode r s) := .next fun h => h.keel

end Sys2Proof.Claim
end

section
/-! SUPPORT. The canonical form under reduction contexts and the commands of Azlink. -/

set_option Elab.async false

namespace Sys2Proof.Claim

open Sys2Proof.Machine

variable {s u : State}

/-! ### Reduction contexts -/

theorem canonical.updRing {k f} (h : canonical s) : canonical (s.updRing k f) := h
theorem canonical.freeRing {k} (h : canonical s) : canonical (s.freeRing k) := h
theorem canonical.updBucket {k id f} (h : canonical s) : canonical (s.updBucket k id f) := h.updRing
theorem canonical.writeWork {x d first bs} (h : canonical s) : canonical (s.writeWork x d first bs) := .ite h.writeJob h.writeJob.writeJob

theorem canonical.sendMsg {x peer bucket attempt m} (h : canonical s) : canonical (s.sendMsg x peer bucket attempt m) :=
  h.foldl fun _ _ h => h.azSend

theorem canonical.sendStep {k rank id m} (h : canonical s) : canonical (s.sendStep k rank id m) := by
  unfold State.sendStep
  split
  · exact h
  · exact .ite h.sendMsg h.updRing

theorem canonical.sendNotice {x peer n} (h : canonical s) : canonical (s.sendNotice x peer n) := h.azSend

theorem canonical.lapOn {k n} (h : canonical s) : canonical (s.lapOn k n) := by
  unfold State.lapOn
  split
  · exact h
  · exact .ite h h.sendNotice

theorem canonical.azComplete {d e} (h : canonical s) : canonical (s.azComplete d e) := by
  unfold State.azComplete
  split
  · exact h
  · extract_lets _ u
    have hu : canonical u := .ite h h.writeJob
    exact .ite (.saveDesc (h.atStatus h)) (.ite hu.freeEntry.doneCtr h.complete)

theorem canonical.azOvers {num op} (h : canonical s) : canonical (s.azOvers num op) := h.foldl fun _ _ h => h.azComplete

theorem canonical.settle {k id} (h : canonical s) : canonical (s.settle k id) := by
  unfold State.settle
  split
  · exact h
  · extract_lets u
    have hu : canonical u := h.updRing
    exact .ite hu hu.bumpCtr

theorem canonical.closeTry {k} (h : canonical s) : canonical (s.closeTry k) := by
  unfold State.closeTry
  split
  · exact h
  · split
    · exact h
    · exact .ite h h.lapOn.freeRing.azComplete

theorem canonical.endBucket {k id e} (h : canonical s) : canonical (s.endBucket k id e) := by
  unfold State.endBucket
  split
  · exact h
  · split
    · exact h
    · extract_lets _ _ u u1 u2 u3 u4
      have hu : canonical u := h.updRing
      have hu1 : canonical u1 := hu.azComplete
      have hu2 : canonical u2 := .ite hu1.evFault hu1
      have hu3 : canonical u3 := .ite hu2.settle (.ite hu2.lapOn hu2)
      have hu4 : canonical u4 := by
        unfold u4
        split
        · split
          · exact hu3
          · exact hu3.lapOn.updRing
        · exact hu2
      exact hu4.closeTry

theorem canonical.failLap {k id code} (h : canonical s) : canonical (s.failLap k id code) := by
  unfold State.failLap
  split
  · exact h
  · exact h.lapOn.endBucket

theorem canonical.bucketRoom {d a n r} (h : canonical s) (e : s.bucketRoom d a n = r) : canonical r.2 := by
  subst e
  unfold State.bucketRoom
  split
  · exact h.foldl fun _ _ h => h.faultIn
  · exact h

theorem canonical.tryEnd {k id} (h : canonical s) : canonical (s.tryEnd k id) := by
  unfold State.tryEnd
  split
  · exact h
  · split
    · exact h
    · extract_lets _ _ _ _ u
      have hu : canonical u := .ite h (.updBucket (h.foldl fun _ _ h => h.sendNotice))
      split
      · exact h
      · split
        · exact hu
        · split
          · split
            next e => exact (hu.bucketRoom e :)
            next e => exact .ite (hu.bucketRoom e).endBucket (hu.bucketRoom e).writeJob.endBucket

theorem canonical.carry {k id q acts} (h : canonical s) : canonical (s.carry k id q acts) := by
  unfold State.carry
  refine h.foldl fun u _ hu => ?_
  split
  · exact hu.updBucket
  · exact .ite hu.updBucket hu.sendStep

theorem canonical.finalize {k id kind c bs owner n} (h : canonical s) : canonical (s.finalize k id kind c bs owner n) := by
  induction n generalizing s kind c bs owner with
  | zero => exact h
  | succ n ih =>
    unfold State.finalize
    split
    · exact h
    · split
      · exact h
      · split
        · exact h
        · extract_lets _ _ u u1
          have hu : canonical u := h.updBucket
          have hu1 : canonical u1 := .ite hu hu.writeWork
          split
          · exact hu1.carry.foldl fun _ _ h => ih h
          · exact hu1
          · exact hu1.failLap

theorem canonical.beginPasses {k id} (h : canonical s) : canonical (s.beginPasses k id) := by
  unfold State.beginPasses
  split
  · exact h
  · split
    · exact h
    · extract_lets _ _
      split
      · exact h
      · refine h.foldl fun u _ hu => ?_
        extract_lets _
        split
        · exact hu.failLap
        · exact .ite hu.finalize hu.carry

theorem canonical.retryBucket {k id} (h : canonical s) : canonical (s.retryBucket k id) := h.updRing.beginPasses

theorem canonical.mismatch {k id j m} (h : canonical s) : canonical (s.mismatch k id j m) := by
  unfold State.mismatch
  split
  · exact h
  · split
    · exact h
    · exact .ite (.ite h.lapOn.retryBucket h.failLap) (.ite h.failLap h.updBucket.sendNotice)

theorem canonical.ringRun {k id n} (h : canonical s) : canonical (s.ringRun k id n) := by
  induction n generalizing s with
  | zero => exact h
  | succ n ih =>
    unfold State.ringRun
    split
    · exact h
    · split
      · exact h
      · split
        · exact h
        · split
          · exact h
          · extract_lets _ u
            have hu : canonical u := h.updBucket
            split
            · exact ih hu.mismatch
            · exact hu.failLap
            · exact ih (hu.updBucket.carry.foldl fun _ _ h => h.finalize)

theorem canonical.ringGo {k id} (h : canonical s) : canonical (s.ringGo k id) := by
  unfold State.ringGo
  split
  · exact h
  · exact h.ringRun.tryEnd

theorem canonical.startBucket {k id} (h : canonical s) : canonical (s.startBucket k id) := by
  unfold State.startBucket
  split
  · exact h
  · split
    · exact h
    · extract_lets _
      split
      · exact h
      · split
        · exact h.foldl fun _ _ h => h.faultIn
        · exact h.failLap
        · split
          next e => exact (h.bucketRoom e :)
          next e =>
            extract_lets u
            have hu : canonical u := (h.bucketRoom e).updBucket
            exact .ite hu.failLap hu.beginPasses.ringGo

theorem canonical.sendAccept {k id} (h : canonical s) : canonical (s.sendAccept k id) := by
  unfold State.sendAccept
  split
  · exact h
  · exact .ite h (h.foldl fun _ _ h => h.sendNotice)

theorem canonical.serve' {k id} (h : canonical s) : canonical (s.serve' k id) := by
  unfold State.serve'
  split
  · exact h
  · split
    · exact h
    · extract_lets _
      refine h.foldl fun u _ hu => ?_
      extract_lets _ _ _ _ u1
      have hu1 : canonical u1 := .ite hu hu.sendStep
      exact hu1.sendStep

theorem canonical.ringReady {k base done aborted} (h : canonical s) : canonical (s.ringReady k base done aborted) := by
  unfold State.ringReady
  split
  · exact h
  · extract_lets _ _ u u1 _ u2 u3 u4
    have hu : canonical u := h.updRing
    have hu1 : canonical u1 := hu.foldl fun _ _ h => .ite h.settle h
    have hu2 : canonical u2 := by
      unfold u2
      split
      · exact hu1
      · exact hu1.updRing.azComplete
    have hu3 : canonical u3 := hu2.foldl fun _ _ h => h.sendAccept
    have hu4 : canonical u4 := hu3.foldl fun _ _ h => h.serve'
    exact .closeTry (hu4.foldl fun _ _ h => h.startBucket)

theorem canonical.formStart {k} (h : canonical s) : canonical (s.formStart k) := by
  unfold State.formStart
  split
  · exact h
  · exact .ite h (.ite h.ringReady (.ite h h.updRing.lapOn))

theorem canonical.openFails {k code} (h : canonical s) : canonical (s.openFails k code) := by
  unfold State.openFails
  split
  · exact h
  · extract_lets u u1 u2
    have hu : canonical u := h.foldl fun _ _ h => h.endBucket
    have hu1 : canonical u1 := hu.freeRing
    have hu2 : canonical u2 := by
      unfold u2
      split
      · exact hu1
      · exact hu1.azComplete
    split
    · exact hu2
    · exact hu2.azComplete

theorem canonical.formNotice {k n} (h : canonical s) : canonical (s.formNotice k n) := by
  unfold State.formNotice
  split
  · exact h
  · exact .ite h (.ite h.updRing (.ite h.lapOn.openFails (.ite h.lapOn.ringReady h.updRing.lapOn)))

theorem canonical.formAgain {k} (h : canonical s) : canonical (s.formAgain k) := by
  unfold State.formAgain
  split
  · exact h
  · exact h.formStart.foldl fun _ _ h => h.formNotice

theorem canonical.breakRing {k out} (h : canonical s) : canonical (s.breakRing k out) := by
  unfold State.breakRing
  split
  · exact h
  · extract_lets u u1
    have hu : canonical u := h.updRing
    have hu1 : canonical u1 := hu.foldl fun _ _ h => h.endBucket
    exact hu1.formAgain

/-! ### Packets of a reduction context -/

theorem canonical.strayed {k} (h : canonical s) : canonical (s.strayed k) := h.updRing

theorem canonical.stepIn {k p id m} (h : canonical s) : canonical (s.stepIn k p id m) := by
  unfold State.stepIn
  split
  · exact h
  · extract_lets _ _ u u1
    have hu : canonical u := h.updRing
    have hu1 : canonical u1 := .ite hu hu.sendStep
    split
    · exact h.updBucket.ringGo
    · exact .ite h (.ite hu1.sendNotice hu1)

theorem canonical.ringData {p kind pk} (h : canonical s) : canonical (s.ringData p kind pk) := by
  unfold State.ringData
  split
  · exact h
  · extract_lets _ _ _
    split
    · exact h.strayed
    · split
      · exact h
      · split
        · exact h
        · extract_lets _ _ _ u
          have hu : canonical u := h.updRing
          exact .ite h (.ite hu.stepIn hu.updRing)

theorem canonical.laneOperand {p pk ecc} (h : canonical s) : canonical (s.laneOperand p pk ecc) := by
  unfold State.laneOperand
  split
  · exact h
  · split
    · exact h
    · split
      · split
        next e => exact (h.checkRead e :)
        next e => exact (h.checkRead e).failLap
      · exact h

theorem canonical.noticeIn {p pk} {act : Nat → RingCtx → Notice → State → State} (h : canonical s)
    (hact : ∀ k x n u, canonical u → canonical (act k x n u)) : canonical (s.noticeIn p pk act) := by
  unfold State.noticeIn
  split
  · exact h
  · exact .ite (hact _ _ _ _ h) h.strayed

theorem canonical.noteForm {p pk} (h : canonical s) : canonical (s.noteForm p pk) := by
  unfold State.noteForm
  extract_lets _ _
  split
  · exact h
  · exact .ite h (.ite h.strayed h.formNotice)

theorem canonical.noteReady {p pk} (h : canonical s) : canonical (s.noteReady p pk) := h.noticeIn fun _ _ _ _ h => .ite h h.lapOn.ringReady

theorem canonical.noteAccept {p pk} (h : canonical s) : canonical (s.noteAccept p pk) := by
  unfold State.noteAccept
  refine h.noticeIn fun _ _ _ u hu => ?_
  extract_lets _ _ u1
  have hu1 : canonical u1 := hu.updRing
  exact .ringGo (hu1.foldl fun _ _ h => h.sendStep)

theorem canonical.noteRetry {p pk} (h : canonical s) : canonical (s.noteRetry p pk) := by
  unfold State.noteRetry
  refine h.noticeIn fun _ _ _ u hu => ?_
  split
  · exact hu
  · extract_lets u1
    have hu1 : canonical u1 := hu.lapOn
    split
    · exact .ite hu1.retryBucket.ringGo hu1.updBucket
    · exact hu1

theorem canonical.noteResend {p pk} (h : canonical s) : canonical (s.noteResend p pk) := by
  unfold State.noteResend
  refine h.noticeIn fun k x n u hu => ?_
  extract_lets _ _ _ _ d?
  cases d? with
  | none => exact hu
  | some d =>
    dsimp only
    split
    · exact hu.sendStep
    · exact hu.sendStep

theorem canonical.noteVerified {p pk} (h : canonical s) : canonical (s.noteVerified p pk) := h.noticeIn fun _ _ _ _ h => h.updBucket.tryEnd

theorem canonical.noteFail {p pk} (h : canonical s) : canonical (s.noteFail p pk) := by
  unfold State.noteFail
  refine h.noticeIn fun _ _ _ u hu => ?_
  extract_lets _ u1
  have hu1 : canonical u1 := hu.lapOn
  exact .ite hu (.ite hu1.openFails hu1.endBucket)

theorem canonical.noteSettle {p pk} (h : canonical s) : canonical (s.noteSettle p pk) :=
  h.noticeIn fun _ _ _ _ h => .ite h.settle.lapOn.closeTry (.ite h.lapOn h.updRing)

theorem canonical.noteSettled {p pk} (h : canonical s) : canonical (s.noteSettled p pk) :=
  h.noticeIn fun _ _ _ _ h => .ite h h.settle.lapOn.closeTry

theorem canonical.noteLeave {p pk} (h : canonical s) : canonical (s.noteLeave p pk) := h.noticeIn fun _ _ _ _ h => .ite h h.lapOn.breakRing

theorem canonical.ringNotice {p pk} (h : canonical s) : canonical (s.ringNotice p pk) := by
  unfold State.ringNotice
  split
  · exact h.noteForm
  · exact h.noteReady
  · exact h.noteAccept
  · exact h.noteRetry
  · exact h.noteResend
  · exact h.noteVerified
  · exact h.noteFail
  · exact h.noteSettle
  · exact h.noteSettled
  · exact h.noteLeave
  · exact h

/-! ### Packets that arrive -/

theorem canonical.actWrite {p k r} (h : canonical s) (e : s.actWrite p k = some r) : canonical r.2 := by
  unfold State.actWrite at e
  extract_lets ref off n o drop at e
  have hdrop {o r} (e : drop o s = some r) : canonical r.2 := by
    subst drop
    rw [← Option.some.inj e]
    exact .sendNack (.ite h.setWin h)
  split at e
  · exact hdrop e
  · split at e
    · exact hdrop e
    · cases e
    · split at e
      · cases e
      · rw [← Option.some.inj e]
        exact h.writeJob

theorem canonical.writeFaults {k} (h : canonical s) : canonical (s.writeFaults k) := by
  unfold State.writeFaults
  extract_lets _
  split
  · exact h.foldl fun _ _ h => h.faultIn
  · exact h

theorem canonical.actRead {p k r} (h : canonical s) (e : s.actRead p k = r) : canonical r.2 := by
  subst e
  unfold State.actRead
  extract_lets _ _ _ _ _ resp _ u
  have hu : canonical u := h.foldl fun _ _ h => h.flashRead rfl
  have hresp {u c data} (h : canonical u) : canonical (resp c data u) := h.azSend
  clear_value u resp
  split
  · exact hresp h.sendNack
  · split
    · exact hresp h
    · split
      · exact hresp hu
      · exact hresp hu

theorem canonical.actResp {p k r} (h : canonical s) (e : s.actResp p k = some r) : canonical r.2 := by
  unfold State.actResp at e
  split at e
  · exact Option.some.inj e ▸ h
  · obtain ⟨u, hu, rfl⟩ := Option.map_eq_some_iff.1 e
    exact h.endReads.fate hu

theorem canonical.peerLeft {p} (h : canonical s) : canonical (s.peerLeft p) := by
  unfold State.peerLeft
  extract_lets u _ u1 _
  have hu : canonical u := h.peerGone
  have hu1 : canonical u1 := hu.updPeer
  exact hu1.same

theorem canonical.peerJoined {p} (h : canonical s) : canonical (s.peerJoined p) := by
  unfold State.peerJoined
  extract_lets u _
  have hu : canonical u := h.updPeer
  exact hu.same

theorem canonical.adopt {epoch ids} (h : canonical s) : canonical (s.adopt epoch ids) := by
  unfold State.adopt
  extract_lets _ _ _ _ u u1 u2 _ u3 u4
  have hu : canonical u := h.foldl fun _ _ h => h.peerLeft
  have hu1 : canonical u1 := hu.foldl fun _ _ h => h.peerJoined
  have hu2 : canonical u2 := hu1.foldl fun _ _ h => h.updPeer
  have hu3 : canonical u3 := hu2.same
  have hu4 : canonical u4 := by
    unfold u4
    refine hu3.foldl fun u5 _ hu5 => ?_
    split
    · exact hu5
    · exact .ite hu5.formAgain hu5.breakRing
  exact hu4.postBoth.bootDone

theorem canonical.actView {p k} (h : canonical s) : canonical (s.actView p k) := .ite h.adopt.updVc h

theorem canonical.rxAct {p k r} (h : canonical s) (e : s.rxAct p k = some r) : canonical r.2 := by
  unfold State.rxAct at e
  split at e
  · exact Option.some.inj e ▸ h.actView
  · split at e
    · exact h.actWrite e
    · split at e
      · exact h.actRead (Option.some.inj e)
      · split at e
        · exact Option.some.inj e ▸ h
        · split at e
          · exact h.actResp e
          · split at e
            · exact Option.some.inj e ▸ .ite h.ringNotice h.ringData
            · split at e
              · exact Option.some.inj e ▸ h.ringData
              · exact Option.some.inj e ▸ h.ringData

theorem canonical.rxGo {p v n} (h : canonical s) : canonical (s.rxGo p v n) := by
  induction n generalizing s with
  | zero => exact h
  | succ n ih =>
    unfold State.rxGo
    split
    · exact h
    · split
      · exact .ite h.writeFaults h
      next e =>
        have hacted := h.updVc.rxAct e
        exact ih (.ite hacted.updVc.sendAck hacted.updVc)

theorem canonical.rxRetry (h : canonical s) : canonical s.rxRetry := h.foldl fun _ _ h => h.foldl fun _ _ h => .ite h h.rxGo

theorem canonical.seqIn {k} (h : canonical s) : canonical (s.seqIn k) :=
  .ite h (.ite h.updVc.rxGo (.ite h.sendAck (.ite h h.updVc.sendNack)))

theorem canonical.ackIn {p v ack outcome} (h : canonical s) : canonical (s.ackIn p v ack outcome) := by
  unfold State.ackIn
  extract_lets _ _ _ u u1
  have hu : canonical u := h.updVc
  have hu1 : canonical u1 := hu.foldl fun _ _ h => .ite h h.fail
  exact .ite h hu1.azPumpAll

theorem canonical.grantIn {p g} (h : canonical s) : canonical (s.grantIn p g) := by
  unfold State.grantIn
  extract_lets u
  have hu : canonical u := h.updPeer
  exact hu.foldl fun _ _ h => h.azPumpAll

theorem canonical.nackIn {k} (h : canonical s) : canonical (s.nackIn k) := by
  unfold State.nackIn
  extract_lets _ _ _ _ u _
  have hu : canonical u := h.updVc
  split
  · exact h.resendFrom
  · split
    · exact h
    · split
      · exact h
      · extract_lets u1
        have hu1 : canonical u1 := hu.same
        exact hu1.fail

theorem canonical.heardOn {p l sa} (h : canonical s) : canonical (s.heardOn p l sa) := by
  unfold State.heardOn
  extract_lets _ u
  have hu : canonical u := .ite h h.updLink
  exact hu.updPeer

theorem canonical.sendPlain {l da type vc dst spec} (h : canonical s) : canonical (s.sendPlain l da type vc dst spec) := h.linkTx
theorem canonical.sendMember {p sub field} (h : canonical s) : canonical (s.sendMember p sub field) := h.transmit

theorem canonical.joinIn {l f} (h : canonical s) : canonical (s.joinIn l f) := by
  unfold State.joinIn
  extract_lets _ _ u u1 _
  have hu : canonical u := h.heardOn
  have hu1 : canonical u1 := hu.updPeer
  exact .ite (.ite h.sendPlain h) (.ite h.sendPlain hu1.same)

theorem canonical.publishView {ids} (h : canonical s) : canonical (s.publishView ids) := by
  unfold State.publishView
  extract_lets _ _ u _ u1
  have hu : canonical u := h.adopt
  have hu1 : canonical u1 := hu.same
  exact hu1.foldl fun _ _ h => h.azSend

theorem canonical.ringPeerGone {p} (h : canonical s) : canonical (s.ringPeerGone p) := by
  unfold State.ringPeerGone
  refine h.foldl fun u _ hu => ?_
  split
  · exact hu
  · exact .ite (hu.foldl fun _ _ h => h.endBucket) hu

theorem canonical.frameIn {l f want} {act : State → State} (h : canonical s) (hact : ∀ u, canonical u → canonical (act u)) :
    canonical (s.frameIn l f want act) := by
  unfold State.frameIn
  split
  · exact h
  · split
    · exact h.count
    · split
      · exact h
      · extract_lets u u1
        have hu : canonical u := .ite h h.sendPlain
        have hu1 : canonical u1 := .ite hu.ackIn hu
        exact hact _ (.ite hu1.setInput hu1)

/-! ### Azlink commands -/

@[simp] theorem execWinWrite_answers {link f err} : Answers s (execWinWrite link f err s) := by
  unfold execWinWrite
  refine .next fun h => h.frameIn fun u hu => ?_
  split
  · exact hu.seqIn
  · exact hu.lostLaw
  · exact hu.lostLaw

@[simp] theorem execWinRead_answers {link f} : Answers s (execWinRead link f s) := .next fun h => h.frameIn fun _ h => h.seqIn
@[simp] theorem execWinReadResp_answers {link f} : Answers s (execWinReadResp link f s) := .next fun h => h.frameIn fun _ h => h.seqIn
@[simp] theorem execKeelExpData_answers {link f} : Answers s (execKeelExpData link f s) := .next fun h => h.frameIn fun _ h => h.seqIn

@[simp] theorem execKeelLanes_answers {link f ecc bad} : Answers s (execKeelLanes link f ecc bad s) := by
  unfold execKeelLanes
  refine .next fun h => h.frameIn fun u hu => ?_
  split
  · exact hu.lostLaw
  · exact .ite hu.laneOperand.seqIn hu.seqIn

@[simp] theorem execFpRing_answers {link f} : Answers s (execFpRing link f s) := .next fun h => h.frameIn fun _ h => h.seqIn
@[simp] theorem execNoticeForm_answers {link f} : Answers s (execNoticeForm link f s) := .next fun h => h.frameIn fun _ h => h.seqIn
@[simp] theorem execNoticeReady_answers {link f} : Answers s (execNoticeReady link f s) := .next fun h => h.frameIn fun _ h => h.seqIn
@[simp] theorem execNoticeAccept_answers {link f} : Answers s (execNoticeAccept link f s) := .next fun h => h.frameIn fun _ h => h.seqIn
@[simp] theorem execNoticeRetry_answers {link f} : Answers s (execNoticeRetry link f s) := .next fun h => h.frameIn fun _ h => h.seqIn
@[simp] theorem execNoticeResend_answers {link f} : Answers s (execNoticeResend link f s) := .next fun h => h.frameIn fun _ h => h.seqIn
@[simp] theorem execNoticeVerified_answers {link f} : Answers s (execNoticeVerified link f s) := .next fun h => h.frameIn fun _ h => h.seqIn
@[simp] theorem execNoticeFail_answers {link f} : Answers s (execNoticeFail link f s) := .next fun h => h.frameIn fun _ h => h.seqIn
@[simp] theorem execNoticeSettle_answers {link f} : Answers s (execNoticeSettle link f s) := .next fun h => h.frameIn fun _ h => h.seqIn
@[simp] theorem execNoticeSettled_answers {link f} : Answers s (execNoticeSettled link f s) := .next fun h => h.frameIn fun _ h => h.seqIn
@[simp] theorem execNoticeLeave_answers {link f} : Answers s (execNoticeLeave link f s) := .next fun h => h.frameIn fun _ h => h.seqIn
@[simp] theorem execJoin_answers {link f} : Answers s (execJoin link f s) := .next fun h => h.frameIn fun _ h => h.joinIn
@[simp] theorem execView_answers {link f} : Answers s (execView link f s) := .next fun h => h.frameIn fun _ h => h.heardOn.seqIn
@[simp] theorem execHeartbeat_answers {link f} : Answers s (execHeartbeat link f s) := .next fun h => h.frameIn fun _ h => .ite h.updPeer h
@[simp] theorem execLoss_answers {link f} : Answers s (execLoss link f s) := .next fun h => h.frameIn fun _ h => .ite h.updPeer h

@[simp] theorem execRefuse_answers {link f} : Answers s (execRefuse link f s) :=
  .next fun h => h.frameIn fun _ h => .ite h (.bootDone (.evFault h))

@[simp] theorem execAck_answers {link f} : Answers s (execAck link f s) := by
  unfold execAck
  refine .next fun h => h.frameIn fun u hu => ?_
  extract_lets _ u1
  have hu1 : canonical u1 := .ite hu.ackIn hu
  exact hu1.grantIn

@[simp] theorem execLinkCredit_answers {link f bad} : Answers s (execLinkCredit link f bad s) := by
  unfold execLinkCredit
  refine .next fun h => h.frameIn fun u hu => ?_
  split
  · exact hu.lostLaw
  · split
    · exact hu
    · split
      next e => exact (hu.takeFree e).updLink.drainLink

@[simp] theorem execHello_answers {link f} : Answers s (execHello link f s) := .next fun h => h.frameIn fun _ h => h.heardOn

@[simp] theorem execCreditReq_answers {link f err} : Answers s (execCreditReq link f err s) := by
  unfold execCreditReq
  refine .next fun h => h.frameIn fun u hu => ?_
  extract_lets _ _ u1 _ u2
  have hu1 : canonical u1 := hu.updPeer
  have hu2 : canonical u2 := hu1.same
  split
  · exact hu.lostLaw
  · exact hu.lostLaw
  · exact hu.updPeer
  · exact .ite hu (.ite hu.sendNack (.ite hu hu2.transmit))

@[simp] theorem execNack_answers {link f} : Answers s (execNack link f s) := .next fun h => h.frameIn fun _ h => h.nackIn

@[simp] theorem execPfcFrame_answers {link enable times} : Answers s (execPfcFrame link enable times s) := by
  unfold execPfcFrame
  refine .next fun h => ?_
  split
  · exact h
  · extract_lets u
    have hu : canonical u := h.foldl fun _ _ h => .ite h h.updLink
    exact hu.drainLink

theorem canonical.timeoutShown {peer vc} (h : canonical s) : canonical (s.timeoutShown peer vc) := by
  unfold State.timeoutShown
  split
  · exact h.setInput
  · exact h

@[simp] theorem execResendTimeout_answers {peer vc} : Answers s (execResendTimeout peer vc s) :=
  .next fun h => .ite h h.timeoutShown.updVc.resendFrom

@[simp] theorem execPeerTimeout_answers {peer} : Answers s (execPeerTimeout peer s) := by
  unfold execPeerTimeout
  refine .next fun h => ?_
  split
  · exact h
  · extract_lets u _ u1
    have hu : canonical u := h.timeoutShown.peerGone.ringPeerGone
    have hu1 : canonical u1 := hu.same
    split
    · exact hu1.updPeer
    · split
      · exact hu1.sendMember
      · exact hu1

@[simp] theorem execAckTimer_answers {peer vc} : Answers s (execAckTimer peer vc s) := .next fun h => .ite h h.sendAck

@[simp] theorem execCreditWait_answers {peer vc} : Answers s (execCreditWait peer vc s) := by
  unfold execCreditWait
  refine .next fun h => ?_
  split
  · exact .ite h.transmit h
  · exact h

@[simp] theorem execHelloSend_answers {link} : Answers s (execHelloSend link s) := .next fun h => .ite h h.sendPlain

@[simp] theorem execJoinSend_answers : Answers s (execJoinSend s) := by
  unfold execJoinSend
  refine .next fun h => ?_
  split
  · exact h
  · extract_lets _ u
    have hu : canonical u := h
    exact hu.foldl fun _ _ h => h.sendPlain

@[simp] theorem execHeartbeatSend_answers : Answers s (execHeartbeatSend s) := by
  unfold execHeartbeatSend
  refine .next fun h => ?_
  split
  · exact h
  · split
    · exact h.foldl fun _ _ h => h.sendMember
    · split
      · exact h.sendMember
      · exact h

@[simp] theorem execHbTimeout_answers {peer} : Answers s (execHbTimeout peer s) :=
  .next fun h => .ite h (.ite h (.ite (.ite h.publishView h) h))

@[simp] theorem execViewPublish_answers : Answers s (execViewPublish s) := .next fun h => .ite h h.publishView

@[simp] theorem execFleetOfOne_answers : Answers s (execFleetOfOne s) := by
  unfold execFleetOfOne
  refine .next fun h => ?_
  split
  · exact .ite h.adopt h
  · exact h

@[simp] theorem execLossReachTimeout_answers {peer} : Answers s (execLossReachTimeout peer s) := .next fun h => .ite h h

@[simp] theorem execLinkDown_answers {link _cause} : Answers s (execLinkDown link _cause s) := by
  unfold execLinkDown
  refine .next fun h => ?_
  split
  · exact h
  · extract_lets u _ u1 u2 _
    have hu : canonical u := h.updLink
    have hu1 : canonical u1 := hu.same
    have hu2 : canonical u2 := hu1.count.setInput
    exact hu2.same

@[simp] theorem execLinkUp_answers {link} : Answers s (execLinkUp link s) := .next fun h => .ite h h.updLink.setInput

@[simp] theorem execAzRingOpen_answers {r} : Answers s (execAzRingOpen r s) := by
  unfold execAzRingOpen
  refine .next fun h => ?_
  split
  · exact h.azOvers
  · split
    · exact h.azComplete
    · exact .ite h.freeRing.azComplete h.azStart.updRing.formAgain

@[simp] theorem execAzRingClose_answers {r} : Answers s (execAzRingClose r s) := by
  unfold execAzRingClose
  refine .next fun h => ?_
  split
  · exact h.azOvers
  · split
    · exact h.azComplete
    · exact h.azStart.closeTry

@[simp] theorem execAzReduce_answers {r} : Answers s (execAzReduce r s) := by
  unfold execAzReduce
  refine .next fun h => ?_
  split
  · split
    · exact h.azComplete
    · exact h.azStart.startBucket
  · refine h.azOvers.foldl fun u _ hu => ?_
    split
    · exact hu
    · exact hu.startBucket.ringGo

@[simp] theorem execRingFormTimeout_answers {ctx} : Answers s (execRingFormTimeout ctx s) := by
  unfold execRingFormTimeout
  refine .next fun h => ?_
  split
  · exact .ite h.openFails h
  · exact h

theorem canonical.ringFault {k x} (h : canonical s) : canonical (s.ringFault k x) := h.evFault

@[simp] theorem execRingReformTimeout_answers {ctx} : Answers s (execRingReformTimeout ctx s) := by
  unfold execRingReformTimeout
  refine .next fun h => ?_
  split
  · split
    · exact h
    · extract_lets u
      have hu : canonical u := h.foldl fun _ _ h => h.endBucket
      exact hu.ringFault.formAgain
  · exact h

@[simp] theorem execBucketBrokenTimeout_answers {ctx bucket} : Answers s (execBucketBrokenTimeout ctx bucket s) := by
  unfold execBucketBrokenTimeout
  refine .next fun h => ?_
  split
  · exact .ite h h.endBucket.ringFault
  · exact h

end Sys2Proof.Claim
end

section
/-! SUPPORT. The canonical form under the engines of a core, the Spans, acceptance of descriptors, arbitration and swaps. -/

set_option Elab.async false

namespace Sys2Proof.Claim

open Sys2Proof.Machine

variable {s u : State}

/-! ### Layout operations -/

theorem canonical.layRunFail {c} {x : LayRun} (h : canonical x.a.s) : canonical (x.fail c).a.s := h

theorem canonical.layRunNext {d} {x : LayRun} (h : canonical x.a.s) : canonical (LayRun.next d x).a.s := by
  unfold LayRun.next
  split
  · exact h
  · split
    · exact h.layRunFail
    · exact h
    · split
      · exact h
      · extract_lets _ _ _ _ _ _
        split
        · exact (h.sees rfl).layRunFail
        · exact (h.sees rfl).foldlAcc fun _ _ h => h.accTake

theorem canonical.lay {r op} (h : canonical s) : canonical (s.lay r op) := by
  unfold State.lay
  split
  · exact h
  · extract_lets _ _ u _ u1
    have hu : canonical u := .ite (.flush (h.foldlLay fun _ _ h => h.layRunNext)) (h.foldlLay fun _ _ h => h.layRunNext)
    have hu1 : canonical u1 := hu.saveDesc
    exact .ite hu1.finish (.ite hu1 hu1.suspend)

@[simp] theorem execLayCopy_answers {r} : Answers s (execLayCopy r s) := .next fun h => h.lay
@[simp] theorem execLayFill_answers {r} : Answers s (execLayFill r s) := .next fun h => h.lay

/-! ### Gather and scatter -/

theorem canonical.setFetch {core serial i f} (h : canonical s) : canonical (s.setFetch core serial i f) := h.saveDesc

theorem canonical.startLookup {core d t i fs r} (h : canonical s) (e : s.startLookup core d t i fs = r) : canonical r.1 := by
  subst e
  unfold State.startLookup
  split
  next e => exact (h.sees e).setFetch
  next e =>
    split
    · exact (h.sees e).setFetch
    · split
      · exact (h.sees e).setFetch
      · extract_lets _
        split
        · exact (h.sees e).setFetch
        · split
          next e1 => exact ((h.sees e).sees e1).setFetch
          next e1 => exact ((h.sees e).sees e1).setFetch
    · split
      · exact (h.sees e).setFetch
      · split
        · exact (h.sees e :)
        · exact (h.sees e).setFetch.foldl fun _ _ h => h.sendRead

theorem canonical.startWrite {core d t i fs r} (h : canonical s) (e : s.startWrite core d t i fs = r) : canonical r.1 := by
  subst e
  unfold State.startWrite
  split
  next e => exact (h.sees e).setFetch
  next e =>
    extract_lets _
    split
    · exact (h.sees e).setFetch
    · split
      · exact (h.sees e).setFetch
      · exact (h.sees e).saveDesc.foldl fun _ _ h => h.faultIn
      · exact .ite (h.sees e).setFetch (.ite (h.sees e) (h.sees e).writeJob.setFetch)
    · split
      · exact (h.sees e).setFetch
      · split
        · exact (h.sees e :)
        · exact (h.sees e).setFetch.foldl fun _ _ h => h.azSend

theorem canonical.startsNext {core serial t i} {start : State → Desc → Nat → Finds → State × Finds} {x : Starts}
    (hstart : ∀ u d k fs, canonical u → canonical (start u d k fs).1) (h : canonical x.s) :
    canonical (Starts.next core serial t start x i).s := by
  unfold Starts.next
  split
  · exact h
  · split
    · exact h
    · split
      · exact h
      · split
        · exact h
        · extract_lets _
          split
          · exact hstart _ _ _ _ h
          · exact hstart _ _ _ _ h

/-- The start of a lookup keeps the form. -/
def GOp.Keeps (o : GOp) : Prop := ∀ core t u d i fs, canonical u → canonical (o.start core t u d i fs).1

theorem canonical.gather {r op o} (h : canonical s) (ho : GOp.Keeps o) : canonical (s.gather r op o) := by
  unfold State.gather
  split
  · exact h
  · extract_lets _ x
    have hx : canonical x.s := canonical.foldlStarts h fun _ _ h => canonical.startsNext (fun _ _ _ _ h => ho _ _ _ _ _ _ h) h
    clear_value x
    split
    · exact hx
    · exact .ite hx (.ite hx.rows.saveDesc (canonical.accDone hx.rows.dropOwner))

theorem bagOp_keeps : GOp.Keeps bagOp := fun _ _ _ _ _ _ h => h.startLookup rfl
theorem rowsOp_keeps : GOp.Keeps rowsOp := fun _ _ _ _ _ _ h => h.startLookup rfl
theorem scatOp_keeps : GOp.Keeps scatOp := fun _ _ _ _ _ _ h => h.startWrite rfl
@[simp] theorem execGatherBag_answers {r} : Answers s (execGatherBag r s) := .next fun h => h.gather bagOp_keeps
@[simp] theorem execGatherRows_answers {r} : Answers s (execGatherRows r s) := .next fun h => h.gather rowsOp_keeps
@[simp] theorem execScatterRows_answers {r} : Answers s (execScatterRows r s) := .next fun h => h.gather scatOp_keeps
@[simp] theorem execCombineDup_answers {r} : Answers s (execCombineDup r s) := .next fun h => h.runOp

theorem canonical.unitCame {core unit ok d f} (h : canonical s) : canonical (s.unitCame core unit ok d f) := by
  unfold State.unitCame
  split
  · extract_lets _ _
    split
    · exact h
    · split
      · exact h.setFetch
      · split
        · exact h.setFetch
        · split
          · exact h.setFetch
          · exact h
  · exact h

@[simp] theorem execGatherFlashReadComplete_answers {core unit r} : Answers s (execGatherFlashReadComplete core unit r s) :=
  .next fun h => .ite h ((h.readUnit rfl).foldl fun _ _ h => h.foldl fun _ _ h => h.unitCame)

/-! ### Operands that arrive -/

theorem canonical.noteIssue {t} (h : canonical s) : canonical (s.noteIssue t) := h.updCore
theorem canonical.pend {t c} (h : canonical s) : canonical (s.pend t c) := h.setCtxAt.updCore

theorem canonical.issue {t rs ps inX} {body : Ctx → State → State} (h : canonical s)
    (hbody : ∀ c u, canonical u → canonical (body c u)) : canonical (s.issue t rs ps inX body) := by
  unfold State.issue
  split
  · exact h
  · exact .ite h.pend (.ite h.threadFault (.ite h.threadFault (hbody _ _ h.noteIssue)))

theorem canonical.faultAt {c code} (h : canonical s) : canonical (s.faultAt c code) := h.threadFault
theorem canonical.retire {t c} (h : canonical s) : canonical (s.retire t c) := .ite h.setCtxAt.threadFault h.setCtxAt
theorem canonical.retirePending {t c} (h : canonical s) : canonical (s.retirePending t c) := h.retire
theorem canonical.block {t c st w} (h : canonical s) : canonical (s.block t c st w) := h.setCtxAt.updCore

theorem canonical.xAdd {k reads writes st r} (h : canonical s) (e : s.xAdd k reads writes st = r) : canonical r.2 := by
  subst e
  unfold State.xAdd
  split
  · exact h
  · extract_lets _ _ _ _
    split
    · exact h.abortXing
    · split
      · exact h.abortXing
      · exact h

theorem canonical.pageMiss {t c page} (h : canonical s) : canonical (s.pageMiss t c page) := by
  unfold State.pageMiss
  extract_lets _ u _
  have hu : canonical u := h.faultIn
  split
  · exact hu.abortXing
  · exact hu.block

theorem canonical.walked {core va c} {go : State → State} (h : canonical s) (hgo : ∀ u, canonical u → canonical (go u)) :
    canonical (s.walked core va c go) :=
  .ite (hgo _ (h.tlbWalk rfl)) (h.tlbWalk rfl).faultAt

theorem canonical.load {t c rd va size signed} (h : canonical s) : canonical (s.load t c rd va size signed) := by
  unfold State.load
  refine h.walked fun u hu => ?_
  split
  · exact hu.faultAt
  · exact hu.pageMiss
  · extract_lets _
    split
    · exact hu.retirePending
    · split
      next e => exact (hu.xAdd e :)
      next e => exact (hu.xAdd e).retirePending

theorem canonical.pushStore {c core kind parts} (h : canonical s) : canonical (s.pushStore c core kind parts) :=
  h.foldl fun _ _ h => h.updMs

theorem canonical.storeAt {t c va size v} (h : canonical s) : canonical (s.storeAt t c va size v) := by
  unfold State.storeAt
  refine h.walked fun u hu => ?_
  split
  · exact hu.faultAt
  · exact hu.pageMiss
  · split
    · exact hu.pushStore.retire
    · split
      next e => exact (hu.xAdd e :)
      next e => exact (hu.xAdd e).retire

theorem canonical.wordLoad {t c rd ra imm words signed} (h : canonical s) : canonical (s.wordLoad t c rd ra imm words signed) := by
  unfold State.wordLoad
  split
  · exact h.faultAt
  · exact .ite h.faultAt (.ite h.faultAt h.load)

theorem canonical.wordStore {t c ra rb imm words} (h : canonical s) : canonical (s.wordStore t c ra rb imm words) := by
  unfold State.wordStore
  split
  · exact h.faultAt
  · exact .ite h.faultAt (.ite h.faultAt h.storeAt)

theorem canonical.byteLoad {t c rd ra imm size signed} (h : canonical s) : canonical (s.byteLoad t c rd ra imm size signed) :=
  .ite h.faultAt h.load

theorem canonical.byteStore {t c ra rb imm size} (h : canonical s) : canonical (s.byteStore t c ra rb imm size) := .ite h.faultAt h.storeAt

/-! ### The random-stream unit -/

theorem canonical.rnd {r op} (h : canonical s) : canonical (s.rnd r op) := h.runOp
@[simp] theorem execRndFill_answers {r} : Answers s (execRndFill r s) := .next fun h => h.rnd
@[simp] theorem execRndMask_answers {r} : Answers s (execRndMask r s) := .next fun h => h.rnd
@[simp] theorem execRndCtrSet_answers {r} : Answers s (execRndCtrSet r s) := .next fun h => h.rnd
@[simp] theorem execRndCtrRead_answers {r} : Answers s (execRndCtrRead r s) := .next fun h => h.rnd

/-! ### Choice of Span operations -/

theorem canonical.joinPair {d r} (h : canonical s) (e : s.joinPair d = r) : canonical r.2 := by
  subst e
  unfold State.joinPair
  split
  · exact h
  · exact h.saveDesc

theorem canonical.joinTie {d r} (h : canonical s) (e : s.joinTie d = r) : canonical r.2 := by
  subst e
  unfold State.joinTie
  split
  · exact h
  · split
    · exact h.updSpan
    · exact h.updSpan

/-! ### Rounds of a Span -/

theorem canonical.chooseNext {pos} (h : canonical s) : canonical (s.chooseNext pos) := by
  unfold State.chooseNext
  split
  · exact h.updSpan
  · exact h.updSpan

theorem canonical.swapIn_load {pos x fs at' a n k} (h : canonical s) : canonical (State.swapIn.load pos x fs at' s a n k).2 :=
  (h.readSees rfl).updSpan

theorem canonical.swapIn {pos x fs at' r} (h : canonical s) (e : s.swapIn pos x fs at' = r) : canonical r.2 := by
  subst e
  unfold State.swapIn
  extract_lets _ _ _
  split
  · exact h
  · split
    · split
      · exact h.updSpan
      · exact h.swapIn_load
    · exact h.swapIn_load

theorem canonical.shadowLoad {pos core turn t d p pass fs} (h : canonical s) : canonical (s.shadowLoad pos core turn t d p pass fs) := by
  unfold State.shadowLoad
  refine h.foldl fun u _ hu => ?_
  split
  · exact hu
  · exact .ite hu (.ite (hu.readSees rfl) (hu.readSees rfl).updSpan)

theorem canonical.loadAhead {pos x fs} (h : canonical s) : canonical (s.loadAhead pos x fs) := by
  unfold State.loadAhead
  extract_lets _
  split
  · exact h.shadowLoad
  · split
    · exact h
    · split
      · exact h
      · split
        · exact h.shadowLoad
        · exact h

theorem canonical.startSpan {pos} (h : canonical s) : canonical (s.startSpan pos) := .ite h h.updEngine.updSpan
@[simp] theorem execSpanChoose_answers {pos} : Answers s (execSpanChoose pos s) := .next fun h => .ite h h.chooseNext.startSpan

theorem canonical.outElem {d i j p} (h : canonical s) : canonical (s.outElem d i j p) := by
  unfold State.outElem
  extract_lets _ u
  have hu : canonical u := h.updSpan
  exact .ite hu.writeJob hu

theorem canonical.endSpan {d err word} (h : canonical s) : canonical (s.endSpan d err word) := by
  unfold State.endSpan
  extract_lets u u1 u2 u3
  have hu : canonical u := .ite h h.writeJob
  have hu1 : canonical u1 := hu.updEngine
  have hu2 : canonical u2 := hu1.updSpan
  have hu3 : canonical u3 := hu2.freeEntry.doneCtr.settleReleases
  exact .ite hu3 hu3.engineFault

theorem canonical.freeC {d all} (h : canonical s) : canonical (s.freeC d all) := .foldl h fun _ _ h => .ite h.writeJob h

theorem canonical.finishSpan {d p} (h : canonical s) : canonical (s.finishSpan d p) := by
  unfold State.finishSpan
  extract_lets _ _ _ u u1
  have hu : canonical u := .ite h.freeC h
  have hu1 : canonical u1 := hu.updSpan
  exact .ite h.updSpan.endSpan hu1.endSpan

theorem canonical.failSpan {pos} (h : canonical s) : canonical (s.failSpan pos) := by
  unfold State.failSpan
  extract_lets _ u
  have hu : canonical u := h.updSpan
  refine canonical.startSpan ?_
  refine hu.foldl fun u1 _ hu1 => ?_
  split
  next e => exact .endSpan (.ite (hu1.takeFree e).freeC (hu1.takeFree e))

theorem canonical.chooseAtLast {pos x} (h : canonical s) : canonical (s.chooseAtLast pos x) := .ite h.chooseNext h

theorem canonical.beginPass {pos x fs r} (h : canonical s) (e : s.beginPass pos x fs = r) : canonical r.2 := by
  subst e
  unfold State.beginPass
  split
  · exact h
  · extract_lets u r
    have hu : canonical u := h.chooseAtLast
    split
    · refine canonical.loadAhead ?_
      unfold r
      refine hu.foldlSnd fun b _ hb => ?_
      split
      · exact hb.swapIn rfl
      · exact hb
    · unfold r
      refine hu.foldlSnd fun b _ hb => ?_
      split
      · exact hb.swapIn rfl
      · exact hb

theorem canonical.endTurn {pos x} (h : canonical s) : canonical (s.endTurn pos x) := by
  unfold State.endTurn
  extract_lets _ _ _ _ u _ u1 _
  have hu : canonical u := h.updSpan
  have hu1 : canonical u1 := .ite hu.updSpan hu
  split
  · exact h
  · split
    · exact hu1
    · split
      · exact hu1.finishSpan.startSpan
      · exact hu1

theorem canonical.landPairs {pos x ps} (h : canonical s) : canonical (s.landPairs pos x ps) := by
  unfold State.landPairs
  extract_lets u _ _
  have hu : canonical u := by
    unfold u
    split
    · exact h.updSpan
    · exact h
  exact .ite (hu.foldl fun _ _ h => h.foldl fun _ _ h => h.outElem) (.ite hu.updSpan hu.updSpan)

theorem canonical.accRead {pos x corrected} (h : canonical s) : canonical (s.accRead pos x corrected) := .ite h.countBy h
theorem canonical.rowDone {pos x} (h : canonical s) : canonical (s.rowDone pos x) := h.landPairs.updSpan

theorem canonical.streamRow {pos x y} (h : canonical s) : canonical (s.streamRow pos x y) :=
  .ite h (.ite ((h.accRead.beginPass rfl).readSees rfl).failSpan ((h.accRead.beginPass rfl).readSees rfl).rowDone.endTurn)

@[simp] theorem execSpanMm_answers {pos core r} : Answers s (execSpanMm pos core r s) := by
  unfold execSpanMm
  refine .next fun h => ?_
  split
  · exact h
  · exact .ite h.streamRow h

@[simp] theorem execTowlineBeat_answers {pos core beat} : Answers s (execTowlineBeat pos core beat s) := by
  unfold execTowlineBeat
  refine .next fun h => ?_
  split
  · exact h
  · extract_lets _ _ _ u
    have hu : canonical u := .ite h h.countBy
    split
    · exact h.failSpan
    · split
      · exact h
      · exact hu.updSpan

/-! ### Acceptance of descriptors, ISSUE and the lane -/

theorem canonical.ringAccept {d} (h : canonical s) : canonical (s.ringAccept d) := by
  unfold State.ringAccept
  split
  · split
    · exact h
    · exact h
  · split
    · exact h
    · exact h.updRing
  · split
    · exact h
    · extract_lets _ u
      have hu : canonical u := h.updRing
      exact .ite hu.sendAccept hu
  · exact h

theorem canonical.enqueue {cls num d} (h : canonical s) : canonical (s.enqueue cls num d) := h.updEngine.updEngine

theorem canonical.accept {num d} (h : canonical s) : canonical (s.accept num d) := by
  unfold State.accept
  extract_lets u _ _ d1 u1 u2
  have hu : canonical u := h.updMs
  have hu1 : canonical u1 := .ite hu hu.setStream
  have hu2 : canonical u2 := .ite hu1.setStream hu1
  clear_value u u1 u2
  split
  next e =>
    refine canonical.ringAccept (canonical.enqueue ?_)
    split at e
    · split at e
      next e1 =>
        split at e
        next e2 =>
          cases e
          exact ((hu2.joinTie e1).joinPair e2).foldl fun _ _ h => h.wakeCore
    · cases e
      exact hu2

/-- The state that the port leaves is in the form. -/
def Offered : PortAns → Prop
  | .full _ => True
  | .bad _ u => canonical u
  | .ok u => canonical u

theorem canonical.offer {core issuer stream raw fs} (h : canonical s) : Offered (s.offer core issuer stream raw fs) := by
  unfold State.offer
  extract_lets d named room hd auxOk
  clear_value d named room hd auxOk
  split
  · exact h
  · split
    · trivial
    · split
      · exact h
      · have hread : canonical (if fld raw 56 8 ≠ 0 ∧ auxOk then s.readSees d.pos [(fld raw 56 8, 64)] fs else (true, s)).2 := by
          split
          · exact h.readSees rfl
          · exact h
        split
        next e =>
          rw [e] at hread
          exact hread
        next e =>
          rw [e] at hread
          extract_lets c
          split
          · exact hread
          · split
            · exact hread
            · exact hread.accept

theorem canonical.issueAt {t rs p} {body : Ctx → State → State} (h : canonical s)
    (hbody : ∀ c u, canonical u → canonical (body c u)) : canonical (s.issueAt t rs p body) := by
  unfold State.issueAt
  split
  · exact h
  · exact .ite h.updCore (h.issue fun _ _ h => hbody _ _ h)

theorem canonical.issueDesc {t c raw fs} (h : canonical s) : canonical (s.issueDesc t c raw fs) := by
  unfold State.issueDesc
  split
  · exact h
  · have ho := h.offer (core := t.core) (issuer := .thread c.tid t.berth c.pc) (stream := c.stream.toNat)
      (raw := patch raw 2 [c.group]) (fs := fs)
    split
    · exact h.block
    next e =>
      rw [e] at ho
      exact canonical.faultAt ho
    next e =>
      rw [e] at ho
      exact (canonical.updCore ho).retire

@[simp] theorem execIssueR_answers {t ra} : Answers s (execIssueR t ra s) := by
  unfold execIssueR
  extract_lets _ _
  exact .next fun h => h.issueAt fun _ _ h => .ite h.faultAt h.issueDesc

@[simp] theorem execIssueM_answers {t ra imm} : Answers s (execIssueM t ra imm s) := by
  unfold execIssueM
  refine .next fun h => h.issueAt fun _ u hu => ?_
  split
  · exact hu.faultAt
  · split
    · exact hu.faultAt
    · split
      · exact hu.faultAt
      · split
        · exact hu
        · split
          next e => exact (hu.readSees e).faultAt
          next e => exact (hu.readSees e).issueDesc

@[simp] theorem execPrefetchLaneIssue_answers {lane} : Answers s (execPrefetchLaneIssue lane s) := by
  unfold execPrefetchLaneIssue
  refine .next fun h => ?_
  extract_lets core pos
  split
  · exact h
  · split
    · exact h
    next l a _ =>
      extract_lets head
      split
      · exact h.laneFault
      · exact h.foldl fun _ _ h => h.faultIn
      · split
        · exact h
        · split
          next e => exact (h.readSees e).laneFault
          next u e =>
            have ho := (h.readSees e).offer (core := core) (issuer := .lane head) (stream := l.laneStream.toNat)
              (raw := u.readJob pos a 64) (fs := lane.port.finds)
            split
            · exact h.readSees e
            next e =>
              rw [e] at ho
              exact canonical.laneFault ho
            next e =>
              rw [e] at ho
              exact (canonical.updCore ho).bumpCtr

/-! ### Arbitration -/

theorem canonical.acctError {cls num err} (h : canonical s) : canonical (s.acctError cls num err) := by
  unfold State.acctError
  extract_lets _ _
  split
  · exact h
  · exact h.updEngine.count
  · exact h.updEngine.count
  · exact .count h
  · exact h.lostLaw

theorem canonical.chooseEngine {cls num} (h : canonical s) : canonical (s.chooseEngine cls num) := by
  unfold State.chooseEngine
  extract_lets _ _ _ _
  split
  · exact h
  · split
    · exact h.updEngine
    · split
      · exact h.updEngine
      · exact h.updEngine

@[simp] theorem execEngineChoose_answers {cls eng err} : Answers s (execEngineChoose cls eng err s) := by
  unfold execEngineChoose
  refine .next fun h => ?_
  split
  · exact h
  · extract_lets u
    have hu : canonical u := h.acctError
    exact .ite hu hu.chooseEngine

@[simp] theorem execSliceEnd_answers {cls eng overrun} : Answers s (execSliceEnd cls eng overrun s) := by
  unfold execSliceEnd
  refine .next fun h => ?_
  extract_lets _
  split
  · exact h
  · split
    · exact h
    · exact h.updEngine

@[simp] theorem execEngineClockGate_answers {cls eng} : Answers s (execEngineClockGate cls eng s) := .next fun h => .ite h h.updEngine

/-! ### Cores and swaps -/

@[simp] theorem execSwapIn_answers {core} : Answers s (execSwapIn core s) := by
  unfold execSwapIn
  refine .next fun h => ?_
  extract_lets _
  split
  · exact h
  · split
    · exact h
    · split
      · exact h.setCore
      · split
        · exact h.setCore
        · exact h

@[simp] theorem execSwapInComplete_answers {core berth ecc} : Answers s (execSwapInComplete core berth ecc s) := by
  unfold execSwapInComplete
  refine .next fun h => ?_
  split
  · split
    next e =>
      split
      · exact (h.readRecord e).lostLaw
      · split
        · exact (h.readRecord e :)
        · exact (h.readRecord e).updCore.updJob.putRecord
  · exact h

@[simp] theorem execEviction_answers {core} : Answers s (execEviction core s) := by
  unfold execEviction
  refine .next fun h => ?_
  extract_lets _
  split
  · exact h
  · split
    · exact h
    · exact h.setCore

@[simp] theorem execEvictionComplete_answers {core berth} : Answers s (execEvictionComplete core berth s) := by
  unfold execEvictionComplete
  refine .next fun h => ?_
  split
  · exact .ite h h.putRecord.updCore.updJob
  · exact h

@[simp] theorem execRotation_answers {core} : Answers s (execRotation core s) := by
  unfold execRotation
  refine .next fun h => ?_
  extract_lets _
  split
  · exact h
  · split
    · exact h
    · exact h.setCore

@[simp] theorem execCoreSleep_answers {core} : Answers s (execCoreSleep core s) := .next fun h => .ite h.updCore h
@[simp] theorem execCoreDeep_answers {core} : Answers s (execCoreDeep core s) := .next fun h => .ite h.updCore h
@[simp] theorem execCoreWake_answers {core} : Answers s (execCoreWake core s) := .next fun h => .ite h.updCore h
@[simp] theorem execPllLockTimeout_answers {core} : Answers s (execPllLockTimeout core s) := .next fun h => .ite h.updCore.enterFaulted h

end Sys2Proof.Claim
end

section
/-! SUPPORT. The canonical form under firmware's work: compression, moorings, flash, crossings, epochs, and jobs from load to end. -/

set_option Elab.async false

namespace Sys2Proof.Claim

open Sys2Proof.Machine

variable {s u : State}

/-! ### Compression and mooring engines -/

theorem canonical.fwReport {cls num c} (h : canonical s) : canonical (s.fwReport cls num c) := h.updEngine.setInput

theorem canonical.fwIssue {cls num d bad} (h : canonical s) : canonical (s.fwIssue cls num d bad) :=
  .ite h.fwReport (.ite h h.updMs.updEngine.updEngine)

theorem canonical.fwDone {cls num d e} (h : canonical s) : canonical (s.fwDone cls num d e) := by
  unfold State.fwDone
  extract_lets u
  have hu : canonical u := .ite h h.poke
  exact hu.freeEntry.doneCtr.fwReport

theorem canonical.accPhysRead {pa n r} {a : Machine.Acc} (h : canonical a.s) (e : a.physRead pa n = r) : canonical r.2.s := by
  subst e
  exact h.meetFinds

theorem canonical.accFail {c} {a : Machine.Acc} (h : canonical a.s) : canonical (a.fail c).s := h

/-- A unit keeps the form. -/
def FwOp.Keeps (o : FwOp) : Prop := ∀ d k (a : Machine.Acc), canonical a.s → canonical (o.unit d k a).s

theorem canonical.fwRun {cls op r o} (h : canonical s) (ho : FwOp.Keeps o) : canonical (s.fwRun cls op r o) := by
  unfold State.fwRun
  split
  · exact h
  · extract_lets n a
    have ha : canonical a.s := by
      refine h.foldlAcc fun b _ hb => ?_
      split
      · exact ho _ _ _ hb
      · exact hb
    exact .ite h (.ite ha.saveDesc ha.fwDone)

theorem canonical.fwCommand {cls op r raw aux account bad o} (h : canonical s) (ho : FwOp.Keeps o) :
    canonical (s.fwCommand cls op r raw aux account bad o) := by
  unfold State.fwCommand
  split
  · exact h
  · extract_lets _ u
    have hu : canonical u := .ite h h.fwIssue
    exact hu.chooseEngine.fwRun ho

theorem canonical.compUnit {f d i} {a : Machine.Acc} (h : canonical a.s) : canonical (compUnit f d i a).s := by
  unfold Machine.compUnit
  split
  next e => exact (h.accPhysRead e).accFail
  next e =>
    split
    · exact (h.accPhysRead e).accFail
    · split
      · exact (h.accPhysRead e).accFail
      · exact (h.accPhysRead e).poke

@[simp] theorem execCompPage_answers {eng desc aux} : Answers s (execCompPage eng desc aux s) :=
  .next fun h => h.fwCommand fun _ i _ h => canonical.compUnit (i := i) h

@[simp] theorem execDecompPage_answers {eng desc aux} : Answers s (execDecompPage eng desc aux s) :=
  .next fun h => h.fwCommand fun _ i _ h => canonical.compUnit (i := i) h

theorem canonical.copyPage {src dst n} (h : canonical s) : canonical (s.copyPage src dst n) :=
  h.conflictRange.withMs (Memory.wf_copyCells h.conflictRange.1)

theorem canonical.markStaged {src dst} (h : canonical s) : canonical (s.markStaged src dst) := by
  unfold State.markStaged
  split
  · exact h
  · extract_lets _ u
    have hu : canonical u := h
    exact .ite hu.updMs (.ite hu hu.updJob)

theorem canonical.settleMoor (h : canonical s) : canonical s.settleMoor := by
  unfold State.settleMoor
  split
  · exact h
  · extract_lets _ u _
    have hu : canonical u := .ite h h.updJob
    exact .ite hu.same hu

theorem canonical.copyUnit {d i} {a : Machine.Acc} (h : canonical a.s) : canonical (copyUnit d i a).s := by
  unfold Machine.copyUnit
  extract_lets _ _
  split
  next e => exact (h.accPhysRead e).accFail
  next e => exact (h.accPhysRead e).copyPage.markStaged.settleMoor

@[simp] theorem execMoorCopy_answers {eng desc aux} : Answers s (execMoorCopy eng desc aux s) :=
  .next fun h => h.fwCommand fun _ _ _ h => canonical.copyUnit h

theorem canonical.versionUnit {err d i} {a : Machine.Acc} (h : canonical a.s) : canonical (versionUnit err d i a).s := by
  unfold Machine.versionUnit
  split
  · exact h.accFail
  · split
    next e => exact (h.accPhysRead e).accFail
    next e =>
      extract_lets x u
      have hu : canonical u := (h.accPhysRead e).copyPage
      clear_value x u
      split
      · exact hu.xingFull
      · split
        · exact hu
        · dsimp only
          refine hu.cross (fun _ _ h => h) fun v hv => ?_
          exact hv.updJob.setPte

@[simp] theorem execMoorVersion_answers {eng desc aux} : Answers s (execMoorVersion eng desc aux s) := by
  unfold execMoorVersion
  extract_lets _
  exact .next fun h => h.fwCommand fun _ i _ h => canonical.versionUnit (i := i) h

theorem canonical.digestUnit {d i} {a : Machine.Acc} (h : canonical a.s) : canonical (digestUnit d i a).s := by
  unfold Machine.digestUnit
  split
  next e => exact (h.accPhysRead e).accFail
  next e =>
    extract_lets _
    split
    · exact (h.accPhysRead e).accFail
    · split
      next e1 => exact ((h.accPhysRead e).accPhysRead e1).accFail
      next e1 => exact ((h.accPhysRead e).accPhysRead e1).poke

@[simp] theorem execMoorDigest_answers {eng desc aux} : Answers s (execMoorDigest eng desc aux s) :=
  .next fun h => h.fwCommand fun _ _ _ h => canonical.digestUnit h

/-- `shaUnit` over any chunk length: with the chunk a literal, the kernel counts it down when it checks an unfolding. -/
def shaUnitOf (chunk : Nat) (d : Desc) (i : Nat) (a : Machine.Acc) : Machine.Acc :=
  let n := Nat.min chunk (d.mCount - i * chunk)
  let last := decide (d.mCount ≤ (i + 1) * chunk)
  match a.physRead (d.mSrc + i * chunk) n with
  | (none, a) => a.fail E.uncorrectable
  | (some bs, a) =>
    let m := if last then (shaPad (List.replicate (d.mCount - n) 0 ++ bs)).drop (d.mCount - n) else bs
    let h := shaBlocks shaK (m.length / 128) a.part.hash m
    if last then { a with s := a.s.poke d.mDst (h.flatMap fun w => beBytes 8 w.toNat) }
    else { a with part := { a.part with band := h.map BitVec.toNat } }

theorem shaUnit_eq_shaUnitOf : shaUnit = shaUnitOf shaChunk := rfl

theorem canonical.shaUnitOf {chunk d i} {a : Machine.Acc} (h : canonical a.s) : canonical (shaUnitOf chunk d i a).s := by
  unfold Claim.shaUnitOf
  extract_lets n last
  split
  next e => exact (h.accPhysRead e).accFail
  next e =>
    extract_lets m hash
    split
    · exact (h.accPhysRead e).poke
    · exact h.accPhysRead e

theorem canonical.shaUnit {d i} {a : Machine.Acc} (h : canonical a.s) : canonical (shaUnit d i a).s := by
  rw [shaUnit_eq_shaUnitOf]
  exact .shaUnitOf h

@[simp] theorem execMoorSha512_answers {eng desc aux} : Answers s (execMoorSha512 eng desc aux s) :=
  .next fun h => h.fwCommand fun _ _ _ h => canonical.shaUnit h

/-! ### The flash controller -/

theorem canonical.spareCheck (h : canonical s) : canonical s.spareCheck := by
  unfold State.spareCheck
  extract_lets _ u
  have hu : canonical u := h.updFlash
  exact .ite hu.updFlash.evFault hu

theorem canonical.makeResident {pos page frame} (h : canonical s) : canonical (s.makeResident pos page frame) := by
  unfold State.makeResident
  split
  · exact h
  · extract_lets u _ u1 u2
    have hu : canonical u := h.conflictRange.spanGuard
    have hu1 : canonical u1 := hu.withMs (Memory.wf_copyCells hu.1)
    clear_value u1
    exact hu1.setPte.touch

theorem canonical.failPage {pos page code} (h : canonical s) : canonical (s.failPage pos page code) := by
  unfold State.failPage
  extract_lets _ _ _ _ u u1 u2
  have hu : canonical u := h.updMs
  have hu1 : canonical u1 := by
    unfold u1
    refine hu.foldl fun u3 _ hu3 => ?_
    split
    · extract_lets _
      split
      · exact hu3.saveDesc
      · split
        · exact hu3.saveDesc.azEnd
        · split
          · split
            · exact hu3
            · exact .ite hu3.failLap hu3
          · exact hu3
  have hu2 : canonical u2 := by
    unfold u2
    refine hu1.foldl fun u3 _ hu3 => ?_
    split
    · exact hu3.threadFault
    · exact hu3
  exact hu2.foldl fun _ _ h => h.threadFault

theorem canonical.pageCame {pos page} (h : canonical s) : canonical (s.pageCame pos page) := by
  unfold State.pageCame
  extract_lets u u1
  have hu : canonical u := h.foldl fun _ _ h => h.wake
  have hu1 : canonical u1 := hu.foldl fun _ _ h => .ite h.saveDesc.wakeCore h
  exact hu1.rxRetry

@[simp] theorem execFaultInComplete_answers {pos page r} : Answers s (execFaultInComplete pos page r s) := by
  unfold execFaultInComplete
  refine .next fun h => ?_
  split
  · exact h
  · extract_lets _
    split
    · exact h.updMs
    · split
      · exact h.updMs
      · split
        · exact .ite h.updMs.failPage h
        · split
          next e => exact (h.readPage e).updMs.failPage.flashReport
          next e => exact (h.readPage e).cross (fun _ _ h => .ite h h.updMs.failPage) fun _ h => h.updMs.makeResident.pageCame.flashReport

@[simp] theorem execWriteBack_answers {pos page unit} : Answers s (execWriteBack pos page unit s) := by
  unfold execWriteBack
  refine .next fun h => ?_
  split
  · exact h
  · exact .ite h (h.cross (fun _ _ h => h) fun _ h => h.setPte.updMs)

@[simp] theorem execWriteBackAck_answers {pos page unit programOk} : Answers s (execWriteBackAck pos page unit programOk s) := by
  unfold execWriteBackAck
  refine .next fun h => ?_
  split
  · exact h
  · extract_lets packed units a _ u u1
    split
    · exact h.updFlash.spareCheck.flashReport
    · split
      · exact h
      · have hu : canonical u := h.withMs (Memory.wf_wrBytes h.1)
        have hu1 : canonical u1 := hu.updFlash
        clear_value u1
        exact hu1.youngPage.spareCheck.flashReport

@[simp] theorem execPageAgeTick_answers : Answers s (execPageAgeTick s) := .next fun h => .ite h.updFlash h

@[simp] theorem execCompressionFallback_answers {page} : Answers s (execCompressionFallback page s) :=
  .next fun h => .ite h (.ite h.updFlash h.updFlash.spareCheck)

@[simp] theorem execBlockRelocation_answers {block} : Answers s (execBlockRelocation block s) := .next fun h => .ite h h.updFlash.spareCheck
@[simp] theorem execWearLevelMove_answers {src dst} : Answers s (execWearLevelMove src dst s) := .next fun h => .ite h h.updFlash.spareCheck

@[simp] theorem execBlockErase_answers {block bad} : Answers s (execBlockErase block bad s) :=
  .next fun h => .ite h.lostLaw (.ite h.updFlash.spareCheck h)

@[simp] theorem execScrubWord_answers {core bank idx ecc} : Answers s (execScrubWord core bank idx ecc s) := by
  unfold execScrubWord
  refine .next fun h => ?_
  extract_lets _ u
  have hu : canonical u := h.updMs
  split
  · exact h
  · split
    · exact hu.checkRead rfl
    · split
      · exact hu
      · exact hu.count.fire
      · exact hu.count

@[simp] theorem execDramPatrolScrub_answers {granule ecc} : Answers s (execDramPatrolScrub granule ecc s) := by
  unfold execDramPatrolScrub
  refine .next fun h => ?_
  split
  · exact h
  · split
    · exact h.count
    · extract_lets u
      have hu : canonical u := h.checkRead rfl
      split
      · exact .ite hu.lostLaw hu
      · exact hu

@[simp] theorem execBridgeUnitReceive_answers {toShore crcOk} : Answers s (execBridgeUnitReceive toShore crcOk s) := by
  unfold execBridgeUnitReceive
  refine .next fun h => ?_
  split
  · exact h
  · split
    · exact h.updMs
    · extract_lets _ u
      have hu : canonical u := h.updMs
      exact .ite hu.enterFaulted hu.count

/-! ### Sweep and map-out -/

theorem canonical.sweep {pos stack frames n r} (h : canonical s) (e : s.sweep pos stack frames n = r) : canonical r.2 := by
  subst e
  induction n generalizing s with
  | zero => exact h
  | succ n ih =>
    unfold State.sweep
    extract_lets i f on
    have hon {u} (h : canonical u) : canonical (on u) := h.updMs
    clear_value on
    split
    · exact ih (hon h)
    · exact ih (hon h.updMs)
    · exact h
    · exact hon h

@[simp] theorem execEvictSweep_answers {pos stack} : Answers s (execEvictSweep pos stack s) := by
  unfold execEvictSweep
  refine .next fun h => ?_
  extract_lets _
  split
  · exact h
  · split
    · exact h.xingFull
    · split
      next e => exact (h.sweep e :)
      next e => exact (h.sweep e).openXing

theorem canonical.noteRows {failed unrepaired} (h : canonical s) : canonical (s.noteRows failed unrepaired) := by
  unfold State.noteRows
  extract_lets u
  have hu : canonical u := h.foldl fun _ _ h => h.updMs.count
  exact hu.foldl fun _ _ h => h.updMs.count

@[simp] theorem execRowMapOut_answers {pos failing} : Answers s (execRowMapOut pos failing s) := by
  unfold execRowMapOut
  refine .next fun h => ?_
  extract_lets _ _ _
  split
  · exact h
  · split
    · exact h.noteRows
    · split
      · exact h.xingFull
      · exact h.openXing

theorem canonical.landRows {k x rows failed unrepaired} (h : canonical s) : canonical (s.landRows k x rows failed unrepaired) := by
  unfold State.landRows
  extract_lets _
  split
  · exact .ite h.abortXing h.landXing.setLog.updMs.countBy.noteRows

theorem canonical.landEvict {k x pos page} (h : canonical s) : canonical (s.landEvict k x pos page) := by
  unfold State.landEvict
  split
  · exact h.landXing
  · exact h.landXing.setPte.updMs

theorem canonical.validated {k x} (h : canonical s) : canonical (s.validated k x) := h.updXing.beats

@[simp] theorem execCrossingCommit_answers {entry err} : Answers s (execCrossingCommit entry err s) := by
  unfold execCrossingCommit
  refine .next fun h => ?_
  split
  · exact h
  · split
    · exact h
    · split
      · exact .ite (.ite h.dropXing.enterFaulted h.landEvict) (.ite h.abortXing (.ite h.abortXing h.validated))
      · exact .ite (.ite h.dropXing.enterFaulted h.landRows) (.ite h.abortXing h.validated)
      · exact h

/-! ### Epochs, the tide and moorings -/

theorem canonical.stepAnswer {d code detail} (h : canonical s) : canonical (s.stepAnswer d code detail) := by
  unfold State.stepAnswer
  extract_lets u u1
  have hu : canonical u := h.writeJob
  have hu1 : canonical u1 := hu.updJob
  exact hu1.bumpCtr

@[simp] theorem execStepCommit_answers : Answers s (execStepCommit s) := by
  unfold execStepCommit
  refine .next fun h => ?_
  split
  · exact h
  · split
    · exact h
    · split
      · exact h.xingFull
      · exact .ite h.stepAnswer (.ite h.stepAnswer h.openXing)

theorem canonical.moorProtect {epoch cursors} (h : canonical s) : canonical (s.moorProtect epoch cursors) := by
  unfold State.moorProtect
  extract_lets _ u
  have hu : canonical u := h.updJob
  exact hu.same

theorem canonical.publishStep {d record moors} (h : canonical s) : canonical (s.publishStep d record moors) := by
  unfold State.publishStep
  extract_lets _ _ u u1 u2
  have hu : canonical u := h.updJob
  have hu1 : canonical u1 := hu.writeJob
  have hu2 : canonical u2 := hu1.foldl fun _ _ h => h.updSpan
  exact .ite hu2.moorProtect hu2

theorem canonical.stepFails {k d code} (h : canonical s) : canonical (s.stepFails k d code) := h.abortXing.stepAnswer

theorem canonical.landStep {k x d} (h : canonical s) : canonical (s.landStep k x d) := by
  unfold State.landStep
  extract_lets e
  exact h.landXing.publishStep.stepAnswer

@[simp] theorem execStepCommitLand_answers {err} : Answers s (execStepCommitLand err s) := by
  unfold execStepCommitLand
  refine .next fun h => ?_
  split
  · exact .ite (.ite h.dropXing.enterFaulted h.landStep) (.ite h (.ite h.stepFails (.ite h.stepFails h.validated)))
  · exact .ite h.landXing h
  · exact h

theorem canonical.timeoutXing {entry x} (h : canonical s) : canonical (s.timeoutXing entry x) := by
  unfold State.timeoutXing
  split
  · split
    · exact h.abortXing
    · exact h.stepFails
  · exact h.abortXing.post
  · exact h.abortXing

@[simp] theorem execCrossingTimeout_answers {entry} : Answers s (execCrossingTimeout entry s) := by
  unfold execCrossingTimeout
  refine .next fun h => ?_
  split
  · exact h
  · exact .ite h.timeoutXing h

theorem canonical.moorDue (h : canonical s) : canonical s.moorDue := by
  unfold State.moorDue
  extract_lets u _
  have hu : canonical u := h.conflict
  exact hu.same

theorem canonical.evTide (h : canonical s) : canonical s.evTide := h.postBoth

@[simp] theorem execTideEvaluate_answers : Answers s (execTideEvaluate s) := by
  unfold execTideEvaluate
  refine .next fun h => ?_
  split
  · exact h
  · split
    next e =>
      extract_lets _ _ _ _ u u1
      have hu : canonical u := (h.takeFree e).same
      have hu1 : canonical u1 := .ite hu.evTide hu
      exact .ite hu1.moorDue hu1

@[simp] theorem execMoorStaging_answers {ecc} : Answers s (execMoorStaging ecc s) := by
  unfold execMoorStaging
  refine .next fun h => ?_
  split
  · exact h
  · split
    · exact h.settleMoor
    · extract_lets _
      split
      next e => exact (h.checkRead e).abandon
      next e => exact (h.checkRead e).copyPage.markStaged.settleMoor

theorem canonical.storeUnits {a n} (h : canonical s) : canonical (s.storeUnits a n) := by
  unfold State.storeUnits
  extract_lets _ _ u
  have hu : canonical u := h.updFlash
  exact hu.foldl fun _ _ h => h.youngPage

theorem canonical.storeBytes {a bs} (h : canonical s) : canonical (s.storeBytes a bs) := (h.withMs (Memory.wf_wrBytes h.1)).storeUnits

theorem canonical.writeMooring (h : canonical s) : canonical s.writeMooring := by
  unfold State.writeMooring
  extract_lets _ _ _ _ _ u u1 u2 _
  have hu : canonical u := h.storeBytes
  have hu1 : canonical u1 := hu.storeBytes
  have hu2 : canonical u2 := hu1.foldl fun _ _ h => h.copyPage.storeUnits
  exact .spareCheck hu2.same

@[simp] theorem execMoorWriting_answers {ok} : Answers s (execMoorWriting ok s) := by
  unfold execMoorWriting
  refine .next fun h => ?_
  split
  · exact h
  · split
    · exact h.abandon
    · split
      · exact h.abandon
      · extract_lets u
        have hu : canonical u := h.updFlash.spareCheck
        exact .ite hu hu.writeMooring

theorem canonical.evMoored (h : canonical s) : canonical s.evMoored := h.postBoth

@[simp] theorem execMoored_answers {ok} : Answers s (execMoored ok s) := by
  unfold execMoored
  refine .next fun h => ?_
  split
  · exact h
  · split
    · exact h.abandon
    · extract_lets _ u _
      have hu : canonical u := h
      split
      · exact hu
      · split
        next e =>
          split
          · exact (hu.logStore e :)
          · split
            · exact (hu.logStore e).abandon
            · extract_lets u1
              have hu1 : canonical u1 := (hu.logStore e).evMoored
              exact hu1.same

/-! ### Job end -/

theorem canonical.discardDescs {pos} (h : canonical s) : canonical (s.discardDescs pos) := by
  unfold State.discardDescs
  extract_lets _ u _ _ u1
  have hu : canonical u := h.foldl fun _ _ h => h.dropOwner
  have hu1 : canonical u1 := hu.same
  exact hu1.foldl fun _ _ h => h.wakeEngine

theorem canonical.closeWindows {pos} (h : canonical s) : canonical (s.closeWindows pos) := h.foldl fun _ _ h => h.beats.count.setWin
theorem canonical.leaveRings {pos} (h : canonical s) : canonical (s.leaveRings pos) := h.foldl fun _ _ h => .freeRing (.ite h.lapOn h)

theorem canonical.feedClosed {pos f} (h : canonical s) : canonical (s.feedClosed pos f) := by
  unfold State.feedClosed
  refine h.foldl fun u _ hu => ?_
  split
  · split
    · exact hu.answer
    · split
      · extract_lets u1
        have hu1 : canonical u1 := hu.updPort
        exact .ite hu1.answer hu1
      · exact hu
  · exact hu

theorem canonical.closeFeeds {pos} (h : canonical s) : canonical (s.closeFeeds pos) := by
  unfold State.closeFeeds
  extract_lets u u1
  have hu : canonical u := h.conflict
  have hu1 : canonical u1 := hu.foldl fun _ _ h => h.feedClosed
  exact hu1.updJob

theorem canonical.clearCores {pos} (h : canonical s) : canonical (s.clearCores pos) := h.foldl fun _ _ h => h.updCore

@[simp] theorem execJobEnding_answers {pos} : Answers s (execJobEnding pos s) :=
  .next fun h => .ite h h.abortWhere.discardDescs.leaveRings.closeWindows.clearCores.updSpan.closeFeeds.updJob

theorem canonical.releaseFrames {pos} (h : canonical s) : canonical (s.releaseFrames pos) := h.updMs
theorem canonical.dropDue {pos} (h : canonical s) : canonical (s.dropDue pos) := .ite h h

theorem canonical.leaveJob {pos} (h : canonical s) : canonical (s.leaveJob pos) := by
  unfold State.leaveJob
  extract_lets _ _ u _ u1 _ _ u2 u3 _ u4 u5
  have hu : canonical u := .ite h h.countBy
  have hu1 : canonical u1 := hu.dropDue.releaseFrames
  have hu2 : canonical u2 := hu1.same
  have hu3 : canonical u3 := hu2.evDoneJob
  have hu4 : canonical u4 := hu3.updJob
  have hu5 : canonical u5 := hu4.foldl fun _ _ h => h.updCore
  exact hu5.answerJob

@[simp] theorem execJobEndDone_answers {pos} : Answers s (execJobEndDone pos s) := .next fun h => .ite h (.ite h (.ite h h.leaveJob))

/-! ### Restore -/

theorem canonical.restoreFails {code} (h : canonical s) : canonical (s.restoreFails code) := .evFault h

@[simp] theorem execRestoreLoadVerify_answers {reads} : Answers s (execRestoreLoadVerify reads s) := by
  unfold execRestoreLoadVerify
  refine .next fun h => ?_
  split
  · exact h
  · extract_lets _
    split
    next e => exact (h.readPages e).restoreFails
    next e =>
      extract_lets u _
      have hu : canonical u := (h.readPages e).foldl fun _ _ h => h.copyPage
      exact .ite hu.same hu.restoreFails

theorem canonical.applyRestore {x} (h : canonical s) : canonical (s.applyRestore x) := by
  unfold State.applyRestore
  extract_lets _ u u1 u2
  have hu : canonical u := h.foldl fun _ _ h => h.copyPage
  have hu1 : canonical u1 := by
    unfold u1
    split
    · exact hu.writeJob
    · exact hu
  have hu2 : canonical u2 := hu1.updJob.count
  exact .postOwner hu2.same

theorem canonical.applyPart {x} (h : canonical s) : canonical (s.applyPart x) := by
  unfold State.applyPart
  split
  next e => exact (h.takeFree e).foldl fun _ _ h => h.copyPage

@[simp] theorem execRestoreCompare_answers {reply ecc} : Answers s (execRestoreCompare reply ecc s) := by
  unfold execRestoreCompare
  refine .next fun h => ?_
  split
  · exact h
  · extract_lets _ _
    split
    · exact h.restoreFails
    · exact h.restoreFails
    · exact .ite h.restoreFails (.ite h.applyPart.updJob.restoreFails h.applyRestore)

/-! ### Job load and start -/

theorem canonical.alloc {stack size n use r} (h : canonical s) (e : s.alloc stack size n use = some r) : canonical r.2 := by
  unfold State.alloc at e
  extract_lets ps at e
  split at e
  · cases e
  · exact Option.some.inj e ▸ h.updMs

theorem canonical.placeRegion {pos r x} (h : canonical s) (e : s.placeRegion pos r = some x) : canonical x.2 := by
  unfold State.placeRegion at e
  split at e
  · exact Option.some.inj e ▸ h
  · obtain ⟨_, hy, rfl⟩ := Option.map_eq_some_iff.1 e
    exact h.alloc hy

theorem canonical.placeRegions {pos rs x} (h : canonical s) (e : s.placeRegions pos rs = some x) : canonical x.2 := by
  induction rs generalizing s x with
  | nil => exact Option.some.inj e ▸ h
  | cons r rs ih =>
    unfold State.placeRegions at e
    split at e
    · cases e
    next hr =>
      obtain ⟨_, hy, rfl⟩ := Option.map_eq_some_iff.1 e
      exact (ih (h.placeRegion hr) hy :)

theorem canonical.placeVersions {pos m stack r} (h : canonical s) (e : s.placeVersions pos m stack = some r) : canonical r.2 := by
  unfold State.placeVersions at e
  extract_lets n at e
  split at e
  · exact Option.some.inj e ▸ h
  · split at e
    · cases e
    · exact Option.some.inj e ▸ h.updMs

theorem canonical.placeTables {pos m stack level r} (h : canonical s) (e : s.placeTables pos m stack level = some r) : canonical r.2 := by
  obtain ⟨_, hy, rfl⟩ := Option.map_eq_some_iff.1 e
  exact h.alloc hy

/-- What a placement leaves, where it succeeds, is in the form. -/
def Placed {α : Type} (o : Option (α × State)) : Prop := ∀ x, o = some x → canonical x.2

theorem canonical.placeReplicas {pos m r} (h : canonical s) (e : s.placeReplicas pos m = some r) : canonical r.2 := by
  have hall (l : List Nat) (o : Option (List PTab × State)) (ho : Placed o) : Placed (l.foldl (fun o i =>
      o.bind fun x => (State.placeTables x.2 pos m (i / 4) (i % 4)).map fun y => (x.1 ++ y.1, y.2)) o) := by
    induction l generalizing o with
    | nil => exact ho
    | cons i l ih =>
      refine ih _ fun x hx => ?_
      obtain ⟨y, hy, hx⟩ := Option.bind_eq_some_iff.1 hx
      obtain ⟨z, hz, rfl⟩ := Option.map_eq_some_iff.1 hx
      exact ((ho y hy).placeTables hz :)
  exact hall _ _ (fun _ hx => Option.some.inj hx ▸ h) r e

theorem canonical.placeRest {pos m r} (h : canonical s) (e : s.placeRest pos m = some r) : canonical r.2 := by
  obtain ⟨_, h1, e⟩ := Option.bind_eq_some_iff.1 e
  obtain ⟨_, h2, e⟩ := Option.bind_eq_some_iff.1 e
  obtain ⟨_, h3, e⟩ := Option.bind_eq_some_iff.1 e
  exact (((h.alloc h1).alloc h2).alloc h3).placeReplicas e

theorem canonical.place {pos m r} (h : canonical s) (e : s.place pos m = some r) : canonical r.2.2.2 := by
  unfold State.place at e
  split at e
  · cases e
  next h1 =>
    split at e
    · cases e
    next h2 =>
      split at e
      · cases e
      next h3 =>
        split at e
        · cases e
        next h4 =>
          obtain ⟨_, h5, rfl⟩ := Option.map_eq_some_iff.1 e
          exact ((((h.placeRegions h1).placeVersions h2).placeVersions h3).placeRegions h4).placeRest h5

theorem canonical.zeroFrames {pos} (h : canonical s) : canonical (s.zeroFrames pos) :=
  h.foldl fun _ _ h => h.withMs (Memory.wf_zeroRange h.1)

theorem canonical.zeroFlash {r} (h : canonical s) : canonical (s.zeroFlash r) := (h.withMs (Memory.wf_zeroRange h.1)).updFlash

theorem canonical.loadBytes {pos va bs} (h : canonical s) : canonical (s.loadBytes pos va bs) := by
  unfold State.loadBytes
  refine h.foldl fun u _ hu => ?_
  extract_lets _
  split
  · exact hu.poke
  · exact hu.storeBytes
  · exact hu

theorem canonical.releaseResults {pos} (h : canonical s) : canonical (s.releaseResults pos) := h
theorem canonical.clearTotals {pos} (h : canonical s) : canonical (s.clearTotals pos) := h

theorem canonical.loadJob {port pos grant raw r} (h : canonical s) (e : s.loadJob port pos grant raw = r) : canonical r.2.2 := by
  subst e
  unfold State.loadJob
  extract_lets m _
  clear_value m
  split
  · exact h
  · split
    · exact h
    next e =>
      extract_lets u _ u1 u2 u3 u4
      have hu : canonical u := (h.place e).releaseResults.clearTotals.zeroFrames
      have hu1 : canonical u1 := hu.same
      have hu2 : canonical u2 := hu1.setJob.putTables
      have hu3 : canonical u3 := hu2.foldl fun _ _ h => h.zeroFlash
      have hu4 : canonical u4 := hu3.foldl fun _ _ h => .ite h h.loadBytes
      clear_value u4
      exact hu4.spareCheck

theorem canonical.startCore {pos core} (h : canonical s) : canonical (s.startCore pos core) := by
  unfold State.startCore
  extract_lets _ _ _ u
  have hu : canonical u := h.updCore
  exact hu.foldl fun _ _ h => h.updJob.putRecord

theorem canonical.startScratch {pos} (h : canonical s) : canonical (s.startScratch pos) := by
  unfold State.startScratch
  extract_lets u m
  have hu : canonical u := h.foldl fun _ _ h => h.withMs (Memory.wf_zeroRange h.1)
  clear_value u
  exact hu.foldl fun _ _ h => h.poke

theorem canonical.startJob {pos} (h : canonical s) : canonical (s.startJob pos) := by
  unfold State.startJob
  extract_lets u u1 u2 _ u3 u4 u5 u6
  have hu : canonical u := h.updJob
  have hu1 : canonical u1 := .countBy (hu.foldl fun _ _ h => h.putLeaf)
  have hu2 : canonical u2 := hu1.dropDue
  have hu3 : canonical u3 := .ite hu2.same hu1
  have hu4 : canonical u4 := hu3.startScratch
  have hu5 : canonical u5 := by
    unfold u5
    split
    · exact .ite hu4 hu4.loadBytes
    · exact hu4
  have hu6 : canonical u6 := .updSpan (hu5.foldl fun _ _ h => h.startCore)
  exact hu6.settleDev

theorem canonical.readPins {pos reads r} (h : canonical s) (e : s.readPins pos reads = r) : canonical r.2 := by
  subst e
  exact h.readPages rfl

theorem canonical.pinIn {pos} (h : canonical s) : canonical (s.pinIn pos) := by
  unfold State.pinIn
  refine h.foldl fun u _ hu => ?_
  split
  · exact hu.cross (fun _ _ h => h) fun _ h => h.makeResident
  · exact hu

@[simp] theorem execJobStartPinsDone_answers {pos reads} : Answers s (execJobStartPinsDone pos reads s) := by
  unfold execJobStartPinsDone
  refine .next fun h => ?_
  split
  · exact h
  · split
    next e => exact (h.readPins e).answerJob
    next e => exact .ite (h.readPins e).answerJob (h.readPins e).pinIn.startJob.answerJob

end Sys2Proof.Claim
end

section
/-! SUPPORT. The canonical form under the host's work: ports, boot, capsules, the debug port, feeds and the clock. -/

set_option Elab.async false

namespace Sys2Proof.Claim

open Sys2Proof.Machine

variable {s u : State}

/-! ### Ports -/

theorem canonical.slotFault {p slot code} (h : canonical s) : canonical (s.slotFault p slot code) := .ite h.updPort h.count.updPort

theorem canonical.examine {p slot} (h : canonical s) : canonical (s.examine p slot) := by
  unfold State.examine
  split
  · exact h.updPort
  · exact h.updPort.slotFault
  · exact h.updPort.slotFault

theorem canonical.takeSlots {p n} (h : canonical s) : canonical (s.takeSlots p n) := by
  induction n generalizing s with
  | zero => exact h
  | succ n ih =>
    unfold State.takeSlots
    exact .ite (ih h.updPort.count) h

theorem canonical.takeAll {p} (h : canonical s) : canonical (s.takeAll p) := h.takeSlots.settleTaken

theorem canonical.writeSlot {p slot off data} (h : canonical s) : canonical (s.writeSlot p slot off data) := by
  unfold State.writeSlot
  extract_lets _ _ u
  have hu : canonical u := h.updPort
  exact .ite hu.examine.takeAll hu

theorem canonical.lostPort {law p} (h : canonical s) : canonical (s.lostPort law p) := h.updPort.lostLaw

@[simp] theorem execLandingSealWrite_answers {port off data bad} : Answers s (execLandingSealWrite port off data bad s) :=
  .next fun h => .ite h (.ite h.lostPort (h.foldl fun _ _ h => h.writeSlot))

theorem canonical.sendMsix {p v} (h : canonical s) : canonical (s.sendMsix p v) := .ite h.updPort h.out

@[simp] theorem execEventWrite_answers {port bad} : Answers s (execEventWrite port bad s) := by
  unfold execEventWrite
  refine .next fun h => ?_
  extract_lets _
  split
  · exact .ite h (.ite h.lostPort h.out.updPort.takeAll)
  · exact h

@[simp] theorem execEvCredit_answers {port} : Answers s (execEvCredit port s) := .next fun h => .ite h h.post

@[simp] theorem execMsixSend_answers {port} : Answers s (execMsixSend port s) := by
  unfold execMsixSend
  refine .next fun h => ?_
  extract_lets _
  split
  · exact h
  · exact .ite h h.sendMsix.updPort

@[simp] theorem execBootstrapEventWrite_answers {port} : Answers s (execBootstrapEventWrite port s) := by
  unfold execBootstrapEventWrite
  refine .next fun h => ?_
  extract_lets _
  split
  · exact h
  · exact .ite h h.updPort.sendMsix.takeAll

theorem canonical.shutFeeds {port} (h : canonical s) : canonical (s.shutFeeds port) := h.foldl fun _ _ h => .ite h.conflict.updJob h

@[simp] theorem execPortReset_answers {port} : Answers s (execPortReset port s) := by
  unfold execPortReset
  refine .next fun h => ?_
  split
  · exact h
  · extract_lets u
    have hu : canonical u := by
      unfold u
      split
      · exact h.dropXing.count
      · exact h
    exact hu.updPort.shutFeeds.fire

@[simp] theorem execPerstRelease_answers {port} : Answers s (execPerstRelease port s) := .next fun h => .ite h h
theorem canonical.clearBlock {port v} (h : canonical s) : canonical (s.clearBlock port v) := .ite h.updPort h

@[simp] theorem execBootRespValidClear_answers {port value} : Answers s (execBootRespValidClear port value s) :=
  .next fun h => .ite h.clearBlock h

theorem canonical.clearSnap {v} (h : canonical s) : canonical (s.clearSnap v) := .ite h h
@[simp] theorem execSnapValidClear_answers {port value} : Answers s (execSnapValidClear port value s) := .next fun h => .ite h.clearSnap h
theorem canonical.updCargo {port f} (h : canonical s) : canonical (s.updCargo port f) := h.updPort
theorem canonical.actCargo {port f} (h : canonical s) : canonical (s.actCargo port f) := .ite h.updCargo h.conflict.updCargo
@[simp] theorem execCargoOpen_answers {port} : Answers s (execCargoOpen port s) := .next fun h => .ite h.actCargo h
@[simp] theorem execCargoClose_answers {port} : Answers s (execCargoClose port s) := .next fun h => .ite h.actCargo h

theorem canonical.writeMsix {port off size value} (h : canonical s) : canonical (s.writeMsix port off size value) := by
  unfold State.writeMsix
  extract_lets _ u _
  have hu : canonical u := h.updPort
  exact .ite hu.updPort.out hu

@[simp] theorem execRegisterWrite_answers {port off size value} : Answers s (execRegisterWrite port off size value s) :=
  .next fun h => .ite h (.ite h.updCargo (.ite h.actCargo (.ite h.clearBlock (.ite h.clearSnap (.ite h.clearSnap (.ite h.writeMsix h))))))

/-! ### Loss of power and boot -/

theorem canonical.fresh (h : canonical s) : canonical s.fresh := ⟨twfFrom_filter h.1, h.2⟩

theorem canonical.tearStaged (h : canonical s) : canonical s.tearStaged := by
  unfold State.tearStaged
  refine h.foldl fun u _ hu => ?_
  split
  · exact .ite hu hu
  · exact hu

theorem canonical.dropRails {cause} (h : canonical s) : canonical (s.dropRails cause) := by
  unfold State.dropRails
  extract_lets u
  have hu : canonical u := h.tearStaged.fresh.setDev
  exact ⟨hu.1, twf_nil, twf_nil⟩

theorem canonical.beginBoot (h : canonical s) : canonical s.beginBoot := by
  unfold State.beginBoot
  extract_lets u
  have hu : canonical u := h.fresh
  exact hu.same

theorem canonical.enterHolding {a b} (h : canonical s) : canonical (s.enterHolding a b) := by
  unfold State.enterHolding
  extract_lets _ u
  have hu : canonical u := h
  exact hu.postBoth

theorem canonical.configure {bank} (h : canonical s) : canonical (s.configure bank) := h

theorem canonical.bootFails {f} (h : canonical s) : canonical (s.bootFails f) := by
  unfold State.bootFails
  split
  · exact h
  · exact h.enterFaulted
  · exact h.enterFaulted
  · exact h.enterFaulted
  · exact h.enterFaulted

theorem canonical.zeroed {fails} (h : canonical s) : canonical (s.zeroed fails) := h.foldl fun _ _ h => .ite h.tallyRow.markRow h
theorem canonical.finishErase (h : canonical s) : canonical s.finishErase := .ite h h.setLog.count

theorem canonical.firstKey (h : canonical s) : canonical s.firstKey := by
  unfold State.firstKey
  split
  · split
    next e => exact (h.freshKey e).logFirmware
  · exact h

theorem canonical.bringUp (h : canonical s) : canonical s.bringUp := by
  unfold State.bringUp
  extract_lets _ u _ _ _ u1
  have hu : canonical u := h.logFirmware
  have hu1 : canonical u1 := hu.same
  exact .ite hu1.bootDone hu1

theorem canonical.bootBank {bank r} (h : canonical s) : canonical (s.bootBank bank r) := by
  unfold State.bootBank
  extract_lets u _
  have hu : canonical u := h.configure.zeroed.firstKey.finishErase
  exact .ite hu.bringUp hu.bootFails

@[simp] theorem execBoot_answers {readA readB fail} : Answers s (execBoot readA readB fail s) := by
  unfold execBoot
  refine .next fun h => ?_
  split
  · exact h
  · extract_lets u
    have hu : canonical u := h.beginBoot
    split
    next e =>
      split
      · exact (hu.bankCode e).bootBank
      · split
        next e1 => exact .ite ((hu.bankCode e).bankCode e1).bootBank ((hu.bankCode e).bankCode e1).enterHolding

/-! ### QUERY -/

theorem canonical.immediate {port op} {f : State → Running → State} (h : canonical s)
    (hf : ∀ u r, canonical u → canonical (f u r)) : canonical (s.immediate port op f) := by
  unfold State.immediate
  split
  · exact h
  · split
    · exact h
    · extract_lets u _
      have hu : canonical u := h.updPort
      exact .ite hu.respond (hf _ _ hu)

@[simp] theorem execQuery_answers {port} : Answers s (execQuery port s) := by
  unfold execQuery
  refine .next fun h => h.immediate fun u _ hu => ?_
  split
  · exact hu.respond
  · exact .ite hu.respond hu.respond

@[simp] theorem execCredit_answers {port} : Answers s (execCredit port s) :=
  .next fun h => h.immediate fun _ _ h => .ite h.respond h.updPort.takeAll

/-! ### Capsules of jobs -/

theorem canonical.ordered {port op} {f : State → Running → State} (h : canonical s) (hf : ∀ u r, canonical u → canonical (f u r)) :
    canonical (s.ordered port op f) := by
  unfold State.ordered
  split
  · exact h
  · split
    · exact h
    · split
      · exact h
      · extract_lets u _
        have hu : canonical u := h.updPort
        exact .ite hu.answer (hf _ _ hu)

theorem canonical.answerFirst {port r} (h : canonical s) : canonical (s.answerFirst port r) := h.updPort.settleTaken

@[simp] theorem execEvqSetup_answers {port} : Answers s (execEvqSetup port s) :=
  .next fun h => h.ordered fun _ _ h => .ite h.answer h.updPort.answerFirst

theorem canonical.cargoTaken {port length} (h : canonical s) : canonical (s.cargoTaken port length) := h.updCargo.out
@[simp] theorem execJobLoad_answers {port} : Answers s (execJobLoad port s) := .next fun h => h.ordered fun _ _ h => .ite h.answer h

theorem canonical.loadCargo {port r data} (h : canonical s) : canonical (s.loadCargo port r data) := by
  unfold State.loadCargo
  extract_lets _ _ _ u
  have hu : canonical u := .ite h.updFlash.spareCheck h
  split
  · exact h.answer
  · split
    · exact hu
    · split
      next e => exact .ite (hu.loadJob e).answer (hu.loadJob e).cargoTaken.answer

@[simp] theorem execJobStart_answers {port} : Answers s (execJobStart port s) := by
  unfold execJobStart
  extract_lets _
  exact .next fun h => .ite h (h.ordered fun _ _ h => .ite h.answer (.ite h.startJob.answer h))

theorem canonical.unloadJob {pos} (h : canonical s) : canonical (s.unloadJob pos) := by
  unfold State.unloadJob
  extract_lets u
  have hu : canonical u := .ite h.restoreFails h
  exact hu.closeFeeds.updJob.leaveJob

@[simp] theorem execJobStop_answers {port} : Answers s (execJobStop port s) := by
  unfold execJobStop
  refine .next fun h => h.ordered fun u _ hu => ?_
  extract_lets _ _
  split
  · exact hu.answer
  · split
    · exact hu.unloadJob
    · exact hu.endJob
    · exact hu

/-! ### Capsules of the host and groups -/

theorem canonical.refused {c} (h : canonical s) : canonical (s.refused c).state := h
theorem canonical.applied {data} (h : canonical s) : canonical (s.applied data).state := h

theorem canonical.openCargo {port r} (h : canonical s) : canonical (s.openCargo port r).state := by
  unfold State.openCargo
  extract_lets _
  split
  · exact h.refused
  · split
    · exact h.refused
    · split
      · exact h.refused
      · split
        · exact h.refused
        · split
          · exact h.refused
          · exact h.updCargo.applied

theorem canonical.feedOpen {port r} (h : canonical s) : canonical (s.feedOpen port r).state := by
  unfold State.feedOpen
  extract_lets pos i j f
  clear_value j f
  split
  · exact h.openCargo
  · split
    · exact h.refused
    · split
      · exact h.refused
      · split
        · exact h.refused
        · split
          · exact h.refused
          · split
            · exact h.refused
            · split
              · exact h.refused
              · split
                · exact h.refused
                · split
                  · exact h.refused
                  · split
                    · exact h.refused
                    · exact h.updJob.applied

theorem canonical.feedClose {port r} (h : canonical s) : canonical (s.feedClose port r).state := by
  unfold State.feedClose
  extract_lets _ _ _ _ _
  split
  · split
    · exact h.updCargo.applied
    · exact h.refused
  · split
    · exact h.refused
    · split
      · exact h.refused
      · split
        · exact h.refused
        · split
          · exact h.refused
          · exact h.updJob.applied

theorem canonical.setResult {h' x} (h : canonical s) : canonical (s.setResult h' x) := h

theorem canonical.releaseResult {port r} (h : canonical s) : canonical (s.releaseResult port r).state := by
  unfold State.releaseResult
  extract_lets _ _
  split
  · exact h.refused
  · split
    · exact h.refused
    · split
      · exact h.refused
      · exact h.setResult.applied

theorem canonical.readResult {port r} (h : canonical s) : canonical (s.readResult port r).state := by
  unfold State.readResult
  extract_lets _ _ _ _
  split
  · exact h.refused
  · split
    · exact h.refused
    · split
      · exact h.refused
      · split
        · exact h.refused
        · split
          · exact h.refused
          · exact h.out.applied

theorem canonical.stageSetting {port r} (h : canonical s) : canonical (s.stageSetting port r).state := by
  unfold State.stageSetting
  extract_lets _ _
  split
  · exact h.refused
  · split
    · exact h.refused
    · split
      · exact h.refused
      · split
        · exact h.refused
        · exact h.updPort.applied

theorem canonical.clearStaged {port id} (h : canonical s) : canonical (s.clearStaged port id) := h.updPort

theorem canonical.storeSettings {port r} (h : canonical s) : canonical (s.storeSettings port r).state := by
  unfold State.storeSettings
  extract_lets _
  split
  · exact h.refused
  · split
    · exact h.applied
    · split
      · exact h.refused
      · split
        · split
          · exact h.refused
          · exact h.setLog.clearStaged.applied

theorem canonical.moorNow {port} (h : canonical s) : canonical (s.moorNow port).state := by
  unfold State.moorNow
  split
  · exact h.refused
  · split
    · exact h.refused
    · split
      · exact h.refused
      · exact h.moorDue.applied

theorem canonical.applyCap {port r} (h : canonical s) : canonical (s.applyCap port r).state := by
  unfold State.applyCap
  split
  · exact h.feedOpen
  · split
    · exact h.feedClose
    · split
      · exact h.releaseResult
      · split
        · exact h.stageSetting
        · split
          · exact h.storeSettings
          · exact h.moorNow

theorem canonical.applyAll {port l} (h : canonical s) : canonical (s.applyAll port l).state := by
  induction l generalizing s with
  | nil => exact h
  | cons x l ih =>
    unfold State.applyAll
    extract_lets a
    split
    · exact h
    · exact ih h.applyCap

theorem canonical.joinGroup {port r g k x} (h : canonical s) : canonical (s.joinGroup port r g k x) :=
  .ite h.answer (.ite h.answer (.ite h.answer h.updPort.updXing.answer))

theorem canonical.expireGroup {port} (h : canonical s) : canonical (s.expireGroup port) := by
  unfold State.expireGroup
  split
  · exact .ite h.timeoutXing h
  · exact h

theorem canonical.ownCrossing {port r wait} (h : canonical s) : canonical (s.ownCrossing port r wait) := by
  unfold State.ownCrossing
  extract_lets _ _ u
  have hu : canonical u := .ite h.applyCap h.applyCap.beats.count
  exact .ite h.xingFull.answer (.ite h.answer (.ite hu hu.answer))

theorem canonical.groupable {port op wait} (h : canonical s) : canonical (s.groupable port op wait) := by
  unfold State.groupable
  extract_lets _
  split
  · exact h
  · refine h.ordered fun u _ hu => ?_
    extract_lets u1
    have hu1 : canonical u1 := hu.expireGroup
    split
    · exact hu1.joinGroup
    · exact hu1.ownCrossing

@[simp] theorem execFeedOpen_answers {port} : Answers s (execFeedOpen port s) := .next fun h => h.groupable
@[simp] theorem execFeedClose_answers {port} : Answers s (execFeedClose port s) := .next fun h => h.groupable
@[simp] theorem execResultRelease_answers {port} : Answers s (execResultRelease port s) := .next fun h => h.groupable
@[simp] theorem execSettingsSet_answers {port} : Answers s (execSettingsSet port s) := .next fun h => h.groupable
@[simp] theorem execSettingsStore_answers {port} : Answers s (execSettingsStore port s) := .next fun h => h.groupable
@[simp] theorem execMoorNow_answers {port} : Answers s (execMoorNow port s) := .next fun h => h.groupable

@[simp] theorem execResultRead_answers {port} : Answers s (execResultRead port s) :=
  .next fun h => h.ordered fun _ _ h => h.readResult.answer

@[simp] theorem execXingBegin_answers {port} : Answers s (execXingBegin port s) := by
  unfold execXingBegin
  refine .next fun h => h.ordered fun u _ hu => ?_
  extract_lets u1 _
  have hu1 : canonical u1 := hu.expireGroup
  split
  · exact hu1.answer
  · split
    · exact hu1.xingFull.answer
    · extract_lets u2 u3
      have hu2 : canonical u2 := hu1.openXing
      have hu3 : canonical u3 := .updPort hu2.same
      exact hu3.answer

@[simp] theorem execXingCommit_answers {port} : Answers s (execXingCommit port s) := by
  unfold execXingCommit
  refine .next fun h => h.ordered fun u _ hu => ?_
  extract_lets _ u1
  have hu1 : canonical u1 := hu.expireGroup
  split
  · split
    · exact hu1.answer
    · extract_lets _ u2
      have hu2 : canonical u2 := hu1.applyAll.landXing.updPort
      exact .ite hu1.abortXing.answer (.ite hu2.answer hu2)
  · exact hu1.answer

@[simp] theorem execXingAbort_answers {port} : Answers s (execXingAbort port s) := by
  unfold execXingAbort
  refine .next fun h => h.ordered fun u _ hu => ?_
  extract_lets _ u1
  have hu1 : canonical u1 := hu.expireGroup
  split
  · exact .ite hu1.answer hu1.abortXing.answer
  · exact hu1.answer

theorem canonical.restoreNow {port r} (h : canonical s) : canonical (s.restoreNow port r).state := by
  unfold State.restoreNow
  extract_lets _ _
  split
  · exact h.refused
  · split
    · exact h.refused
    · split
      · exact h.refused
      · split
        · exact h.refused
        · split
          · exact h.refused
          · exact .applied h

@[simp] theorem execRestore_answers {port} : Answers s (execRestore port s) := .next fun h => h.ordered fun _ _ h => h.restoreNow.answer

/-! ### The debug port -/

@[simp] theorem execGetChallenge_answers : Answers s (execGetChallenge s) := by
  unfold execGetChallenge
  refine .next fun h => ?_
  split
  · exact h
  · split
    next e => exact .out (h.takeRandom e).same

@[simp] theorem execChallengeExpiry_answers : Answers s (execChallengeExpiry s) := by
  unfold execChallengeExpiry
  refine .next fun h => ?_
  split
  · exact .ite h h
  · exact h

theorem canonical.useChallenge {o} (h : canonical s) : canonical (s.useChallenge o) := by
  unfold State.useChallenge
  split
  · exact .ite h h
  · exact h

theorem canonical.orderDone {c} (h : canonical s) : canonical (s.orderDone c) := .out h

theorem canonical.order {kind o} {f : State → State} (h : canonical s) (hf : ∀ u, canonical u → canonical (f u)) :
    canonical (s.order kind o f) := by
  unfold State.order
  split
  · exact h
  · extract_lets _ u
    have hu : canonical u := h.useChallenge
    exact .ite (hf _ hu) hu.orderDone

@[simp] theorem execOrderUnlock_answers {order} : Answers s (execOrderUnlock order s) := .next fun h => h.order fun _ h => .orderDone h
theorem canonical.startOrder {o} (h : canonical s) : canonical (s.startOrder o) := h
@[simp] theorem execOrderErase_answers {order} : Answers s (execOrderErase order s) := .next fun h => h.order fun _ h => h.startOrder
@[simp] theorem execOrderEnrol_answers {order} : Answers s (execOrderEnrol order s) := .next fun h => h.order fun _ h => h.startOrder

theorem canonical.eraseFirst {o} (h : canonical s) : canonical (s.eraseFirst o) := by
  unfold State.eraseFirst
  split
  next e => exact (h.freshKey e).beats.setLog.updFlash.startOrder

theorem canonical.eraseNext {o} (h : canonical s) : canonical (s.eraseNext o) := by
  unfold State.eraseNext
  extract_lets _ u u1
  have hu : canonical u := h.setLog
  have hu1 : canonical u1 := hu.count.eraseTier
  split
  · exact hu.startOrder
  · split
    · exact hu1.orderDone
    · exact hu1.startOrder

theorem canonical.orderStep (h : canonical s) : canonical s.orderStep := by
  unfold State.orderStep
  split
  · exact h
  · split
    · split
      · exact h
      · split
        · split
          next e => exact .ite (h.logStore e).startOrder (h.logStore e).orderDone
        · exact .ite h.orderDone h.eraseFirst
        · split
          next e => exact (h.logStore e).orderDone
    · exact h.eraseNext

/-! ### Publication marks -/

theorem canonical.markPub {pos id v amt} (h : canonical s) : canonical (s.markPub pos id v amt) := h.kept State.kept_markPub

/-! ### Feeds and publications -/

theorem canonical.closeFeed {pos i} (h : canonical s) : canonical (s.closeFeed pos i) := h.updJob.feedClosed
theorem canonical.feedFails {pos i} (h : canonical s) : canonical (s.feedFails pos i) := h.conflict.closeFeed.evFault

@[simp] theorem execFeedPull_answers {pos feed} : Answers s (execFeedPull pos feed s) := by
  unfold execFeedPull
  refine .next fun h => ?_
  split
  · exact h
  · exact .ite h h.updJob

@[simp] theorem execFeedProdPoll_answers {pos feed prod ok} : Answers s (execFeedProdPoll pos feed prod ok s) := by
  unfold execFeedProdPoll
  refine .next fun h => ?_
  split
  · exact h
  · exact .ite h (.ite h.feedFails h.updJob)

theorem canonical.deliver {pos i f d data} (h : canonical s) : canonical (s.deliver pos i f d data) := by
  unfold State.deliver
  extract_lets u u1 u2
  have hu : canonical u := h.writeJob
  have hu1 : canonical u1 := hu.updJob
  have hu2 : canonical u2 := .ite hu1.closeFeed hu1
  exact hu2.bumpCtr.out

@[simp] theorem execFeedBlockDelivered_answers {pos feed data ok} : Answers s (execFeedBlockDelivered pos feed data ok s) := by
  unfold execFeedBlockDelivered
  refine .next fun h => ?_
  split
  · exact h
  · split
    · exact h
    · split
      · exact h.feedFails
      · split
        · exact h
        · split
          · exact h.foldl fun _ _ h => h.faultIn
          · exact .ite h h.deliver

@[simp] theorem execPublish_answers {pos ch} : Answers s (execPublish pos ch s) := by
  unfold execPublish
  refine .next fun h => ?_
  extract_lets _
  split
  · exact .ite h (.ite h.jobFault (.ite h.jobFault (.ite h h.setResult.updJob)))
  · exact h

theorem canonical.publishResult {pos h' data} (h : canonical s) : canonical (s.publishResult pos h' data) := h.setResult.postOwner

theorem canonical.pubContent {pos recAddr c data r} (h : canonical s) (e : s.pubContent pos recAddr c data = r) : canonical r.2 := by
  subst e
  unfold State.pubContent
  split
  · split
    · exact h
    · exact h
  · exact h

@[simp] theorem execPublishCopyDone_answers {pos ch} : Answers s (execPublishCopyDone pos ch s) := by
  unfold execPublishCopyDone
  refine .next fun h => ?_
  extract_lets _
  split
  · extract_lets _ u u1 _
    have hu : canonical u := h.sees rfl
    have hu1 : canonical u1 := hu.updJob
    split
    · exact h
    · split
      · exact h.foldl fun _ _ h => h.faultIn
      · split
        · split
          next e => exact (hu1.pubContent e).publishResult.bumpCtr
        · exact hu1.setResult.jobFault
  · exact h

/-! ### Stall clocks -/

theorem canonical.evStall {pos} (h : canonical s) : canonical (s.evStall pos) := by
  unfold State.evStall
  extract_lets _ _ u u1
  have hu : canonical u := h.postOwner
  have hu1 : canonical u1 := .ite hu hu.postOwner
  exact .ite hu1 hu1.postOwner

@[simp] theorem execStallLimit_answers {pos} : Answers s (execStallLimit pos s) := .next fun h => .ite h h.evStall.endJob

/-! ### The clock -/

theorem canonical.passEngine {e} (h : canonical s) : canonical (s.passEngine e) := by
  unfold State.passEngine
  split
  · exact h.charge
  · exact h.updEngine

theorem canonical.passStall {pos} (h : canonical s) : canonical (s.passStall pos) := .ite h h.updJob
theorem canonical.passCore {core} (h : canonical s) : canonical (s.passCore core) := .ite h h.updCore

theorem canonical.tick (h : canonical s) : canonical (tick s) := by
  unfold Machine.tick
  split
  · exact h
  · extract_lets u u1 u2 u3 u4 u5 u6
    have hu : canonical u := h
    have hu1 : canonical u1 := .ite hu.orderStep hu
    have hu2 : canonical u2 := by
      unfold u2
      split
      · exact hu1.raiseRollback
      · exact hu1
    have hu3 : canonical u3 := hu2.same
    have hu4 : canonical u4 := hu3.foldl fun _ _ h => h.passEngine
    have hu5 : canonical u5 := hu4.passStall.passStall
    have hu6 : canonical u6 := hu5.foldl fun _ _ h => h.passCore
    exact .ite hu1 (.ite hu2 (hu6.foldl fun _ _ h => .ite h h.drainLink))

/-! ### Image capsules -/

@[simp] theorem execImageStage_answers {port} : Answers s (execImageStage port s) := .next fun h => h.ordered fun _ _ h => .ite h.answer h

theorem canonical.stageCargo {port r data} (h : canonical s) : canonical (s.stageCargo port r data) :=
  .ite h.answer (.ite h.answer h.updPort)

theorem canonical.programBank {bank b} (h : canonical s) : canonical (s.programBank bank b) := h
theorem canonical.tearBank {bank} (h : canonical s) : canonical (s.tearBank bank) := h

@[simp] theorem execImageStageProgramDone_answers {port readBackOk} : Answers s (execImageStageProgramDone port readBackOk s) := by
  unfold execImageStageProgramDone
  refine .next fun h => ?_
  split
  · exact h
  · extract_lets _ u u1 _
    have hu : canonical u := h.programBank.fire
    have hu1 : canonical u1 := hu.cargoTaken.answer
    exact .ite h (.ite h.tearBank.fire.answer (.ite h.tearBank.fire.fire.answer (.ite hu1.same hu1)))

@[simp] theorem execCargoReadDone_answers {port prod data} : Answers s (execCargoReadDone port prod data s) := by
  unfold execCargoReadDone
  refine .next fun h => ?_
  split
  · exact h
  · extract_lets _ _ u
    have hu : canonical u := h.updCargo
    exact .ite h (.ite hu.loadCargo hu.stageCargo)

@[simp] theorem execCargoTimeout_answers {port} : Answers s (execCargoTimeout port s) := by
  unfold execCargoTimeout
  refine .next fun h => ?_
  split
  · exact h
  · exact .ite h h.answer

@[simp] theorem execAttest_answers {port} : Answers s (execAttest port s) :=
  .next fun h => h.ordered fun _ _ h => .ite h.answer (.ite h.answer h.out.answer)

end Sys2Proof.Claim
end

section
/-! SUPPORT. The canonical form under the interrupt unit, the power sequencer and the sensors. -/

set_option Elab.async false

namespace Sys2Proof.Claim

open Sys2Proof.Machine

variable {s u : State}

/-! ### The interrupt unit and its timers -/

theorem canonical.updSrc {n f} (h : canonical s) : canonical (s.updSrc n f) := h
theorem canonical.updIuCore {c f} (h : canonical s) : canonical (s.updIuCore c f) := h
theorem canonical.writeSrc {n v} (h : canonical s) : canonical (s.writeSrc n v) := .ite h h.updSrc

@[simp] theorem execIuSrcWrite_answers {reg value} : Answers s (execIuSrcWrite reg value s) := by
  unfold execIuSrcWrite
  refine .next fun h => ?_
  split
  · exact h
  · split
    · exact h.writeSrc
    · exact .ite h.updIuCore h

@[simp] theorem execIuPendingClear_answers {n value} : Answers s (execIuPendingClear n value s) := .next fun h => .ite h.writeSrc h

@[simp] theorem execIuDoorbell_answers {core ring} : Answers s (execIuDoorbell core ring s) :=
  .next fun h => .ite h (h.foldl fun _ _ h => .ite h.fire h)

theorem canonical.startDelivery {n c} (h : canonical s) : canonical (s.startDelivery n c) := h.updSrc

@[simp] theorem execIuDelivery_answers : Answers s (execIuDelivery s) := by
  unfold execIuDelivery
  refine .next fun h => ?_
  split
  · exact h
  · extract_lets _
    refine h.foldl fun u _ hu => ?_
    split
    · exact hu.startDelivery
    · exact hu

@[simp] theorem execIuDeliveryLand_answers {core} : Answers s (execIuDeliveryLand core s) := by
  unfold execIuDeliveryLand
  refine .next fun h => ?_
  split
  · exact h
  · exact .ite h h.updSrc.updIuCore

@[simp] theorem execIuCoreClaim_answers {core} : Answers s (execIuCoreClaim core s) := by
  unfold execIuCoreClaim
  refine .next fun h => ?_
  split
  · exact h
  · exact .ite h h.updSrc.updIuCore

theorem canonical.completeSrc {core n rest} (h : canonical s) : canonical (s.completeSrc core n rest) := by
  unfold State.completeSrc
  extract_lets u
  have hu : canonical u := h.updSrc.updIuCore
  exact .ite hu.startDelivery hu

@[simp] theorem execIuCoreComplete_answers {core source} : Answers s (execIuCoreComplete core source s) := by
  unfold execIuCoreComplete
  refine .next fun h => ?_
  split
  · exact h
  · split
    · exact .ite h.completeSrc h.updIuCore
    · exact h.updIuCore

/-- The timers' tables take values in canonical form. -/
theorem canonical.withTimers (h : canonical s) {x : IntUnit} (hcompare : twf compareReset x.compare = true)
    (hfired : twf false x.fired = true) : canonical { s with iu := x } := ⟨h.1, hcompare, hfired⟩

theorem canonical.timerFire {k} (h : canonical s) : canonical (s.timerFire k) := by
  unfold State.timerFire
  split
  · exact h
  · extract_lets u
    have hu : canonical u := h.fire
    have hfired : twf false (tset false k true u.iu.fired) = true := twf_tset hu.2.2
    exact hu.withTimers hu.2.1 hfired

@[simp] theorem execAotCompareWrite_answers {k value} : Answers s (execAotCompareWrite k value s) := by
  unfold execAotCompareWrite
  refine .next fun h => .ite h (canonical.timerFire ?_)
  have hcompare : twf compareReset (tset compareReset k value s.iu.compare) = true := twf_tset h.2.1
  have hfired : twf false (tset false k false s.iu.fired) = true := twf_tset h.2.2
  exact h.withTimers hcompare hfired

@[simp] theorem execAotTimerFire_answers {k} : Answers s (execAotTimerFire k s) := .next fun h => .ite h h.timerFire
@[simp] theorem execControlDomainSleep_answers : Answers s (execControlDomainSleep s) := .next fun h => .ite h h

@[simp] theorem execControlDomainWake_answers {parityOk} : Answers s (execControlDomainWake parityOk s) := by
  unfold execControlDomainWake
  refine .next fun h => ?_
  split
  · exact h
  · extract_lets _ _ u _
    have hu : canonical u := h
    exact .ite (hu.foldl fun _ _ h => h.fire) (.enterFaulted hu.same)

/-! ### The power sequencer -/

@[simp] theorem execAlwaysOnResetRelease_answers : Answers s (execAlwaysOnResetRelease s) := by
  unfold execAlwaysOnResetRelease
  refine .next fun h => ?_
  split
  · exact h
  · extract_lets u _
    have hu : canonical u := .setDev h
    exact hu.same

theorem canonical.risingEdge (h : canonical s) : canonical s.risingEdge := .ite h (.ite h h)

@[simp] theorem execPwrEnRise_answers : Answers s (execPwrEnRise s) := by
  unfold execPwrEnRise
  refine .next fun h => ?_
  split
  · exact h
  · extract_lets u _ u1 u2 _ _
    have hu : canonical u := h.fire
    have hu1 : canonical u1 := hu.same
    have hu2 : canonical u2 := hu1.risingEdge
    exact .ite hu2.same hu1.same

@[simp] theorem execTripCooldown_answers : Answers s (execTripCooldown s) := .next fun h => .ite h h

@[simp] theorem execRailsInRegulation_answers : Answers s (execRailsInRegulation s) := by
  unfold execRailsInRegulation
  refine .next fun h => ?_
  split
  · exact h
  · extract_lets u _ _
    have hu : canonical u := h.setDev
    exact hu.same

theorem canonical.loseJob {pos} (h : canonical s) : canonical (s.loseJob pos) := by
  unfold State.loseJob
  extract_lets _ _ u _
  have hu : canonical u := .ite h h.countBy
  exact .ite hu.evDoneJob.updJob h

theorem canonical.finishDown (h : canonical s) : canonical s.finishDown := by
  unfold State.finishDown
  extract_lets _ u u1 u2 _
  have hu : canonical u := h.loseJob.loseJob
  have hu1 : canonical u1 := .ite hu.logFirmware hu
  have hu2 : canonical u2 := hu1.dropRails
  clear_value u2
  exact hu2.same

theorem canonical.stopJob {pos} (h : canonical s) : canonical (s.stopJob pos) := by
  obtain ⟨t, ht, hkeeps⟩ := execJobEnding_answers (s := s.endJob pos .stopped E.ok) (pos := pos)
  unfold State.stopJob
  rw [ht]
  exact hkeeps h.endJob

@[simp] theorem execPwrEnFall_answers : Answers s (execPwrEnFall s) := by
  unfold execPwrEnFall
  refine .next fun h => ?_
  split
  · exact h
  · extract_lets u _ u1 _ u2 u3
    have hu : canonical u := h.fire
    have hu1 : canonical u1 := hu.same
    have hu2 : canonical u2 := hu1.same
    have hu3 : canonical u3 := hu2.abandonMoor.stopJob.stopJob
    exact .ite hu1.same (.ite hu1 (.ite hu3.finishDown hu3))

@[simp] theorem execPowerDownWritebackLimit_answers : Answers s (execPowerDownWritebackLimit s) := .next fun h => .ite h h.finishDown

theorem canonical.suddenOff {source cause} (h : canonical s) : canonical (s.suddenOff source cause) := by
  unfold State.suddenOff
  extract_lets _ u _
  have hu : canonical u := h.fire.dropRails
  exact hu.same

@[simp] theorem execPowerEmergency_answers {overVoltage} : Answers s (execPowerEmergency overVoltage s) := .next fun h => .ite h.suddenOff h

@[simp] theorem execRailFault_answers : Answers s (execRailFault s) := by
  unfold execRailFault
  refine .next fun h => ?_
  split
  · extract_lets u _
    have hu : canonical u := h.suddenOff
    exact hu.same
  · exact h

theorem canonical.trip {source cause} (h : canonical s) : canonical (s.trip source cause) := by
  unfold State.trip
  extract_lets u _
  have hu : canonical u := h.suddenOff
  exact hu.same

@[simp] theorem execThermalTrip_answers {dram} : Answers s (execThermalTrip dram s) := .next fun h => .ite h.trip h
@[simp] theorem execThermtripNExternal_answers : Answers s (execThermtripNExternal s) := .next fun h => .ite h.trip h

@[simp] theorem execVinLossOff_answers : Answers s (execVinLossOff s) := by
  unfold execVinLossOff
  refine .next fun h => ?_
  split
  · exact h
  · extract_lets u _ _ _ _
    have hu : canonical u := h.dropRails.setDev
    exact hu.same

@[simp] theorem execStandbyEnter_answers : Answers s (execStandbyEnter s) := .next fun h => .ite h h

@[simp] theorem execStandbyExit_answers : Answers s (execStandbyExit s) := by
  unfold execStandbyExit
  refine .next fun h => ?_
  split
  · extract_lets _ u
    have hu : canonical u := h
    exact hu.takeAll.takeAll
  · exact h

/-! ### Sensors and registers -/

@[simp] theorem execPowerDutyEvaluate_answers {watts duty} : Answers s (execPowerDutyEvaluate watts duty s) := by
  unfold execPowerDutyEvaluate
  refine .next fun h => ?_
  split
  · exact h
  · extract_lets _ u _
    have hu : canonical u := h
    exact .ite hu hu.same

@[simp] theorem execThermalDutyStep_answers {tLogic tDram0 tDram1} : Answers s (execThermalDutyStep tLogic tDram0 tDram1 s) := by
  unfold execThermalDutyStep
  refine .next fun h => ?_
  split
  · exact h
  · extract_lets _ _ u
    have hu : canonical u := .ite h h.fire
    exact .ite hu.same (.ite hu.same (.ite hu.same hu.same))

theorem canonical.smbus {cmd data} (h : canonical s) : canonical (s.smbus cmd data) := .ite h.out h

@[simp] theorem execStatus_answers : Answers s (execStatus s) := by
  unfold execStatus
  refine .next fun h => ?_
  split
  · extract_lets u _
    have hu : canonical u := h.smbus
    exact hu.same
  · exact h

@[simp] theorem execVin_answers {mv} : Answers s (execVin mv s) := .next fun h => .ite (.smbus h) h
@[simp] theorem execIin_answers {value} : Answers s (execIin value s) := .next fun h => .ite (.smbus h) h
@[simp] theorem execPin_answers : Answers s (execPin s) := .next fun h => h.smbus
@[simp] theorem execTLogic_answers : Answers s (execTLogic s) := .next fun h => h.smbus
@[simp] theorem execTDram0_answers : Answers s (execTDram0 s) := .next fun h => h.smbus
@[simp] theorem execTDram1_answers : Answers s (execTDram1 s) := .next fun h => h.smbus

@[simp] theorem execPcap_answers {write} : Answers s (execPcap write s) := by
  unfold execPcap
  refine .next fun h => ?_
  split
  · exact h.smbus
  · exact .ite h h

@[simp] theorem execDuty_answers : Answers s (execDuty s) := .next fun h => h.smbus
@[simp] theorem execEnergy_answers : Answers s (execEnergy s) := .next fun h => h.smbus
@[simp] theorem execTide_answers : Answers s (execTide s) := .next fun h => h.smbus
@[simp] theorem execPrsnt_answers : Answers s (execPrsnt s) := .next fun h => h.smbus
@[simp] theorem execAlertResponse_answers : Answers s (execAlertResponse s) := .next fun h => .ite h.out h
@[simp] theorem execBridgeLaneLost_answers : Answers s (execBridgeLaneLost s) := .next fun h => .ite h.enterFaulted h
@[simp] theorem execReferenceClockLost_answers : Answers s (execReferenceClockLost s) := .next fun h => .ite h.enterFaulted h
@[simp] theorem execRegulatorFault_answers : Answers s (execRegulatorFault s) := .next fun h => .ite h.enterFaulted h
@[simp] theorem execFatalMemoryError_answers {shore} : Answers s (execFatalMemoryError shore s) := .next fun h => .ite h.enterFaulted h
@[simp] theorem execControlCoreWatchdog_answers {core} : Answers s (execControlCoreWatchdog core s) := .next fun h => .ite h.fire h

@[simp] theorem execVoltageDroopEvent_answers : Answers s (execVoltageDroopEvent s) := by
  unfold execVoltageDroopEvent
  refine .next fun h => ?_
  split
  · extract_lets u _
    have hu : canonical u := h.fire
    exact hu.same
  · exact h

@[simp] theorem execStackRefreshDoubled_answers {stack hot marginStep} : Answers s (execStackRefreshDoubled stack hot marginStep s) := by
  unfold execStackRefreshDoubled
  refine .next fun h => ?_
  split
  · exact h
  · extract_lets u _
    have hu : canonical u := .ite h.fire h
    exact hu.same

end Sys2Proof.Claim
end

section
/-! SUPPORT. The canonical form under the instructions of Tiller. -/

set_option Elab.async false

namespace Sys2Proof.Claim

open Sys2Proof.Machine

variable {s u : State}

/-! ### Tokens -/

theorem canonical.setTok {a t} (h : canonical s) : canonical (s.setTok a t) := h.updCore

theorem canonical.entryRead {core ecc} {act : State → State} (h : canonical s) (hact : ∀ u, canonical u → canonical (act u)) :
    canonical (s.entryRead core ecc act) := by
  unfold State.entryRead
  split
  · exact hact _ h
  · exact hact _ h.count.fire
  · exact h.count.lostLaw

theorem canonical.serve {tid op} (h : canonical s) : canonical (s.serve tid op) := by
  unfold State.serve
  split
  · exact h.wake.advance
  · exact h.wake.advance
  · extract_lets _
    split
    · split
      · exact h.threadFault
      · exact h
    · exact h.wake.advance
  · exact h.poke.wake.advance

theorem canonical.walkOnce {a r} (h : canonical s) (e : s.walkOnce a = r) : canonical r.2 := by
  subst e
  unfold State.walkOnce
  refine h.foldlSnd fun b _ hb => ?_
  extract_lets _ _ _
  split
  · exact hb.setTok.serve
  · exact hb

theorem canonical.walk {a n} (h : canonical s) : canonical (s.walk a n) := by
  induction n generalizing s with
  | zero => exact h
  | succ n ih =>
    unfold State.walk
    split
    next e => exact ih (h.walkOnce e)
    next e => exact h.walkOnce e

theorem canonical.walkAll {a} (h : canonical s) : canonical (s.walkAll a) := h.walk

theorem canonical.tokenOp {t c a op} {fin : State → State} (h : canonical s) (hfin : ∀ u, canonical u → canonical (fin u)) :
    canonical (s.tokenOp t c a op fin) :=
  .ite (.walkAll (hfin _ h.setTok)) h.setTok.block

/-! ### Tiller: control, tokens, carries -/

theorem canonical.branch {t c imm f} (h : canonical s) : canonical (s.branch t c imm f) := by
  unfold State.branch
  split
  · exact h.faultAt
  · exact h.setCtxAt

@[simp] theorem execBr_answers {t imm} : Answers s (execBr t imm s) := .next fun h => h.issue fun _ _ h => h.branch

@[simp] theorem execBrp_answers {t p sense imm} : Answers s (execBrp t p sense imm s) :=
  .next fun h => h.issue fun _ _ h => .ite h.branch h.retire

@[simp] theorem execBrr_answers {t ra} : Answers s (execBrr t ra s) := .next fun h => h.issue fun _ _ h => .ite h.setCtxAt h.faultAt
@[simp] theorem execCall_answers {t rd imm} : Answers s (execCall t rd imm s) := .next fun h => h.issue fun _ _ h => h.branch

theorem canonical.ctrOp {t ra imm srcs inX} {body : Ctx → Nat → State → State}
    (hbody : ∀ c k u, canonical u → canonical (body c k u)) (h : canonical s) : canonical (ctrOp t ra imm srcs inX body s) :=
  h.issue fun _ _ h => .ite (hbody _ _ _ h) h.faultAt

@[simp] theorem execWait_answers {t ra rb imm} : Answers s (execWait t ra rb imm s) :=
  .next fun h => h.ctrOp fun _ _ _ h => .ite h.retire h.block

@[simp] theorem execWaitTest_answers {t pd ra rb imm} : Answers s (execWaitTest t pd ra rb imm s) :=
  .next fun h => h.ctrOp fun _ _ _ h => h.retire

@[simp] theorem execGiveC_answers {t ra rb imm} : Answers s (execGiveC t ra rb imm s) := by
  unfold execGiveC
  refine .next fun h => ?_
  refine canonical.ctrOp (fun _ _ u hu => ?_) h
  split
  · exact hu
  · split
    next e => exact (hu.retire.addCtr e).markPub
    · exact hu.faultAt

@[simp] theorem execReadc_answers {t rd ra imm} : Answers s (execReadc t rd ra imm s) := .next fun h => h.ctrOp fun _ _ _ h => h.retire

theorem canonical.slotOp {t ra imm} {body : Ctx → SlotAt → State → State} (hbody : ∀ c a u, canonical u → canonical (body c a u))
    (h : canonical s) : canonical (slotOp t ra imm body s) := by
  unfold Machine.slotOp
  refine h.issue fun _ u hu => ?_
  split
  · exact hu.faultAt
  · split
    · exact hu.faultAt
    · split
      · exact hu.faultAt
      · exact .ite (hbody _ _ _ hu) hu.faultAt

theorem canonical.takeOp {op t ra imm tk} (h : canonical s) : canonical (takeOp op t ra imm tk s) :=
  h.slotOp fun _ _ _ h => h.entryRead fun _ h => .ite h.faultAt (h.tokenOp fun _ h => h.retire)

theorem canonical.giveOp {full t ra imm tk} (h : canonical s) : canonical (giveOp full t ra imm tk s) :=
  h.slotOp fun _ _ _ h => h.entryRead fun _ h => .ite h.faultAt (.ite h h.setTok.retire.walkAll)

@[simp] theorem execTakeF_answers {t ra imm tk} : Answers s (execTakeF t ra imm tk s) := .next fun h => h.takeOp
@[simp] theorem execTakeE_answers {t ra imm tk} : Answers s (execTakeE t ra imm tk s) := .next fun h => h.takeOp
@[simp] theorem execGiveF_answers {t ra imm tk} : Answers s (execGiveF t ra imm tk s) := .next fun h => h.giveOp
@[simp] theorem execGiveE_answers {t ra imm tk} : Answers s (execGiveE t ra imm tk s) := .next fun h => h.giveOp
@[simp] theorem execFence_answers {t} : Answers s (execFence t s) := .next fun h => h.issue fun _ _ h => .ite h.retire h

@[simp] theorem execXbegin_answers {t rd imm} : Answers s (execXbegin t rd imm s) := by
  unfold execXbegin
  refine .next fun h => h.issue fun _ u hu => ?_
  extract_lets _ _ _
  split
  · exact hu.xingFull.setCtxAt
  · exact hu.openXing.retire

theorem canonical.applyWrites {pos ws} (h : canonical s) : canonical (s.applyWrites pos ws) := h.foldl fun _ _ h => h.writeJob

@[simp] theorem execXcommit_answers {t rd} : Answers s (execXcommit t rd s) := by
  unfold execXcommit
  refine .next fun h => h.issue fun _ u hu => ?_
  split
  · exact hu.faultAt
  · split
    · exact hu.faultAt
    · exact .ite hu.abortXing (.ite hu (.ite hu.abortXing (.ite hu.abortXing (.ite hu.abortXing
        (.ite hu hu.landXing.applyWrites.retire)))))

@[simp] theorem execYield_answers {t} : Answers s (execYield t s) := by
  unfold execYield
  refine .next fun h => h.issue fun _ u hu => ?_
  extract_lets _ u1
  have hu1 : canonical u1 := hu.retire
  exact .ite hu1 hu1.updCore

@[simp] theorem execYieldEnd_answers {t} : Answers s (execYieldEnd t s) := by
  unfold execYieldEnd
  refine .next fun h => h.issue fun _ u hu => ?_
  split
  · exact hu
  · extract_lets _ u1 u2
    have hu1 : canonical u1 := hu.updCore
    have hu2 : canonical u2 := hu1.updJob
    exact .ite hu2.endJob hu2

@[simp] theorem execNop_answers {t} : Answers s (execNop t s) := .next fun h => h.issue fun _ _ h => h.retire

@[simp] theorem execRdsys_answers {t rd sel} : Answers s (execRdsys t rd sel s) := by
  unfold execRdsys
  refine .next fun h => h.issue fun _ u hu => ?_
  split
  · exact hu.faultAt
  · exact hu.retire

@[simp] theorem execPmov_answers {t ra} : Answers s (execPmov t ra s) := .next fun h => h.issue fun _ _ h => h.retire
@[simp] theorem execPrd_answers {t rd} : Answers s (execPrd t rd s) := .next fun h => h.issue fun _ _ h => h.retire

@[simp] theorem execIllegalInstruction_answers {t w} : Answers s (execIllegalInstruction t w s) :=
  .next fun h => .ite h (h.issue fun _ _ h => h.faultAt)

/-! ### Tiller: integers -/

theorem canonical.intOp {f t rd ra b} (h : canonical s) : canonical (intOp f t rd ra b s) := h.issue fun _ _ h => h.retire

theorem canonical.shiftOp {f t rd ra b} (h : canonical s) : canonical (shiftOp f t rd ra b s) :=
  h.issue fun _ _ h => .ite h.retire h.faultAt

theorem canonical.longOp {f t rd ra b} (h : canonical s) : canonical (longOp f t rd ra b s) := h.issue fun _ _ h => h.retire
@[simp] theorem execAdd_answers {t rd ra b} : Answers s (execAdd t rd ra b s) := .next fun h => h.intOp
@[simp] theorem execSub_answers {t rd ra b} : Answers s (execSub t rd ra b s) := .next fun h => h.intOp
@[simp] theorem execMul_answers {t rd ra b} : Answers s (execMul t rd ra b s) := .next fun h => h.longOp
@[simp] theorem execMulhu_answers {t rd ra b} : Answers s (execMulhu t rd ra b s) := .next fun h => h.longOp
@[simp] theorem execAnd_answers {t rd ra b} : Answers s (execAnd t rd ra b s) := .next fun h => h.intOp
@[simp] theorem execOr_answers {t rd ra b} : Answers s (execOr t rd ra b s) := .next fun h => h.intOp
@[simp] theorem execXor_answers {t rd ra b} : Answers s (execXor t rd ra b s) := .next fun h => h.intOp
@[simp] theorem execShl_answers {t rd ra b} : Answers s (execShl t rd ra b s) := .next fun h => h.shiftOp
@[simp] theorem execShr_answers {t rd ra b} : Answers s (execShr t rd ra b s) := .next fun h => h.shiftOp
@[simp] theorem execSar_answers {t rd ra b} : Answers s (execSar t rd ra b s) := .next fun h => h.shiftOp
@[simp] theorem execMin_answers {t rd ra b} : Answers s (execMin t rd ra b s) := .next fun h => h.intOp
@[simp] theorem execMax_answers {t rd ra b} : Answers s (execMax t rd ra b s) := .next fun h => h.intOp
@[simp] theorem execMinu_answers {t rd ra b} : Answers s (execMinu t rd ra b s) := .next fun h => h.intOp
@[simp] theorem execMaxu_answers {t rd ra b} : Answers s (execMaxu t rd ra b s) := .next fun h => h.intOp
@[simp] theorem execDivu_answers {t rd ra b} : Answers s (execDivu t rd ra b s) := .next fun h => h.longOp
@[simp] theorem execRemu_answers {t rd ra b} : Answers s (execRemu t rd ra b s) := .next fun h => h.longOp
theorem canonical.cmpOp {f t pd ra rb} (h : canonical s) : canonical (cmpOp f t pd ra rb s) := h.issue fun _ _ h => h.retire
@[simp] theorem execCmpEq_answers {t pd ra rb} : Answers s (execCmpEq t pd ra rb s) := .next fun h => h.cmpOp
@[simp] theorem execCmpNe_answers {t pd ra rb} : Answers s (execCmpNe t pd ra rb s) := .next fun h => h.cmpOp
@[simp] theorem execCmpLt_answers {t pd ra rb} : Answers s (execCmpLt t pd ra rb s) := .next fun h => h.cmpOp
@[simp] theorem execCmpLtu_answers {t pd ra rb} : Answers s (execCmpLtu t pd ra rb s) := .next fun h => h.cmpOp
@[simp] theorem execCmpGe_answers {t pd ra rb} : Answers s (execCmpGe t pd ra rb s) := .next fun h => h.cmpOp
@[simp] theorem execCmpGeu_answers {t pd ra rb} : Answers s (execCmpGeu t pd ra rb s) := .next fun h => h.cmpOp
@[simp] theorem execSel_answers {t rd ra rb p} : Answers s (execSel t rd ra rb p s) := .next fun h => h.issue fun _ _ h => h.retire
@[simp] theorem execLih_answers {t rd ra imm} : Answers s (execLih t rd ra imm s) := .next fun h => h.issue fun _ _ h => h.retire
theorem canonical.prdOp {f t pd pa pb} (h : canonical s) : canonical (prdOp f t pd pa pb s) := h.issue fun _ _ h => h.retire
@[simp] theorem execPand_answers {t pd pa pb} : Answers s (execPand t pd pa pb s) := .next fun h => h.prdOp
@[simp] theorem execPor_answers {t pd pa pb} : Answers s (execPor t pd pa pb s) := .next fun h => h.prdOp
@[simp] theorem execPnot_answers {t pd pa} : Answers s (execPnot t pd pa s) := .next fun h => h.prdOp

theorem canonical.fpOp {srcs f t rd rnd} (h : canonical s) : canonical (fpOp srcs f t rd rnd s) := by
  unfold Machine.fpOp
  refine h.issue fun _ u hu => ?_
  split
  · exact hu.faultAt
  · exact hu.retire

@[simp] theorem execFadd_answers {t rd ra rb rnd} : Answers s (execFadd t rd ra rb rnd s) := .next fun h => h.fpOp
@[simp] theorem execFsub_answers {t rd ra rb rnd} : Answers s (execFsub t rd ra rb rnd s) := .next fun h => h.fpOp
@[simp] theorem execFmul_answers {t rd ra rb rnd} : Answers s (execFmul t rd ra rb rnd s) := .next fun h => h.fpOp
@[simp] theorem execFfma_answers {t rd ra rb rnd} : Answers s (execFfma t rd ra rb rnd s) := .next fun h => h.fpOp
@[simp] theorem execFdiv_answers {t rd ra rb rnd} : Answers s (execFdiv t rd ra rb rnd s) := .next fun h => h.fpOp
@[simp] theorem execFsqrt_answers {t rd ra rnd} : Answers s (execFsqrt t rd ra rnd s) := .next fun h => h.fpOp
@[simp] theorem execFmin_answers {t rd ra rb rnd} : Answers s (execFmin t rd ra rb rnd s) := .next fun h => h.fpOp
@[simp] theorem execFmax_answers {t rd ra rb rnd} : Answers s (execFmax t rd ra rb rnd s) := .next fun h => h.fpOp
@[simp] theorem execFcvtFi_answers {t rd ra rnd} : Answers s (execFcvtFi t rd ra rnd s) := .next fun h => h.fpOp
@[simp] theorem execFcvtIf_answers {t rd ra rnd} : Answers s (execFcvtIf t rd ra rnd s) := .next fun h => h.fpOp
theorem canonical.fcmpOp {f t pd ra rb} (h : canonical s) : canonical (fcmpOp f t pd ra rb s) := h.issue fun _ _ h => h.retire
@[simp] theorem execFeq_answers {t pd ra rb} : Answers s (execFeq t pd ra rb s) := .next fun h => h.fcmpOp
@[simp] theorem execFlt_answers {t pd ra rb} : Answers s (execFlt t pd ra rb s) := .next fun h => h.fcmpOp
@[simp] theorem execFle_answers {t pd ra rb} : Answers s (execFle t pd ra rb s) := .next fun h => h.fcmpOp

/-! ### Tiller: memory -/

@[simp] theorem execLdw_answers {t rd ra imm} : Answers s (execLdw t rd ra imm s) := .next fun h => h.issue fun _ _ h => h.wordLoad
@[simp] theorem execLdws_answers {t rd ra imm} : Answers s (execLdws t rd ra imm s) := .next fun h => h.issue fun _ _ h => h.wordLoad
@[simp] theorem execLdd_answers {t rd ra imm} : Answers s (execLdd t rd ra imm s) := .next fun h => h.issue fun _ _ h => h.wordLoad
@[simp] theorem execStw_answers {t ra rb imm} : Answers s (execStw t ra rb imm s) := .next fun h => h.issue fun _ _ h => h.wordStore
@[simp] theorem execStd_answers {t ra rb imm} : Answers s (execStd t ra rb imm s) := .next fun h => h.issue fun _ _ h => h.wordStore

@[simp] theorem execLdwTk_answers {t rd ra imm tk} : Answers s (execLdwTk t rd ra imm tk s) := by
  unfold execLdwTk
  refine .next fun h => h.issue fun _ u hu => ?_
  split
  · exact hu.faultAt
  · exact hu.entryRead fun _ h => .ite h.load (.ite h (.ite h (.ite h.faultAt (h.tokenOp fun _ h => h.retirePending))))

@[simp] theorem execStwTk_answers {t ra rb imm tk} : Answers s (execStwTk t ra rb imm tk s) := by
  unfold execStwTk
  refine .next fun h => h.issue fun _ u hu => ?_
  split
  · exact hu.faultAt
  · exact hu.entryRead fun _ h => .ite h.storeAt (.ite h (.ite h (.ite h (h.tokenOp fun _ h => h.poke.retire))))

@[simp] theorem execLd8u_answers {t rd ra imm} : Answers s (execLd8u t rd ra imm s) := .next fun h => h.issue fun _ _ h => h.byteLoad
@[simp] theorem execLd16u_answers {t rd ra imm} : Answers s (execLd16u t rd ra imm s) := .next fun h => h.issue fun _ _ h => h.byteLoad
@[simp] theorem execLd32u_answers {t rd ra imm} : Answers s (execLd32u t rd ra imm s) := .next fun h => h.issue fun _ _ h => h.byteLoad
@[simp] theorem execLd64_answers {t rd ra imm} : Answers s (execLd64 t rd ra imm s) := .next fun h => h.issue fun _ _ h => h.byteLoad
@[simp] theorem execLd8s_answers {t rd ra imm} : Answers s (execLd8s t rd ra imm s) := .next fun h => h.issue fun _ _ h => h.byteLoad
@[simp] theorem execLd16s_answers {t rd ra imm} : Answers s (execLd16s t rd ra imm s) := .next fun h => h.issue fun _ _ h => h.byteLoad
@[simp] theorem execLd32s_answers {t rd ra imm} : Answers s (execLd32s t rd ra imm s) := .next fun h => h.issue fun _ _ h => h.byteLoad
@[simp] theorem execSt8_answers {t ra rb imm} : Answers s (execSt8 t ra rb imm s) := .next fun h => h.issue fun _ _ h => h.byteStore
@[simp] theorem execSt16_answers {t ra rb imm} : Answers s (execSt16 t ra rb imm s) := .next fun h => h.issue fun _ _ h => h.byteStore
@[simp] theorem execSt32_answers {t ra rb imm} : Answers s (execSt32 t ra rb imm s) := .next fun h => h.issue fun _ _ h => h.byteStore
@[simp] theorem execSt64_answers {t ra rb imm} : Answers s (execSt64 t ra rb imm s) := .next fun h => h.issue fun _ _ h => h.byteStore

theorem canonical.atomOp {op t rd ra rb f} (h : canonical s) : canonical (atomOp op t rd ra rb f s) := by
  unfold Machine.atomOp
  refine h.issue fun _ u hu => ?_
  extract_lets _ _
  split
  · exact hu.faultAt
  · split
    · exact hu.faultAt
    · refine canonical.walked hu (fun u1 hu1 => ?_)
      split
      · exact hu1.faultAt
      · exact hu1.pageMiss
      · exact .ite hu1 hu1.pushStore.retirePending

@[simp] theorem execAadd_answers {t rd ra rb f} : Answers s (execAadd t rd ra rb f s) := .next fun h => h.atomOp
@[simp] theorem execAand_answers {t rd ra rb f} : Answers s (execAand t rd ra rb f s) := .next fun h => h.atomOp
@[simp] theorem execAor_answers {t rd ra rb f} : Answers s (execAor t rd ra rb f s) := .next fun h => h.atomOp
@[simp] theorem execAxor_answers {t rd ra rb f} : Answers s (execAxor t rd ra rb f s) := .next fun h => h.atomOp
@[simp] theorem execAmin_answers {t rd ra rb f} : Answers s (execAmin t rd ra rb f s) := .next fun h => h.atomOp
@[simp] theorem execAmax_answers {t rd ra rb f} : Answers s (execAmax t rd ra rb f s) := .next fun h => h.atomOp
@[simp] theorem execAminu_answers {t rd ra rb f} : Answers s (execAminu t rd ra rb f s) := .next fun h => h.atomOp
@[simp] theorem execAmaxu_answers {t rd ra rb f} : Answers s (execAmaxu t rd ra rb f s) := .next fun h => h.atomOp
@[simp] theorem execAswap_answers {t rd ra rb f} : Answers s (execAswap t rd ra rb f s) := .next fun h => h.atomOp
@[simp] theorem execAcas_answers {t rd ra rb f} : Answers s (execAcas t rd ra rb f s) := .next fun h => h.atomOp
@[simp] theorem execAfadd_answers {t rd ra rb f} : Answers s (execAfadd t rd ra rb f s) := .next fun h => h.atomOp

@[simp] theorem execLoadReturn_answers {t n ecc} : Answers s (execLoadReturn t n ecc s) := by
  unfold execLoadReturn
  refine .next fun h => ?_
  split
  · exact h
  · split
    · exact h
    · split
      · exact h.setCtxIn
      · exact h
      · split
        next e => exact .ite (h.checkRead e).threadFault (h.checkRead e).setCtxIn
      · exact h
      · split
        · exact h.threadFault
        · exact h.pageMiss
        · split
          · exact h
          · split
            next e => exact .ite (h.touch.checkRead e).threadFault (h.touch.checkRead e).setCtxIn

@[simp] theorem execStorePerform_answers {n ecc} : Answers s (execStorePerform n ecc s) := by
  unfold execStorePerform
  refine .next fun h => ?_
  split
  · exact h
  next p _ =>
    split
    · exact h
    · extract_lets gone
      have hgone : canonical gone := h.updMs
      clear_value gone
      split
      · exact hgone
      · exact h.faultIn
      next pa _ _ =>
        split
        · exact h.updMs
        · extract_lets whole
          have hread : canonical (if whole then (true, gone) else gone.checkRead pa p.size ecc).2 := by
            split
            · exact hgone
            · exact hgone.checkRead rfl
          split
          next e =>
            rw [e] at hread
            split
            · exact canonical.threadFault hread
            · extract_lets u
              have hu : canonical u := (canonical.dirty hread).touch
              clear_value u
              split
              · exact hu.poke
              · exact hu.poke.updThread

end Sys2Proof.Claim
end

section
/-! SUPPORT. Every command answers a next state and keeps the canonical form. Settles O57 and O58. -/

set_option Elab.async false

namespace Sys2Proof.Claim

open Sys2Proof.Machine

variable {s : State}

/-- Each arm of `exec` is a direct call of its command's meaning, and that a meaning answers is a `simp` lemma. -/
theorem exec_answers (i : Instr) : Answers s (exec i s) := by
  cases i <;> simp [exec]

/-- Settles O57: no meaning refuses or faults, as a command whose event cannot happen in a state leaves that state (log 5). -/
theorem everyCommandCompletes : Obligations.EveryCommandCompletes := by
  intro c s
  obtain ⟨t, ht, -⟩ := exec_answers c (s := s)
  exact ⟨t, ht⟩

/-- Settles O58: a step is an AOC cycle or a command, and either keeps the form (R245, R344; log 6). -/
theorem stepKeepsCanonical : Obligations.StepKeepsCanonical := by
  intro s t h hstep
  unfold step at hstep
  split at hstep
  · cases hstep
    exact h.tick
  next c rest _ =>
    obtain ⟨u, hu, hkeeps⟩ := exec_answers c (s := { s with pending := rest })
    cases hu.symm.trans hstep
    exact hkeeps h.same

end Sys2Proof.Claim
end
